-- ==== Sys2Proof/Word.lean ====
section
/-! DEFINITION. Word: the plain quantities of the JS424 (bytes, instants, numbered things) and the
fixed-size table every block keeps its records in. -/

namespace Sys2Proof

/-- A byte of a link frame. -/
abbrev Byte := BitVec 8

/-- A point on the part's own timebase, in whole milliseconds (spec/00 "Instants"; log entry 1). -/
abbrev Instant := Nat

/-- Groups 1 to 16, circuits 1 to 48, plans 1 to 16, preemption entries 1 to 8 and PRQ lines 1 to 4
(spec/00 "Numbering"), each held as an index counted from 0. -/
abbrev GroupIx := Fin 16
abbrev CircuitIx := Fin 48
abbrev PlanIx := Fin 16
abbrev EntryIx := Fin 8
abbrev LineIx := Fin 4

/-- The number the manual gives an index: counted from 1. -/
def number {n : Nat} (i : Fin n) : Nat := i.val + 1

/-- The index a number names, absent outside 1 to `n`. -/
def indexOf (n k : Nat) : Option (Fin n) :=
  if h : 1 ≤ k ∧ k ≤ n then some ⟨k - 1, by omega⟩ else none

/-- Whole tenths of a second as milliseconds (spec/00 "Durations"). -/
def ms (tenths : Nat) : Nat := 100 * tenths

/-- A table of exactly `n` records. -/
structure Table (n : Nat) (α : Type) where
  list : List α
  size : list.length = n
  deriving DecidableEq, Repr

def Table.get {n : Nat} {α : Type} (t : Table n α) (i : Fin n) : α :=
  t.list[i.val]'(by rw [t.size]; exact i.isLt)

def Table.set {n : Nat} {α : Type} (t : Table n α) (i : Fin n) (a : α) : Table n α :=
  ⟨t.list.set i.val a, by rw [List.length_set, t.size]⟩

def Table.modify {n : Nat} {α : Type} (t : Table n α) (i : Fin n) (f : α → α) : Table n α :=
  t.set i (f (t.get i))

def Table.map {n : Nat} {α β : Type} (f : α → β) (t : Table n α) : Table n β :=
  ⟨t.list.map f, by rw [List.length_map, t.size]⟩

/-- The table whose record at each index is `f` of the index. -/
def Table.ofFn {n : Nat} {α : Type} (f : Fin n → α) : Table n α :=
  ⟨(List.finRange n).map f, by simp⟩

/-- The table that holds `a` everywhere. -/
def Table.replicate (n : Nat) {α : Type} (a : α) : Table n α :=
  ⟨List.replicate n a, by simp⟩

end Sys2Proof
end

