-- ==== Sys2Proof/Syntax.lean ====
section
/-! DEFINITION. Syntax: the named values the commands carry and the one inductive of commands, a
constructor for each row of spec/opcode_table.json. Numbers are the manual's own, counted from 1. -/

namespace Sys2Proof

/-- An argument that has named values: one of them, or a value outside them (refused RANGE). -/
inductive Arg (α : Type) where
  | named (a : α)
  | other
  deriving DecidableEq, Repr

/-- What UPDATE_FIELDS says of one field (R178): not named, named with the absent mark, or named with
a value; of a field named twice, what its list says last (log entry 34). -/
inductive Change (α : Type) where
  | keep
  | absent
  | to (a : α)
  deriving DecidableEq, Repr

/-- The field after an update, from the field before it. -/
def Change.apply {α : Type} : Change α → Option α → Option α
  | .keep, held => held
  | .absent, _ => none
  | .to a, _ => some a

inductive GroupKind where
  | vehicle | pedestrian
  deriving DecidableEq, Repr

inductive Technology where
  | incandescent | led
  deriving DecidableEq, Repr

inductive DimLevel where
  | full | dim
  deriving DecidableEq, Repr

inductive PlanClass where
  | base | preempt
  deriving DecidableEq, Repr

inductive Source where
  | line | command
  deriving DecidableEq, Repr

inductive DimAction where
  | on | off | keep
  deriving DecidableEq, Repr

inductive HoldArg where
  | hold | noHold
  deriving DecidableEq, Repr

inductive LockLevel where
  | openLevel | safety | all
  deriving DecidableEq, Repr

inductive ReadView where
  | full | summary
  deriving DecidableEq, Repr

/-- The three changing operations of the record class (R178). -/
inductive RecordOp where
  | write | update | retire
  deriving DecidableEq, Repr

/-- A group record as a command carries it (spec/01 section 1.1): a field left out is absent. -/
structure GroupFields where
  kind : Option (Arg GroupKind)
  reds : Option (List Nat)
  amber : Option Nat
  green : Option Nat
  minGreen : Option Nat
  amberTime : Option Nat
  redAmber : Option Nat
  deriving DecidableEq, Repr

/-- The fields an UPDATE_FIELDS of a group names (R3). -/
structure GroupChanges where
  kind : Change (Arg GroupKind)
  reds : Change (List Nat)
  amber : Change Nat
  green : Change Nat
  minGreen : Change Nat
  amberTime : Change Nat
  redAmber : Change Nat
  deriving DecidableEq, Repr

/-- A stage as a command carries it. -/
structure StageFields where
  green : List Nat
  split : Nat
  deriving DecidableEq, Repr

/-- A plan record as a command carries it (R40). -/
structure PlanFields where
  cls : Option (Arg PlanClass)
  stages : Option (List StageFields)
  cycle : Option Nat
  offset : Option Nat
  slack : Option Nat
  minDwell : Option Nat
  maxDwell : Option Nat
  deriving DecidableEq, Repr

/-- Item (5) of R41: the green set or the split of the stage at an index of the held stage list. Either may be
named with R178's absent mark, which R41 gives no answer to (log entry 33). -/
structure StageEdit where
  index : Nat
  green : Change (List Nat)
  split : Change Nat
  deriving DecidableEq, Repr

/-- The items an UPDATE_FIELDS of a plan names (R41). -/
structure PlanChanges where
  cls : Change (Arg PlanClass)
  stages : Change (List StageFields)
  edits : List StageEdit
  cycle : Change Nat
  offset : Change Nat
  slack : Change Nat
  minDwell : Change Nat
  maxDwell : Change Nat
  deriving DecidableEq, Repr

/-- A preemption entry as a command carries it (R85). -/
structure EntryFields where
  present : Bool
  plan : Option Nat
  priority : Option Nat
  source : Option (Arg Source)
  deriving DecidableEq, Repr

/-- The fields an UPDATE_FIELDS of a preemption entry names (R85). -/
structure EntryChanges where
  present : Change Bool
  plan : Change Nat
  priority : Change Nat
  source : Change (Arg Source)
  deriving DecidableEq, Repr

/-- The commands and events of the part: one constructor per row of the table, in its order. The rows that write the
kinds 6 and 9 carry no index: R178 gives these kinds index 0 and no status for another one, and that a write naming
another is not told from one naming 0 is the model's choice (log entry 14). -/
inductive Instr where
  | readRecord (kind index : Nat) (view : Arg ReadView) (part : Nat)
  | writeRecordGroup (group : Nat) (fields : GroupFields)
  | updateFieldsGroup (group : Nat) (changes : GroupChanges)
  | retireRecordGroup (group : Nat)
  | writeRecordCircuit (circuit : Nat) (technology : Arg Technology) (heads residual : Nat)
  | updateFieldsCircuit (circuit : Nat) (technology : Change (Arg Technology)) (heads residual : Change Nat)
  | writeRecordConflict (l g : Nat) (flag : Bool) (igLG igGL : Option Nat)
  | updateFieldsConflict (l g : Nat) (flag : Change Bool) (igLG igGL : Change Nat)
  | writeRecordPlan (plan : Nat) (fields : PlanFields)
  | updateFieldsPlan (plan : Nat) (changes : PlanChanges)
  | retireRecordPlan (plan : Nat)
  | writeRecordPreemptEntry (entry : Nat) (fields : EntryFields)
  | updateFieldsPreemptEntry (entry : Nat) (changes : EntryChanges)
  | retireRecordPreemptEntry (entry : Nat)
  | writeRecordPreemptTable (length : Nat)
  | writeRecordJunction (startFlash startRed allRed : Nat) (namesMode : Bool)
  | updateFieldsJunction (startFlash startRed allRed : Change Nat) (namesMode : Bool)
  | recordWriteUnsupported (op : RecordOp) (kind : Nat)
  | forgetCircuit (circuit : Nat)
  | insertSwitchpoint (time plan : Nat) (dim : Arg DimAction)
  | deleteSwitchpoint (time : Nat)
  | validatePlan (plan : Nat)
  | learnLamp (circuit : Nat) (level : Arg DimLevel)
  | learnLampAll (level : Arg DimLevel)
  | learnCable (circuit : Nat)
  | learnCableAll
  | ackCable (circuit : Nat)
  | ackCableAll
  | recalibrate
  | dimOn
  | dimOff
  | readStatus
  | readAttention
  | setAttentionMask (mask : BitVec 24)
  | lock (level : Arg LockLevel)
  | start
  | flash
  | dark
  | lockout
  | clearLockout
  | softReset
  | selectPlan (plan : Nat) (hold : Arg HoldArg)
  | releaseToSchedule
  | setModeFree
  | setModeSynced
  | setModeStepped
  | advance
  | preemptAssert (entry : Nat)
  | preemptRelease (entry : Nat)
  | setClock (seconds : Nat)
  | requestRefused (frame : List Byte)
  | chipSelectReleased
  | powerOnReset
  | resetNAsserted
  | lineReset
  | syncPulse
  | advanceLineActive
  | prqLineChange (line : Nat) (active : Bool)
  | prqAsserted (line : Nat)
  | prqReleased (line : Nat)
  | redAmberBegin (group : Nat)
  | greenStart (group : Nat)
  | amberEnd (group : Nat)
  | flashHalf
  | stageEnd
  | latchTaken
  | clearanceLose
  | truncationLose
  | dwellEnd
  | maxDwell
  | syncWatchExpiry
  | clockSecond
  | startFlashEnd
  | startRedEnd
  | allRedEnd
  | litWindowEnd (raw : Int)
  | darkWindowEnd (rawVoltage rawLeakage rawCharge : Int)
  | longCalibrationEnd (zero span : List Int)
  | shortCalibrationAttemptEnd (zero span : List Int)
  | shortCalibrationDue
  | provingRequestDue (circuit : Nat)
  | provingRequestDrop (circuit : Nat)
  | settlingEnd
  | watchCheckDue (circuit : Nat)
  | monitorLate (circuit : Nat)
  | watchAgeLimit (circuit : Nat)
  | roundEligible (circuit : Nat)
  deriving DecidableEq, Repr

end Sys2Proof
end

