-- ==== Sys2Proof/Decode.lean ====
section
/-! DEFINITION. Decode: the part is a block that takes commands; no row of spec/opcode_table.json has
bits, so no word of the table's numbering spells a command. The link's request frames are judged in
Machine/Link.lean. -/

namespace Sys2Proof

/-- The command that a word spells by the table's bits: none, since the table gives no row any bits. -/
def decodeTableWord (_nbits _w : Nat) : Option Instr := none

end Sys2Proof
end

