-- ==== Sys2Proof/Machine/Data.lean ====
section
/-! DEFINITION. Data: the records, running state and replies of the JS424's blocks, as plain data. -/

namespace Sys2Proof.Machine

/-! ## Groups, circuits and outputs (spec/01) -/

inductive Aspect where
  | dark | red | redAmber | green | amber | flashAmber
  deriving DecidableEq, Repr

/-- What a VEHICLE group holds and a PEDESTRIAN group does not. -/
structure VehicleFields where
  amber : CircuitIx
  amberTime : Nat
  redAmber : Nat
  deriving DecidableEq, Repr

/-- The configured fields of a present group; the kind is VEHICLE exactly when `vehicle` is held. -/
structure GroupConfig where
  reds : List CircuitIx
  green : CircuitIx
  minGreen : Nat
  vehicle : Option VehicleFields
  deriving DecidableEq, Repr

/-- A group record (spec/01 section 1.1); it is present exactly when `config` is held. -/
structure Group where
  config : Option GroupConfig
  aspect : Aspect
  aspectEntry : Instant
  awaited : Option Instant
  greenOff : Instant
  deriving DecidableEq, Repr

/-- The aspect a circuit is assigned to (R6). -/
inductive CircuitAspect where
  | red | amber | green
  deriving DecidableEq, Repr

structure Assignment where
  group : GroupIx
  aspect : CircuitAspect
  deriving DecidableEq, Repr

inductive LampState where
  | unmeasured | proven | partialOut | out | overcurrent | unproven
  deriving DecidableEq, Repr

inductive AttributedCause where
  | cableOpen
  deriving DecidableEq, Repr

/-- The training sub-record (R147); `min` and `max` are absent while cleared. -/
structure Training where
  level : DimLevel
  attempt : Nat
  samples : Nat
  min : Option Nat
  max : Option Nat
  sum : Nat
  deriving DecidableEq, Repr

/-- The lamp part of a circuit record. -/
structure LampPart where
  fullRef : Option Nat
  dimRef : Option Nat
  state : LampState
  pendingResult : Option LampState
  agreement : Nat
  lastCurrent : Nat
  lit : Nat
  cause : Option AttributedCause
  training : Option Training
  deriving DecidableEq, Repr

inductive AlarmKind where
  | leak | openCable | foreignVoltage
  deriving DecidableEq, Repr

/-- The cable state; the alarm kind is present while ALARM. -/
inductive CableState where
  | noBaseline | normal | suspect
  | alarm (kind : AlarmKind)
  deriving DecidableEq, Repr

/-- What the cable consecutive count counts (spec/09 section 9.1). -/
inductive CableCondition where
  | foreign | openCable | leak | clear
  deriving DecidableEq, Repr

/-- Baseline leakage and charge, set together by R163. -/
structure Baseline where
  leakage : Nat
  charge : Nat
  deriving DecidableEq, Repr

structure CableLearning where
  samples : Nat
  leakageSum : Nat
  chargeSum : Nat
  deriving DecidableEq, Repr

/-- The cable part of a circuit record, with the items the cable supervision unit holds beside it.
`lateFor` is the watch reference for which MONITOR_LATE has been raised (log entry 19). `ripeFor` is the switch
instant for which the circuit's 1.0 s of darkness has been taken by ROUND_ELIGIBLE (R123; log entry 48). -/
structure CablePart where
  baseline : Option Baseline
  lastVoltage : Nat
  lastLeakage : Nat
  lastCharge : Nat
  state : CableState
  count : Nat
  counted : Option CableCondition
  acknowledged : Bool
  learning : Option CableLearning
  lastCheck : Instant
  watchPresented : Bool
  lateFor : Option Instant
  ripeFor : Option Instant
  deriving DecidableEq, Repr

/-- A circuit's proving schedule (spec/08 section 8.2): the switch-on instant of an open lit period, the
next due instant, and the due instant of a presented request. -/
structure ProvingSchedule where
  litSince : Option Instant
  nextDue : Option Instant
  presented : Option Instant
  deriving DecidableEq, Repr

/-- A drive of the output driver (R17). -/
structure Drive where
  on : Bool
  lastSwitch : Instant
  deriving DecidableEq, Repr

/-- A circuit record with the driver's and the proving unit's items for the circuit. -/
structure Circuit where
  technology : Technology
  heads : Nat
  residual : Nat
  drive : Drive
  schedule : ProvingSchedule
  lamp : LampPart
  cable : CablePart
  deriving DecidableEq, Repr

/-- The running flash timebase: its present half and the instant the next half begins (R14). -/
structure FlashBase where
  on : Bool
  next : Instant
  deriving DecidableEq, Repr

/-- The output driver's items other than the drives (section 1.5, 1.6); `safeSince` is the instant
SAFE_ENABLE last became active (R153). -/
structure Output where
  safeEnable : Bool
  safeSince : Instant
  dim : Bool
  flash : Option FlashBase
  deriving DecidableEq, Repr

/-! ## Conflict table and guard (spec/02) -/

/-- The intergreens of a conflicting pair: from the lower group number to the higher, and back. -/
structure Intergreens where
  up : Nat
  down : Nat
  deriving DecidableEq, Repr

/-- An open request of the intergreen guard (section 2.3). -/
structure GuardRequest where
  group : GroupIx
  change : Instant
  deriving DecidableEq, Repr

/-! ## Plans (spec/03) -/

/-- A stage; its green set is held as the ascending list of its groups. -/
structure Stage where
  green : List GroupIx
  split : Nat
  deriving DecidableEq, Repr

/-- The fields of the plan's class (R39). -/
inductive ClassFields where
  | base (cycle offset slack : Nat)
  | preempt (minDwell maxDwell : Nat)
  deriving DecidableEq, Repr

structure PlanBody where
  stages : List Stage
  fields : ClassFields
  deriving DecidableEq, Repr

/-- The derived fields a BASE plan holds and a PREEMPT plan does not (R58, R59). -/
structure BaseDerived where
  ceff : Nat
  stretched : Bool
  slackSplit : Nat
  slackFloor : Nat
  deriving DecidableEq, Repr

structure Derived where
  interstages : List Nat
  effective : List Nat
  demand : Nat
  base : Option BaseDerived
  deriving DecidableEq, Repr

inductive PlanPhase where
  | ready | selected | active | invoked
  deriving DecidableEq, Repr

/-- A plan record: derived fields are held exactly in READY, SELECTED, ACTIVE and INVOKED (R60). -/
inductive Plan where
  | free
  | draft (body : PlanBody)
  | valid (phase : PlanPhase) (body : PlanBody) (derived : Derived)
  deriving DecidableEq, Repr

/-! ## Stage sequencer (spec/04) -/

inductive SeqState where
  | idle | interstage | stage | clearance
  deriving DecidableEq, Repr

inductive Direction where
  | lengthen | shorten
  deriving DecidableEq, Repr

structure Remainder where
  direction : Direction
  amount : Nat
  deriving DecidableEq, Repr

inductive SyncStatus where
  | none | held | notHeld | lost
  deriving DecidableEq, Repr

/-- The cycle position: `value` at the instant `since`, advancing one unit each 0.1 s up to `limit`, the
nominal position of the boundary ahead; held at `value` when `since` is absent (R65). -/
structure CyclePosition where
  value : Nat
  since : Option Instant
  limit : Nat
  deriving DecidableEq, Repr

structure Sequencer where
  state : SeqState
  current : Option PlanIx
  pendingPlan : Option PlanIx
  stage : Option Nat
  interStart : Instant
  greenStart : Instant
  greenStarts : Table 16 (Option Instant)
  position : Option CyclePosition
  excess : Nat
  remainder : Option Remainder
  sync : SyncStatus
  lastPulse : Option Instant
  watchStart : Option Instant
  latch : Bool
  /-- gaining groups of the transition into the running stage -/
  gaining : List GroupIx
  /-- losing groups of the running transition -/
  losing : List GroupIx
  /-- the instant a LOSE not yet given falls due (R81, R95, R102) -/
  loseAt : Option Instant
  /-- green length of the running stage, 0.1 s units, from its green start; absent in STEPPED mode -/
  length : Option Nat
  /-- the stage also waits for its gaining groups' min greens (R78, R102) -/
  holdMinGreen : Bool
  /-- the saved green elapsed of a stage resumed after a preemption (R102) -/
  resumed : Option Nat
  /-- the slack stage's green length fixed for the cycle (R68) -/
  slackLength : Option Nat
  /-- max dwell has been reached in the running dwell (R98) -/
  dwellOver : Bool
  /-- preemption contexts accepted over the interstage that is still completing (R94) -/
  above : Nat
  deriving DecidableEq, Repr

/-! ## Preemption (spec/05) -/

inductive PCode where
  | range | absent | state | plan | busy | stuck | depth
  deriving DecidableEq, Repr

structure EntryConfig where
  plan : PlanIx
  priority : Nat
  source : Source
  deriving DecidableEq, Repr

/-- A preemption entry; it is present exactly when `config` is held. -/
structure Entry where
  config : Option EntryConfig
  stuck : Bool
  asserted : Bool
  deriving DecidableEq, Repr

/-- A context's entry and its priority. -/
structure Invoker where
  entry : EntryIx
  priority : Nat
  deriving DecidableEq, Repr

/-- A context (spec/05 section 5.4); the base context is the one with no invoker. -/
structure Context where
  plan : PlanIx
  invoker : Option Invoker
  stage : Nat
  elapsed : Nat
  slackLength : Option Nat
  position : Option Nat
  excess : Nat
  inDwell : Bool
  dwell : Nat
  deriving DecidableEq, Repr

/-- An element of the pending list; arrival order is the list's order within one priority (R92). -/
structure Waiting where
  entry : EntryIx
  priority : Nat
  deriving DecidableEq, Repr

/-- A PRQ line: its level, the instant of its last change, its qualified state (R87). -/
structure PrqLine where
  active : Bool
  since : Instant
  asserted : Bool
  deriving DecidableEq, Repr

/-- The preemption unit; `chain` holds the top context first. -/
structure Preemption where
  entries : Table 8 Entry
  length : Nat
  lastRefusal : Option (EntryIx × PCode)
  chain : List Context
  waiting : List Waiting
  lines : Table 4 PrqLine
  deriving DecidableEq, Repr

/-! ## Schedule and clock (spec/06) -/

structure SwitchPoint where
  time : Nat
  plan : PlanIx
  dim : DimAction
  deriving DecidableEq, Repr

structure Schedule where
  clock : Nat
  clockSet : Bool
  nextSecond : Instant
  points : List SwitchPoint
  current : Option Nat
  hold : Bool
  owed : Bool
  deriving DecidableEq, Repr

/-! ## Measurement channel (spec/07) -/

inductive ChannelState where
  | calLong | ready | measuring | calShort | fault
  deriving DecidableEq, Repr

inductive DarkRequester where
  | watch | round
  deriving DecidableEq, Repr

/-- A LIT window carries the dim level at its start; a DARK window its requester and its dark time at
start. The requester of a LIT window is PROVING (R119, R120). -/
inductive WindowKind where
  | lit (level : DimLevel)
  | dark (requester : DarkRequester) (darkTime : Nat)
  deriving DecidableEq, Repr

structure InFlight where
  circuit : CircuitIx
  kind : WindowKind
  start : Instant
  deriving DecidableEq, Repr

inductive CalKind where
  | long | short
  deriving DecidableEq, Repr

structure Calibration where
  kind : CalKind
  start : Instant
  attempt : Nat
  deriving DecidableEq, Repr

structure CalRecord where
  kind : CalKind
  pass : Bool
  offset : Int
  gain : Option Int
  ended : Instant
  deriving DecidableEq, Repr

structure Channel where
  state : ChannelState
  offset : Int
  gain : Int
  shortDue : Option Instant
  shortPresented : Bool
  failFlag : Bool
  owed : Bool
  inFlight : Option InFlight
  calibration : Option Calibration
  lastRecord : Option CalRecord
  deriving DecidableEq, Repr

/-! ## Proving and cable supervision, part-wide items (spec/08 section 8.2, spec/09 section 9.1) -/

structure Supervision where
  settlingEnd : Option Instant
  roundPointer : Nat
  roundOffer : Option CircuitIx
  deriving DecidableEq, Repr

/-! ## Junction controller (spec/10) -/

inductive Mode where
  | free | synced | stepped
  deriving DecidableEq, Repr

inductive JunctionState where
  | dark | startFlash | startRed | running | flash | lockout
  deriving DecidableEq, Repr

inductive FlashClearance where
  | awaitingRed
  | allRed (start : Instant)
  deriving DecidableEq, Repr

inductive LockoutCause where
  | foreignGreen | redLost | monitor | forced
  deriving DecidableEq, Repr

structure LockoutRecord where
  cause : LockoutCause
  group : Option GroupIx
  circuit : Option CircuitIx
  time : Option Nat
  further : Bool
  cleared : Bool
  deriving DecidableEq, Repr

inductive ResetCause where
  | powerOn | line | soft
  deriving DecidableEq, Repr

structure Junction where
  mode : Mode
  startFlash : Nat
  startRed : Nat
  allRed : Nat
  state : JunctionState
  entry : Instant
  clearance : Option FlashClearance
  lockout : Option LockoutRecord
  resetCause : ResetCause
  deriving DecidableEq, Repr

/-! ## The link (spec/11) -/

inductive Status where
  | ok | crc | frame | unknown | range | state | locked | busy | absent | full | taken | invalid
  | preempt | noPlan | monitorFault
  deriving DecidableEq, Repr

/-- The failing check of a validation with its details (R51 to R53); `vRange true` is DWELL. -/
inductive ValidationFailure where
  | vStages (count : Nat)
  | vGroup (stage group : Nat)
  | vConflict (stage low high : Nat)
  | vSlack (slack count : Nat)
  | vRange (dwell : Bool)
  deriving DecidableEq, Repr

/-- The circuit and kind of the measurement in flight as a channel read shows them (R117). -/
structure MeasuringView where
  circuit : CircuitIx
  isLit : Bool
  deriving DecidableEq, Repr

/-- The last calibration record as a channel read shows it: its end instant as a saturating elapsed
time in 0.1 s units (R117). -/
structure CalRecordView where
  kind : CalKind
  pass : Bool
  offset : Int
  gain : Option Int
  since : Nat
  deriving DecidableEq, Repr

/-- What a FULL read of the channel adds (R117). -/
structure ChannelDetail where
  offset : Int
  gain : Int
  untilShortDue : Option Nat
  failFlag : Bool
  owed : Bool
  lastRecord : Option CalRecordView
  deriving DecidableEq, Repr

/-- What a record read returns (R5, R9, R27, R43, R86, R109, R117, R164, R172), before it is laid out in
bytes. Elapsed times of instants without a stated unit are in milliseconds (log entry 29). -/
inductive RecordView where
  | group (present : Bool) (aspect : Aspect) (sinceGreenOff : Nat) (config : Option GroupConfig)
  | circuitSummary (assignment : Option Assignment) (lamp : LampState) (lit : Nat)
      (cause : Option AttributedCause) (cable : CableState)
  | circuitFull (number : Nat) (assignment : Option Assignment) (technology : Technology)
      (heads residual : Nat) (lamp : LampPart) (baseline : Option Baseline)
      (voltage leakage charge : Nat) (cable : CableState) (count : Nat) (acknowledged : Bool)
      (learning : Option CableLearning) (sinceCheck : Nat)
  | conflictRow (flags : List Bool) (intergreens : Option (List (Option (Nat × Nat))))
  | planSummary (phase : Option (Option PlanPhase)) (cls : Option PlanClass) (stages : Nat)
      (cycle : Option (Bool × Nat))
  | planFull (plan : Plan)
  | entry (present stuck asserted : Bool) (config : Option EntryConfig)
  | preemptTable (length : Nat) (lastRefusal : Option (EntryIx × PCode)) (waiting : List Waiting)
  | schedule (count : Nat) (current : Option Nat) (hold owed : Bool)
      (points : Option (List SwitchPoint))
  | channel (state : ChannelState) (measuring : Option MeasuringView) (detail : Option ChannelDetail)
  | junction (mode : Mode) (startFlash startRed allRed : Nat)
  | lockout (record : Option LockoutRecord)
  deriving DecidableEq, Repr

/-- The names that the details of a validation's failure or of its pass give (R50, R53). -/
inductive DetailName where
  | cls (cls : PlanClass)
  | range (dwell : Bool)
  | stretched (yes : Bool)
  deriving DecidableEq, Repr

/-- A field of those details: a number with the fewest bytes that hold its range, or a name. -/
inductive Detail where
  | number (width value : Nat)
  | named (name : DetailName)
  deriving DecidableEq, Repr

/-- The codes by which a number that may be negative is written in bytes: no rule names one (log entry 50). `excess`
counts from half of the width's range below 0. -/
inductive SignForm where
  | twosComplement | onesComplement | signMagnitude | excess
  deriving DecidableEq, Repr, Inhabited

/-- A number of a payload whose range takes more than one byte, with the fewest bytes that hold that range; `signed`
where the range goes below 0. -/
inductive WideNumber where
  | plain (least value : Nat)
  | signed (least : Nat) (value : Int)
  deriving DecidableEq, Repr

/-- What no rule states of a payload with wide numbers (log entries 11, 12): the bytes before the first of them, and
by a number's place among them its rank in the payload, the bytes above the least that carry it, and the bytes behind
it. -/
structure PayloadForm where
  lead : List Byte
  rank : Nat → Nat
  spare : Nat → Nat
  behind : Nat → List Byte
  deriving Inhabited

/-- A reply's payload (R177). -/
inductive Payload where
  | empty
  /-- an outcome word, numbered from 0 (R177), or a count -/
  | word (value : Nat)
  | bytes (payload : List Byte)
  | taken (circuit : CircuitIx)
  | invalid (failure : ValidationFailure)
  | preempt (code : PCode) (entry : Nat)
  | validated (cls : PlanClass) (demand : Nat) (cycle : Option (Nat × Bool))
  | record (view : RecordView) (part parts : Nat) (slice : List Byte)
  deriving DecidableEq, Repr

structure Reply where
  status : Status
  payload : Payload
  deriving DecidableEq, Repr

/-- The current transaction: none, one whose request has begun and not ended, one whose command has been taken and
whose reply stands, or one a reset has discarded and whose chip select is still active (R175). -/
inductive Transaction where
  | idle
  | receiving
  | replying (reply : Reply)
  | discarded
  deriving DecidableEq, Repr

/-- The attention kinds in the order of their bits (spec/11 section 11.4). -/
inductive Attention where
  | lampAlarm | cableAlarm | lockout | junctionState | trainDone | trainFail | cableLearned | calFail
  | monitorLate | syncLost | syncRegained | cycleStretched | planChanged | preemptStart | preemptEnd
  | preemptRefused | preemptStuck | schedulePlanInvalid
  deriving DecidableEq, Repr

structure Link where
  lock : LockLevel
  attention : BitVec 18
  mask : BitVec 18
  transaction : Transaction
  deriving DecidableEq, Repr

end Sys2Proof.Machine
end

