-- ==== Sys2Proof/Config.lean ====
section
/-! DEFINITION. Config: the values and layouts the manual leaves open. Each is a constant without a
body, so nothing can be proved of its value. -/

namespace Sys2Proof

/-- DESIGN CHOICE (safe; log entries 4, 8, 9, 22, 32, 40). Free numbers, read by the state's draw counter. -/
opaque Config.choice : Nat → Nat

/-- DESIGN CHOICE (safe; log entry 7). Whether a duration in milliseconds that is not a whole number of
tenths is counted up to the next tenth, where no rule states the rounding. -/
opaque Config.roundsUp : Nat → Bool

/-- DESIGN CHOICE (safe; log entries 2, 40). The converter's reading in a window whose readings no command
carries, by the draw counter and the reading's place in the window. -/
opaque Config.reading : Nat → Nat → Int

/-- DESIGN CHOICE (safe; log entry 11). The byte layout of a record read, but that each of its wide numbers stands in
it with its most significant byte first. -/
opaque Config.recordForm : Machine.RecordView → Machine.PayloadForm

/-- DESIGN CHOICE (safe among the four, else unsafe; log entry 50). The code in which a number that may be negative
stands in its bytes. -/
opaque Config.signForm : Machine.SignForm

/-- DESIGN CHOICE (safe; log entry 49). The code of a name among the details of a validation's failure or of its
pass. -/
opaque Config.detailCode : Machine.DetailName → Byte

/-- DESIGN CHOICE (safe; log entry 49). By the field's place in the payload, how many bytes above the least that its
range needs carry a number among those details; read up to 2. -/
opaque Config.detailSpare : Machine.Payload → Nat → Nat

/-- DESIGN CHOICE (safe; log entry 12). Whether a payload's length fits the form of a command that
carries arguments, by opcode. -/
opaque Config.payloadFits : Nat → List Byte → Bool

/-- DESIGN CHOICE (safe; log entry 12). The command that a payload which fits its opcode's form carries; none
where an argument of a DIM, SET_MODE or PREEMPT is not one of the named ones. -/
opaque Config.payloadCommand : Nat → List Byte → Option Instr

/-- DESIGN CHOICE (safe; log entry 12). Where the wide numbers of a command stand in a payload that carries it; each
stands with its most significant byte first. -/
opaque Config.argumentForm : Instr → List Byte → Machine.PayloadForm

/-- DESIGN CHOICE (safe; log entry 21). When one UPDATE_FIELDS of a plan names the whole stage list and
single stages, whether the single stages are changed in the new list. -/
opaque Config.editsOverNewList : Bool

end Sys2Proof
end

