-- ==== Sys2Proof/Machine/State.lean ====
section
/-! DEFINITION. State: the whole state of the part, as plain data, and the machine right after a
power-on reset. -/

namespace Sys2Proof.Machine

/-- The state, one field per block, with the model's own three fields: `now`, the present instant (log
entry 1); `draws`, the counter free values are read by (log entry 4); `pending`, the commands that wait,
first in first out. `resetHeld` says that RESET_N is active (R1). -/
structure State where
  now : Instant
  draws : Nat
  resetHeld : Bool
  link : Link
  groups : Table 16 Group
  circuits : Table 48 Circuit
  output : Output
  /-- pair {a, b}, a below b, at index 16 a + b; the other places are not used -/
  conflicts : Table 256 (Option Intergreens)
  guard : List GuardRequest
  plans : Table 16 Plan
  seq : Sequencer
  pre : Preemption
  sched : Schedule
  channel : Channel
  sup : Supervision
  junction : Junction
  pending : List Instr
  deriving DecidableEq, Repr

/-- No rule of the manual stops the part: there is no fault. -/
inductive Fault where
  deriving DecidableEq, Repr

/-- Refusals of a step. -/
inductive Refusal where
  /-- Raised by exec for a command that has no meaning in the model; none is left. Safe: the model stops
  where the part goes on. -/
  | notModelled (mnemonic : String)
  deriving DecidableEq, Repr

/-- An empty group record at a reset (R5). -/
def Group.atReset (now : Instant) : Group :=
  { config := none, aspect := .dark, aspectEntry := now, awaited := none, greenOff := now }

/-- A circuit record at a reset (R9, R19, R132, R151). -/
def Circuit.atReset (now : Instant) : Circuit :=
  { technology := .incandescent, heads := 1, residual := 0,
    drive := { on := false, lastSwitch := now },
    schedule := { litSince := none, nextDue := none, presented := none },
    lamp := { fullRef := none, dimRef := none, state := .unmeasured, pendingResult := none,
              agreement := 0, lastCurrent := 0, lit := 0, cause := none, training := none },
    cable := { baseline := none, lastVoltage := 0, lastLeakage := 0, lastCharge := 0,
               state := .noBaseline, count := 0, counted := none, acknowledged := false,
               learning := none, lastCheck := now, watchPresented := false, lateFor := none, ripeFor := none } }

/-- The sequencer's items at a reset (section 4.1). -/
def Sequencer.atReset (now : Instant) : Sequencer :=
  { state := .idle, current := none, pendingPlan := none, stage := none, interStart := now,
    greenStart := now, greenStarts := Table.replicate 16 none, position := none, excess := 0,
    remainder := none, sync := .none, lastPulse := none, watchStart := none, latch := false,
    gaining := [], losing := [], loseAt := none, length := none, holdMinGreen := false,
    resumed := none, slackLength := none, dwellOver := false, above := 0 }

/-- The channel at a reset: a long calibration begins (R116). -/
def Channel.atReset (now : Instant) : Channel :=
  { state := .calLong, offset := 0, gain := 1024, shortDue := none, shortPresented := false,
    failFlag := false, owed := false, inFlight := none,
    calibration := some { kind := .long, start := now, attempt := 1 }, lastRecord := none }

/-- The machine right after a power-on reset at instant 0, its lines inactive and its queue empty. -/
def State.reset : State :=
  { now := 0, draws := 0, resetHeld := false,
    link := { lock := .openLevel, attention := 0, mask := BitVec.allOnes 18, transaction := .idle },
    groups := Table.replicate 16 (Group.atReset 0),
    circuits := Table.replicate 48 (Circuit.atReset 0),
    output := { safeEnable := false, safeSince := 0, dim := false, flash := none },
    conflicts := Table.replicate 256 (some { up := 50, down := 50 }),
    guard := [],
    plans := Table.replicate 16 .free,
    seq := Sequencer.atReset 0,
    pre := { entries := Table.replicate 8 { config := none, stuck := false, asserted := false },
             length := 0, lastRefusal := none, chain := [], waiting := [],
             lines := Table.replicate 4 { active := false, since := 0, asserted := false } },
    sched := { clock := 0, clockSet := false, nextSecond := 1000, points := [], current := none,
               hold := false, owed := false },
    channel := Channel.atReset 0,
    sup := { settlingEnd := none, roundPointer := 0, roundOffer := none },
    junction := { mode := .free, startFlash := 100, startRed := 50, allRed := 30, state := .dark,
                  entry := 0, clearance := none, lockout := none, resetCause := .powerOn },
    pending := [] }

end Sys2Proof.Machine
end

