-- ==== Sys2Proof/Machine/Ops.lean ====
section
/-! DEFINITION. Ops: the named operations every block is written over: record updates, replies,
attention, free values, durations, and the conflict table's lookups. -/

namespace Sys2Proof.Machine

/-! ## Record updates -/

def State.group (s : State) (g : GroupIx) : Group := s.groups.get g
def State.circuit (s : State) (c : CircuitIx) : Circuit := s.circuits.get c
def State.plan (s : State) (p : PlanIx) : Plan := s.plans.get p
def State.entry (s : State) (e : EntryIx) : Entry := s.pre.entries.get e

def State.setGroup (s : State) (g : GroupIx) (r : Group) : State :=
  { s with groups := s.groups.set g r }

def State.setCircuit (s : State) (c : CircuitIx) (r : Circuit) : State :=
  { s with circuits := s.circuits.set c r }

def State.setLamp (s : State) (c : CircuitIx) (l : LampPart) : State :=
  s.setCircuit c { s.circuit c with lamp := l }

def State.setCable (s : State) (c : CircuitIx) (k : CablePart) : State :=
  s.setCircuit c { s.circuit c with cable := k }

def State.setSchedule (s : State) (c : CircuitIx) (p : ProvingSchedule) : State :=
  s.setCircuit c { s.circuit c with schedule := p }

def State.setPlan (s : State) (p : PlanIx) (r : Plan) : State :=
  { s with plans := s.plans.set p r }

def State.setSeq (s : State) (q : Sequencer) : State := { s with seq := q }
def State.setPre (s : State) (p : Preemption) : State := { s with pre := p }
def State.setSched (s : State) (d : Schedule) : State := { s with sched := d }
def State.setChannel (s : State) (c : Channel) : State := { s with channel := c }
def State.setSup (s : State) (u : Supervision) : State := { s with sup := u }
def State.setOutput (s : State) (o : Output) : State := { s with output := o }
def State.setJunction (s : State) (j : Junction) : State := { s with junction := j }
def State.setGuard (s : State) (q : List GuardRequest) : State := { s with guard := q }
def State.setLink (s : State) (l : Link) : State := { s with link := l }

def State.setEntry (s : State) (e : EntryIx) (r : Entry) : State :=
  s.setPre { s.pre with entries := s.pre.entries.set e r }

/-! ## Attention and replies (R177, R181) -/

/-- The bit of an attention kind (spec/11 section 11.4). -/
def Attention.bit : Attention → Nat
  | .lampAlarm => 0
  | .cableAlarm => 1
  | .lockout => 2
  | .junctionState => 3
  | .trainDone => 4
  | .trainFail => 5
  | .cableLearned => 6
  | .calFail => 7
  | .monitorLate => 8
  | .syncLost => 9
  | .syncRegained => 10
  | .cycleStretched => 11
  | .planChanged => 12
  | .preemptStart => 13
  | .preemptEnd => 14
  | .preemptRefused => 15
  | .preemptStuck => 16
  | .schedulePlanInvalid => 17

/-- Whether the attention set holds a kind. -/
def State.holds (s : State) (k : Attention) : Bool := s.link.attention.getLsbD k.bit

/-- To raise a kind is to add it to the set (R181). -/
def State.raise (s : State) (k : Attention) : State :=
  s.setLink { s.link with attention := s.link.attention ||| BitVec.twoPow 18 k.bit }

/-- The reply of the command just taken (R175, R177). -/
def State.answer (s : State) (r : Reply) : State :=
  s.setLink { s.link with transaction := .replying r }

/-- A reply of status OK. -/
def State.accept (s : State) (p : Payload) : State := s.answer { status := .ok, payload := p }

/-- A reply of another status with no payload; a refused command changes no record (R177). -/
def State.refuse (s : State) (st : Status) : State := s.answer { status := st, payload := .empty }

/-- The reply that stands, if any. -/
def State.reply (s : State) : Option Reply :=
  match s.link.transaction with
  | .replying r => some r
  | _ => none

/-- Every event but the resets, the release of the chip select and the line levels: nothing happens while
RESET_N is held (R1). -/
def State.live (s : State) (f : State → State) : State := if s.resetHeld then s else f s

/-- A request clocked in while RESET_N is held: no opcode is taken (R1), and the transaction it stands in is
one the line reset discards, so that the port waits for the release of the chip select (R175; log entry 13). -/
def State.passOver (s : State) : State :=
  if s.link.transaction = .idle then s.setLink { s.link with transaction := .discarded } else s

/-- A request taken by the port, with the effect of its command (R175): a transaction carries one request, so
once one has been taken, or a reset has discarded the transaction, every byte is ignored until the chip
select is released (log entry 13). -/
def State.taken (s : State) (f : State → State) : State :=
  if s.resetHeld then s.passOver
  else if s.link.transaction = .idle then f s else s

/-- The lock level forbids record-class commands, LEARN_LAMP, LEARN_CABLE and SET_CLOCK (R179). -/
def State.locked (s : State) : Bool := s.link.lock == .all

/-- The lock level forbids safety-class writes (R179). -/
def State.safetyLocked (s : State) : Bool := s.link.lock != .openLevel

/-! ## Free values (log entries 2, 4, 7) -/

/-- The next free number. -/
def State.free (s : State) : Nat := Config.choice s.draws

/-- The state after a free number has been read. -/
def State.drawn (s : State) : State := { s with draws := s.draws + 1 }

/-- A free element of a list: its only element, or the one a free number picks. -/
def State.pick {α : Type} (s : State) : List α → Option α
  | [] => none
  | [a] => some a
  | a :: b :: l => (a :: b :: l)[s.free % (a :: b :: l).length]?

/-- A reading of the converter, free within its range. -/
def State.freeReading (s : State) (place : Nat) : Int :=
  max (-512) (min 4095 (Config.reading s.draws place))

/-- A duration in whole tenths of a second, where no rule states the rounding (log entry 7). -/
def tenths (d : Nat) : Nat :=
  if d % 100 = 0 then d / 100
  else if Config.roundsUp d then d / 100 + 1 else d / 100

/-- The largest of `a` and the values held in a list. -/
def latest (a : Nat) (l : List Nat) : Nat := l.foldl max a

/-! ## The conflict table's lookups (R22, R28) -/

/-- The place of the pair of a lower and a higher index. -/
def pairPlace (a b : GroupIx) : Fin 256 := ⟨16 * a.val + b.val, by omega⟩

/-- The intergreens of a pair as they stand under its lower and higher number; a group against itself
reads not conflicting. -/
def State.pairOf (s : State) (l g : GroupIx) : Option Intergreens :=
  if l < g then s.conflicts.get (pairPlace l g)
  else if g < l then s.conflicts.get (pairPlace g l)
  else none

/-- Whether two numbers conflict. -/
def State.conflicting (s : State) (l g : GroupIx) : Bool := (s.pairOf l g).isSome

/-- IG[L][G], absent for a pair that does not conflict. -/
def State.intergreen (s : State) (l g : GroupIx) : Option Nat :=
  (s.pairOf l g).map fun x => if l < g then x.up else x.down

/-- The numbers conflicting with a given number. -/
def State.conflictsOf (s : State) (g : GroupIx) : List GroupIx :=
  (List.finRange 16).filter fun l => s.conflicting l g

/-- The table with a pair written, the intergreens given from `l` to `g` and back. -/
def State.setPair (s : State) (l g : GroupIx) (v : Option (Nat × Nat)) : State :=
  if l < g then
    { s with conflicts := s.conflicts.set (pairPlace l g) (v.map fun x => { up := x.1, down := x.2 }) }
  else
    { s with conflicts := s.conflicts.set (pairPlace g l) (v.map fun x => { up := x.2, down := x.1 }) }

/-! ## Group and circuit lookups (R6) -/

def State.present (s : State) (g : GroupIx) : Bool := (s.group g).config.isSome

def State.presentGroups (s : State) : List GroupIx := (List.finRange 16).filter s.present

/-- The circuits a group record names. -/
def GroupConfig.circuits (c : GroupConfig) : List CircuitIx :=
  c.reds ++ (match c.vehicle with | some v => [v.amber] | none => []) ++ [c.green]

/-- The red-amber time, read as 0 for a PEDESTRIAN group (section 1.1). -/
def GroupConfig.redAmber (c : GroupConfig) : Nat :=
  match c.vehicle with
  | some v => v.redAmber
  | none => 0

/-- The red-amber time of a group number; 0 when the group is empty. -/
def State.redAmber (s : State) (g : GroupIx) : Nat :=
  match (s.group g).config with
  | some c => c.redAmber
  | none => 0

/-- The min green of a group number; 0 when the group is empty. -/
def State.minGreen (s : State) (g : GroupIx) : Nat :=
  match (s.group g).config with
  | some c => c.minGreen
  | none => 0

/-- The aspect for which a group record names a circuit (R6). -/
def GroupConfig.aspectOf (k : GroupConfig) (c : CircuitIx) : Option CircuitAspect :=
  if k.reds.contains c then some .red
  else if k.vehicle.any (fun v => v.amber == c) then some .amber
  else if k.green == c then some .green
  else none

/-- A circuit's assignment; absent is SPARE (R6). -/
def State.assignment (s : State) (c : CircuitIx) : Option Assignment :=
  (List.finRange 16).findSome? fun g =>
    (s.group g).config.bind fun k =>
      (k.aspectOf c).map fun a => { group := g, aspect := a }

def State.assigned (s : State) (c : CircuitIx) : Bool := (s.assignment c).isSome

/-- The present dim level (R20). -/
def State.level (s : State) : DimLevel := if s.output.dim then .dim else .full

/-! ## The plan store's orders (R44 to R47) -/

/-- The fields and derived fields of a plan that holds both. -/
def State.planData (s : State) (p : PlanIx) : Option (PlanBody × Derived) :=
  match s.plan p with
  | .valid _ b d => some (b, d)
  | _ => none

def Plan.phase : Plan → Option PlanPhase
  | .valid ph _ _ => some ph
  | _ => none

def PlanBody.cls (b : PlanBody) : PlanClass :=
  match b.fields with
  | .base .. => .base
  | .preempt .. => .preempt

def Plan.cls : Plan → Option PlanClass
  | .free => none
  | .draft b => some b.cls
  | .valid _ b _ => some b.cls

/-- Whether the plan is of class BASE. -/
def Plan.isBase (p : Plan) : Bool := p.cls == some .base

/-- The plan moved to another of the states that hold derived fields. -/
def Plan.toPhase (ph : PlanPhase) : Plan → Plan
  | .valid _ b d => .valid ph b d
  | p => p

/-- A plan in one given state returned to READY, any other left. -/
def Plan.unless (ph : PlanPhase) (p : Plan) : Plan :=
  if p.phase = some ph then p.toPhase .ready else p

/-- RETURN_READY (R46). -/
def State.returnReady (s : State) (p : PlanIx) : State := s.setPlan p ((s.plan p).toPhase .ready)

/-- MAKE_SELECTED (R45). -/
def State.makeSelected (s : State) (p : PlanIx) : State :=
  if (s.plan p).phase = some .ready ∧ (s.plan p).isBase then
    { s with plans := (s.plans.map (Plan.unless .selected)).set p ((s.plan p).toPhase .selected) }
  else s

/-- Whether a plan's derived fields mark it stretched (R58). -/
def Plan.stretched : Plan → Bool
  | .valid _ _ d => d.base.any (·.stretched)
  | _ => false

/-- MAKE_ACTIVE (R45): CYCLE_STRETCHED is raised for a stretched plan. -/
def State.makeActive (s : State) (p : PlanIx) : State :=
  if ((s.plan p).phase = some .ready ∨ (s.plan p).phase = some .selected) ∧ (s.plan p).isBase then
    let t := { s with plans := (s.plans.map (Plan.unless .active)).set p ((s.plan p).toPhase .active) }
    if (s.plan p).stretched then t.raise .cycleStretched else t
  else s

/-- MAKE_INVOKED (R46). -/
def State.makeInvoked (s : State) (p : PlanIx) : State :=
  if (s.plan p).phase = some .ready ∧ (s.plan p).cls = some .preempt then
    s.setPlan p ((s.plan p).toPhase .invoked)
  else s

/-- The demotion of one plan by a safety-class write (R47). -/
def Plan.demote : Plan → Plan
  | .valid .ready b _ => .draft b
  | .valid .selected b _ => .draft b
  | p => p

/-- An accepted safety-class write's demotion (R30, R47): a demoted pending plan is no longer pending. -/
def State.demotePlans (s : State) : State :=
  let pending := s.seq.pendingPlan.filter fun p => (s.plan p).phase != some .selected
  { s with plans := s.plans.map Plan.demote, seq := { s.seq with pendingPlan := pending } }

end Sys2Proof.Machine
end

