-- ==== Sys2Proof/Machine/Operands.lean ====
section
/-! DEFINITION. Operands: the forms in which commands carry records. Each record as carried is checked
against its ranges and becomes the record as held, or fails (RANGE); a held record is written back as
fields, so that an update forms the record that would result. -/

namespace Sys2Proof

open Machine

def within (lo hi n : Nat) : Bool := decide (lo ≤ n) && decide (n ≤ hi)

/-- The value when it lies in its range. -/
def ranged (lo hi : Nat) (v : Option Nat) : Option Nat := v.filter (within lo hi)

/-- The value of an argument that is one of the named ones. -/
def Arg.value {α : Type} : Arg α → Option α
  | .named a => some a
  | .other => none

/-- Every number of a list as an index, or absent when one lies outside. -/
def indicesOf (n : Nat) (l : List Nat) : Option (List (Fin n)) := l.mapM (indexOf n)

/-! ## Group records (R2, R3) -/

/-- The VEHICLE fields in their ranges (section 1.1). -/
def vehicleOf (amber amberTime redAmber : Option Nat) : Option VehicleFields := do
  let a ← amber.bind (indexOf 48)
  let t ← ranged 30 50 amberTime
  let r ← redAmber.filter fun n => n == 0 || within 10 20 n
  pure { amber := a, amberTime := t, redAmber := r }

/-- Check 1 of R2: the record as held, or absent when it is refused RANGE. A kind, green circuit or min green that an
UPDATE_FIELDS names as absent, or a write lacks, leaves the record not whole, to which R2 and R3 give no status: that
it too is refused RANGE is the model's choice (log entry 33). -/
def GroupFields.check (f : GroupFields) : Option GroupConfig := do
  let kind ← f.kind.bind Arg.value
  let reds ← (f.reds.filter fun l => within 1 2 l.length).bind (indicesOf 48)
  let green ← f.green.bind (indexOf 48)
  let minGreen ← ranged 50 300 f.minGreen
  match kind with
  | .vehicle =>
    let v ← vehicleOf f.amber f.amberTime f.redAmber
    pure { reds := reds, green := green, minGreen := minGreen, vehicle := some v }
  | .pedestrian =>
    if f.amber.isNone && f.amberTime.isNone && f.redAmber.isNone then
      pure { reds := reds, green := green, minGreen := minGreen, vehicle := none }
    else none

/-- A held group record as its fields. -/
def Machine.GroupConfig.toFields (c : GroupConfig) : GroupFields :=
  { kind := some (.named (if c.vehicle.isSome then .vehicle else .pedestrian))
    reds := some (c.reds.map number)
    amber := c.vehicle.map fun v => number v.amber
    green := some (number c.green)
    minGreen := some c.minGreen
    amberTime := c.vehicle.map (·.amberTime)
    redAmber := c.vehicle.map (·.redAmber) }

/-- The record that would result from an update (R3). -/
def GroupChanges.apply (u : GroupChanges) (f : GroupFields) : GroupFields :=
  { kind := u.kind.apply f.kind
    reds := u.reds.apply f.reds
    amber := u.amber.apply f.amber
    green := u.green.apply f.green
    minGreen := u.minGreen.apply f.minGreen
    amberTime := u.amberTime.apply f.amberTime
    redAmber := u.redAmber.apply f.redAmber }

/-! ## Conflict pairs (R24, R25) -/

/-- Check 2 of R24: the pair as held (`some none` is not conflicting), or absent when refused RANGE. -/
def pairOfFields (flag : Bool) (igLG igGL : Option Nat) : Option (Option (Nat × Nat)) :=
  if flag then
    match ranged 0 150 igLG, ranged 0 150 igGL with
    | some a, some b => some (some (a, b))
    | _, _ => none
  else if igLG.isNone && igGL.isNone then some none
  else none

/-! ## Plans (R40, R41) -/

/-- A green set as held: ascending, each group once. -/
def greenSet (l : List Nat) : List GroupIx := (List.finRange 16).filter fun g => l.contains (number g)

/-- A stage in its ranges. -/
def StageFields.check (f : StageFields) : Option Stage :=
  if f.green.all (within 1 16) && within 50 1200 f.split then
    some { green := greenSet f.green, split := f.split }
  else none

/-- The class fields of the stated class, each given and in range, those of the other class absent. A class that
is neither of the two, or not given, fails the check (log entry 44). -/
def PlanFields.checkClass (f : PlanFields) : Option ClassFields := do
  let cls ← f.cls.bind Arg.value
  match cls with
  | .base =>
    let c ← ranged 300 2400 f.cycle
    let o ← ranged 0 2399 f.offset
    let k ← ranged 1 8 f.slack
    if f.minDwell.isNone && f.maxDwell.isNone then pure (.base c o k) else none
  | .preempt =>
    let lo ← ranged 50 600 f.minDwell
    let hi ← ranged 100 3000 f.maxDwell
    if f.cycle.isNone && f.offset.isNone && f.slack.isNone then pure (.preempt lo hi) else none

/-- Check 4 of R40: the plan as held, or absent when it is refused RANGE. -/
def PlanFields.check (f : PlanFields) : Option PlanBody := do
  let stages ← (f.stages.filter fun l => decide (l.length ≤ 8)).bind fun l => l.mapM StageFields.check
  let fields ← f.checkClass
  pure { stages := stages, fields := fields }

def Machine.Stage.toFields (t : Stage) : StageFields := { green := t.green.map number, split := t.split }

/-- A held plan as its fields. -/
def Machine.PlanBody.toFields (b : PlanBody) : PlanFields :=
  let stages := some (b.stages.map Machine.Stage.toFields)
  match b.fields with
  | .base c o k =>
    { cls := some (.named .base), stages := stages, cycle := some c, offset := some o, slack := some k,
      minDwell := none, maxDwell := none }
  | .preempt lo hi =>
    { cls := some (.named .preempt), stages := stages, cycle := none, offset := none, slack := none,
      minDwell := some lo, maxDwell := some hi }

/-- The configured fields a plan record holds; a FREE record holds none (R39). -/
def Machine.Plan.toFields : Plan → PlanFields
  | .free =>
    { cls := none, stages := none, cycle := none, offset := none, slack := none, minDwell := none,
      maxDwell := none }
  | .draft b => b.toFields
  | .valid _ b _ => b.toFields

/-- Item (5) of R41 applied to a stage list. DESIGN CHOICE (log entry 21): an index that lies in the list held but
beyond a shorter new list the same update names changes nothing; R41 gives that case no outcome. Applied in the
order of the update's list, so that of two items that name the same item of one stage the last wins (log
entry 34). A field named as absent is left here: it refuses the update (`StageEdit.namesAbsent`). -/
def StageEdit.apply (e : StageEdit) (l : List StageFields) : List StageFields :=
  match indexOf l.length e.index with
  | none => l
  | some i =>
    let held := l.get i
    l.set i.val { green := (e.green.apply (some held.green)).getD held.green
                  split := (e.split.apply (some held.split)).getD held.split }

/-- Whether an item (5) is named with the absent mark: a stage without a green set or a split is no stage, so the
stage list that would result fails check 4 of R40, as the model's choice (log entry 33). -/
def StageEdit.namesAbsent (e : StageEdit) : Bool := e.green == .absent || e.split == .absent

/-- The stage list that would result, absent when an item (5) is named as absent (log entry 33). When the whole
list and single stages are both named, which is carried out upon the other is free (log entry 21). -/
def PlanChanges.stagesAfter (u : PlanChanges) (held : Option (List StageFields)) :
    Option (List StageFields) :=
  let edit := fun l => u.edits.foldl (fun acc e => e.apply acc) l
  if u.edits.isEmpty then u.stages.apply held
  else if u.edits.any StageEdit.namesAbsent then none
  else if u.stages = .keep then held.map edit
  else if Config.editsOverNewList then (u.stages.apply held).map edit
  else u.stages.apply held

/-- The record that would result from an update (R41). -/
def PlanChanges.apply (u : PlanChanges) (f : PlanFields) : PlanFields :=
  { cls := u.cls.apply f.cls
    stages := u.stagesAfter f.stages
    cycle := u.cycle.apply f.cycle
    offset := u.offset.apply f.offset
    slack := u.slack.apply f.slack
    minDwell := u.minDwell.apply f.minDwell
    maxDwell := u.maxDwell.apply f.maxDwell }

/-- Whether every item (5) names an index of the stage list as held (R41). -/
def PlanChanges.indicesHeld (u : PlanChanges) (f : PlanFields) : Bool :=
  u.edits.all fun e => within 1 (f.stages.getD []).length e.index

/-! ## Preemption entries (R85) -/

/-- Check 5 of R85 for an entry: the fields as held (`some none` is not present), or absent when refused
RANGE. A field given is judged by its range whether or not the entry is to be present (log entry 20). A source that
is neither LINE nor COMMAND, and an entry to be present without one of its three fields, fail the check (log entry
45). -/
def EntryFields.check (e : EntryIx) (f : EntryFields) : Option (Option EntryConfig) :=
  let planOk := f.plan.all (within 1 16)
  let prioOk := f.priority.all (within 1 4)
  let sourceOk := f.source.all fun a =>
    match a with
    | .named .line => decide (e.val < 4)
    | .named .command => true
    | .other => false
  if planOk && prioOk && sourceOk then
    if f.present then
      match f.plan.bind (indexOf 16), f.priority, f.source.bind Arg.value with
      | some p, some n, some src => some (some { plan := p, priority := n, source := src })
      | _, _, _ => none
    else some none
  else none

def Machine.EntryConfig.toFields (c : EntryConfig) : EntryFields :=
  { present := true, plan := some (number c.plan), priority := some c.priority,
    source := some (.named c.source) }

/-- The entry that would result from an update; absent when it names the present flag as absent, which no
entry holds (log entry 33). -/
def EntryChanges.apply (u : EntryChanges) (f : EntryFields) : Option EntryFields :=
  (u.present.apply (some f.present)).map fun present =>
    { present := present
      plan := u.plan.apply f.plan
      priority := u.priority.apply f.priority
      source := u.source.apply f.source }

/-! ## Circuits (R7) -/

/-- The technology of a circuit after a write that names it: absent when it is neither of the two, or is named
as absent (log entry 33). -/
def technologyAfter (u : Change (Arg Technology)) (held : Technology) : Option Technology :=
  (u.apply (some (.named held))).bind Arg.value

/-- The range check of R7 on the circuit record that would result, as held. A field that would be absent fails
it (log entry 33). -/
def circuitOf (t : Option Technology) (heads residual : Option Nat) : Option (Technology × Nat × Nat) := do
  let t ← t
  let n ← ranged 1 4 heads
  let r ← ranged 0 8 residual
  if t = .led ∨ r = 0 then pure (t, n, r) else none

end Sys2Proof
end

