-- ==== Sys2Proof/Machine/Flags.lean ====
section
/-! DEFINITION. Flags: the states and flags the part shows outside: the output pins, the cycle position,
the codes of the status reply and its thirty bytes. -/

namespace Sys2Proof.Machine

/-! ## Output pins; all inactive while RESET_N is held (R1) -/

/-- ATTN is active while the attention set holds an enabled kind (R182). -/
def State.attnPin (s : State) : Bool :=
  !s.resetHeld && (s.link.attention &&& s.link.mask != 0)

def State.safeEnablePin (s : State) : Bool := !s.resetHeld && s.output.safeEnable

/-- The DIM line follows the DIM state (R20). -/
def State.dimPin (s : State) : Bool := !s.resetHeld && s.output.dim

def State.drivePin (s : State) (c : CircuitIx) : Bool := !s.resetHeld && (s.circuit c).drive.on

/-! ## The cycle position (R65) -/

/-- The position reached at an instant: advancing from `since`, stopping at the boundary ahead. -/
def CyclePosition.reached (p : CyclePosition) (now : Instant) : Nat :=
  match p.since with
  | none => p.value
  | some t => min (p.value + (now - t) / 100) p.limit

/-- The base context of the chain. -/
def State.baseContext (s : State) : Option Context := s.pre.chain.getLast?

/-- Whether the chain holds a preemption context. -/
def State.preempted (s : State) : Bool := s.pre.chain.any fun c => c.invoker.isSome

/-- The top context when it is a preemption context. -/
def State.topPreemption (s : State) : Option Context := s.pre.chain.head?.filter fun c => c.invoker.isSome

/-- The cycle position as counted: live, or the one saved in the base context while a preemption context
is in the chain (R61, R65). -/
def State.positionNow (s : State) : Option Nat :=
  if s.preempted then s.baseContext.bind (·.position)
  else s.seq.position.map fun p => p.reached s.now

/-- The base derived fields of the current plan. -/
def State.baseData (s : State) : Option (PlanBody × Derived × BaseDerived) :=
  s.seq.current.bind fun p =>
    (s.planData p).bind fun x => x.2.base.map fun b => (x.1, x.2, b)

/-- The cycle position as reported, 0 to Ceff - 1: the end of the last stage is position 0 (log entry
10). -/
def State.positionShown (s : State) : Option Nat :=
  s.positionNow.map fun p =>
    match s.baseData with
    | some (_, _, b) => p % b.ceff
    | none => p

/-- The stage index of the context the chain has on top; stage 1 of a context whose truncation still
waits (R61, R94). -/
def State.stageShown (s : State) : Option Nat :=
  if s.seq.above = 0 then s.seq.stage else some 1

/-! ## Codes (R177, R180) -/

def Status.code : Status → Nat
  | .ok => 0
  | .crc => 1
  | .frame => 2
  | .unknown => 3
  | .range => 4
  | .state => 5
  | .locked => 6
  | .busy => 7
  | .absent => 8
  | .full => 9
  | .taken => 10
  | .invalid => 11
  | .preempt => 12
  | .noPlan => 13
  | .monitorFault => 14

/-- The P_ codes are numbered 1 to 7 in the order of R90 (R177). -/
def PCode.code : PCode → Nat
  | .range => 1
  | .absent => 2
  | .state => 3
  | .plan => 4
  | .busy => 5
  | .stuck => 6
  | .depth => 7

/-- The validation sub-codes are numbered 1 to 5 in the order of R50 (R177). -/
def ValidationFailure.code : ValidationFailure → Nat
  | .vStages _ => 1
  | .vGroup .. => 2
  | .vConflict .. => 3
  | .vSlack .. => 4
  | .vRange _ => 5

def JunctionState.code : JunctionState → Nat
  | .dark => 0
  | .startFlash => 1
  | .startRed => 2
  | .running => 3
  | .flash => 4
  | .lockout => 5

def FlashClearance.code : Option FlashClearance → Nat
  | none => 0
  | some .awaitingRed => 1
  | some (.allRed _) => 2

def ResetCause.code : ResetCause → Nat
  | .powerOn => 0
  | .line => 1
  | .soft => 2

def SeqState.code : SeqState → Nat
  | .idle => 0
  | .interstage => 1
  | .stage => 2
  | .clearance => 3

def Mode.code : Mode → Nat
  | .free => 0
  | .synced => 1
  | .stepped => 2

def SyncStatus.code : SyncStatus → Nat
  | .none => 0
  | .held => 1
  | .notHeld => 2
  | .lost => 3

def ChannelState.code : ChannelState → Nat
  | .calLong => 0
  | .ready => 1
  | .measuring => 2
  | .calShort => 3
  | .fault => 4

def lockCode : LockLevel → Nat
  | .openLevel => 0
  | .safety => 1
  | .all => 2

/-- The number an optional index shows, 0 when absent. -/
def shown {n : Nat} (i : Option (Fin n)) : Nat :=
  match i with
  | some k => number k
  | none => 0

def byte (n : Nat) : Byte := BitVec.ofNat 8 n

/-- Byte 11 of the status reply. -/
def State.statusFlags (s : State) : Nat :=
  (if s.seq.latch then 1 else 0) + (if s.output.dim then 2 else 0)
    + (if s.sched.clockSet then 4 else 0) + 16 * lockCode s.link.lock

/-- The three bytes of one context; `stage` is the index to show for it. -/
def Context.bytes (c : Context) (stage : Nat) : List Byte :=
  [byte (number c.plan), byte (shown (c.invoker.map (·.entry))),
   byte (stage % 16 + if c.inDwell then 128 else 0)]

/-- Bytes 13 to 21: the contexts from the base upward, unused contexts 0. The top context's stage index is
the running one. -/
def State.contextBytes (s : State) : List Byte :=
  let stages := match s.pre.chain with
    | [] => []
    | c :: rest => (s.stageShown.getD c.stage) :: rest.map (·.stage)
  let used := ((s.pre.chain.zip stages).reverse.take 3).flatMap fun x => x.1.bytes x.2
  used ++ List.replicate (9 - used.length) 0

/-- A set of attention kinds in three bytes, bit 0 the lowest bit of the last (section 11.4). -/
def attentionBytes (a : BitVec 18) : List Byte :=
  [byte (a.toNat / 65536), byte (a.toNat / 256), byte a.toNat]

/-- The reply of READ_STATUS (R180). -/
def State.statusBytes (s : State) : List Byte :=
  let p := s.positionShown.getD 65535
  [byte s.junction.state.code, byte (FlashClearance.code s.junction.clearance),
   byte s.junction.resetCause.code, byte s.seq.state.code, byte (s.stageShown.getD 0),
   byte (p / 256), byte p, byte s.junction.mode.code, byte s.seq.sync.code,
   byte (shown s.seq.current), byte (shown s.seq.pendingPlan), byte s.statusFlags,
   byte s.pre.chain.length]
  ++ s.contextBytes
  ++ [byte s.pre.waiting.length, byte s.channel.state.code,
      byte (s.sched.clock / 65536), byte (s.sched.clock / 256), byte s.sched.clock]
  ++ attentionBytes s.link.attention

end Sys2Proof.Machine
end

