-- ==== Sys2Proof/Machine/Outputs.lean ====
section
/-! DEFINITION. Outputs: the output driver's switches, and what each switch event does in the measurement
channel, the lamp proving unit and the cable supervision unit (R17, R18, R124, R125, R133). -/

namespace Sys2Proof.Machine

/-! ## The channel at the end of a window or the start of a calibration -/

/-- A long calibration begun by a reset, by RECALIBRATE or by an owed recalibration (R116, R130, R131). -/
def Channel.beginLong (now : Instant) (ch : Channel) : Channel :=
  { ch with
    state := .calLong, shortDue := none, shortPresented := false, failFlag := false, owed := false,
    inFlight := none, calibration := some { kind := .long, start := now, attempt := 1 } }

/-- The channel after the measurement in flight has ended by its window's end or by a void: READY, or
CAL_LONG when a recalibration is owed (R119, R124, R131). Arbitration follows at the end of the step. -/
def Channel.endWindow (now : Instant) (ch : Channel) : Channel :=
  if ch.owed then ch.beginLong now else { ch with state := .ready, inFlight := none }

/-! ## The green watch and the cable round (R153, R157) -/

/-- Whether a circuit is watched. -/
def State.watched (s : State) (c : CircuitIx) : Bool :=
  s.output.safeEnable &&
    (match s.assignment c with
     | some { group := g, aspect := .green } => (s.group g).aspect != .green
     | _ => false)

/-- The watch start. -/
def State.watchStart (s : State) (c : CircuitIx) : Instant :=
  max s.output.safeSince (s.circuit c).drive.lastSwitch

/-- The watch reference. -/
def State.watchReference (s : State) (c : CircuitIx) : Instant :=
  max (s.watchStart c) (s.circuit c).cable.lastCheck

/-- The instant the circuit's next voltage check falls due. -/
def State.watchDue (s : State) (c : CircuitIx) : Instant :=
  if s.watchStart c ≤ (s.circuit c).cable.lastCheck then (s.circuit c).cable.lastCheck + 1000
  else s.watchStart c + 200

/-- Whether a circuit is eligible for the cable round (R157). -/
def State.eligible (s : State) (c : CircuitIx) : Bool :=
  s.output.safeEnable && s.assigned c && !(s.circuit c).drive.on
    && decide ((s.circuit c).drive.lastSwitch + 1000 ≤ s.now)

/-- The round's order: ascending after the pointer, wrapping, the circuit at the pointer last. -/
def State.roundOrder (s : State) : List CircuitIx :=
  (List.finRange 48).filter (fun c => decide (s.sup.roundPointer ≤ c.val)) ++
    (List.finRange 48).filter (fun c => decide (c.val < s.sup.roundPointer))

/-- Whether the round counts a circuit among the eligible ones. One whose 1.0 s of darkness ends at this very
instant is counted once its ROUND_ELIGIBLE has been taken, so that it may turn eligible before or after an
arbitration of that instant (R123; log entry 48). -/
def State.inRound (s : State) (c : CircuitIx) : Bool :=
  s.eligible c && (decide ((s.circuit c).drive.lastSwitch + 1000 < s.now)
    || (s.circuit c).cable.ripeFor == some (s.circuit c).drive.lastSwitch)

/-- The circuit's 1.0 s of darkness taken: it is counted from now on, until its drive switches. -/
def State.ripen (s : State) (c : CircuitIx) : State :=
  s.setCable c { (s.circuit c).cable with ripeFor := some (s.circuit c).drive.lastSwitch }

/-- The circuit the round offers: the first one it counts. -/
def State.roundNext (s : State) : Option CircuitIx := s.roundOrder.find? s.inRound

/-- The round offer renewed (R157). -/
def State.renewOffer (s : State) : State := s.setSup { s.sup with roundOffer := s.roundNext }

/-! ## Voids and switch events -/

/-- A circuit's watch candidate presented or taken back (R153). -/
def State.setPresented (s : State) (c : CircuitIx) (b : Bool) : State :=
  s.setCable c { (s.circuit c).cable with watchPresented := b }

/-- The measurement in flight is voided: its readings are discarded, its requester is handed a void and
counts nothing. A watch check voided on a circuit still watched is presented again at once (R124, R152). -/
def State.voidWindow (s : State) : State :=
  match s.channel.inFlight with
  | none => s
  | some w =>
    let t := s.setChannel (s.channel.endWindow s.now)
    match w.kind with
    | .dark .watch _ =>
      if t.watched w.circuit then t.setPresented w.circuit true else t
    | _ => t

/-- The settle time of a technology (R133). -/
def settleTime : Technology → Nat
  | .incandescent => 150
  | .led => 300

/-- The proving schedule after a switch event (R133). -/
def ProvingSchedule.afterSwitch (tech : Technology) (now : Instant) (on : Bool) : ProvingSchedule :=
  if on then { litSince := some now, nextDue := some (now + settleTime tech), presented := none }
  else { litSince := none, nextDue := none, presented := none }

/-- One switch of a drive with its switch event: the drive's state and last switch instant, the lit
period and its requests, the watch candidate withdrawn at a switch to on, and the void of a measurement in
flight on the circuit (R17, R18, R124, R133, R153). The dark period is timed from the last switch instant. -/
def State.switchNow (s : State) (c : CircuitIx) (on : Bool) : State :=
  let k := s.circuit c
  let t := s.setCircuit c
    { k with drive := { on := on, lastSwitch := s.now },
             schedule := ProvingSchedule.afterSwitch k.technology s.now on,
             cable := { k.cable with watchPresented := k.cable.watchPresented && !on } }
  match s.channel.inFlight with
  | some w => if w.circuit = c then t.voidWindow else t
  | none => t

/-- An order to a drive (R17): nothing when it is already in that state, and none is switched on while
SAFE_ENABLE is inactive. -/
def State.orderDrive (s : State) (c : CircuitIx) (on : Bool) : State :=
  if (s.circuit c).drive.on = on then s
  else if on && !s.output.safeEnable then s
  else s.switchNow c on

/-- The drive state that an aspect requires of a circuit of a group (section 1.3); `half` is whether the
flash timebase is in its on half. -/
def GroupConfig.lights (k : GroupConfig) (a : Aspect) (half : Bool) (c : CircuitIx) : Bool :=
  match a with
  | .dark => false
  | .red => k.reds.contains c
  | .redAmber => k.reds.contains c || k.vehicle.any (fun v => v.amber == c)
  | .green => k.green == c
  | .amber => k.vehicle.any (fun v => v.amber == c)
  | .flashAmber => half && k.vehicle.any (fun v => v.amber == c)

/-- Whether the flash timebase is in an on half. -/
def State.flashOn (s : State) : Bool := s.output.flash.any (·.on)

/-- The drive orders of a group's aspect (R10). -/
def State.orderDrives (s : State) (k : GroupConfig) (a : Aspect) : State :=
  let half := s.flashOn
  k.circuits.foldl (fun t c => t.orderDrive c (k.lights a half c)) s

/-- SAFE_ENABLE made active, at the entry to a supplied state from DARK (R17, R165). -/
def State.safeOn (s : State) : State :=
  s.setOutput { s.output with safeEnable := true, safeSince := s.now }

/-- A circuit whose watch candidate is withdrawn. -/
def Circuit.unwatched (k : Circuit) : Circuit :=
  { k with cable := { k.cable with watchPresented := false } }

/-- SAFE_ENABLE made inactive: every drive that is on is switched off at the same instant, a dark
measurement in flight is voided, watch candidates are withdrawn and the round offer becomes absent (R17,
R125, R153, R157). -/
def State.safeOff (s : State) : State :=
  let t := s.setOutput { s.output with safeEnable := false }
  let t := (List.finRange 48).foldl (fun t c => t.orderDrive c false) t
  let t := match t.channel.inFlight with
    | some ⟨_, .dark _ _, _⟩ => t.voidWindow
    | _ => t
  let t := { t with circuits := t.circuits.map Circuit.unwatched }
  t.setSup { t.sup with roundOffer := none }

end Sys2Proof.Machine
end

