-- ==== Sys2Proof/Machine/Groups.lean ====
section
/-! DEFINITION. Groups: the intergreen guard (R31 to R35) and the group table's aspect sequences and
orders (R10 to R16). -/

namespace Sys2Proof.Machine

/-! ## The intergreen guard -/

/-- A group is clear when it is not GREEN, not RED_AMBER and holds no awaited green start (R32). -/
def Group.clear (g : Group) : Bool :=
  g.aspect != .green && g.aspect != .redAmber && g.awaited.isNone

/-- An open request is answerable: every conflicting number is clear and no older open request names a
conflicting group (R32). -/
def State.answerable (s : State) (older : List GuardRequest) (r : GuardRequest) : Bool :=
  (s.conflictsOf r.group).all (fun l => (s.group l).clear)
    && older.all (fun o => !s.conflicting o.group r.group)

/-- The green start instant Tg fixed for an answer made now (R33). -/
def State.greenStartFor (s : State) (r : GuardRequest) : Instant :=
  let clearances := (s.conflictsOf r.group).map fun l =>
    (s.group l).greenOff + ms ((s.intergreen l r.group).getD 0)
  latest (max (r.change + ms (s.redAmber r.group)) s.now) clearances

/-- GAIN (R11): the green start is awaited in RED, RED_AMBER and AMBER; no effect in GREEN; ignored in DARK
and FLASH_AMBER and by an empty group. -/
def State.gain (s : State) (g : GroupIx) (tg : Instant) : State :=
  let r := s.group g
  if r.config.isSome ∧ (r.aspect = .red ∨ r.aspect = .redAmber ∨ r.aspect = .amber) then
    s.setGroup g { r with awaited := some tg }
  else s

/-- The guard's walk from the oldest request to the newest: each answerable request is answered, its GAIN
taking effect before the next is judged (R32, R34). -/
def guardWalk (older : List GuardRequest) : List GuardRequest → State → State
  | [], s => s.setGuard older
  | r :: rest, s =>
    if s.answerable older r then guardWalk older rest (s.gain r.group (s.greenStartFor r))
    else guardWalk (older ++ [r]) rest s

/-- The guard judges its open requests. -/
def State.guardJudge (s : State) : State := guardWalk [] s.guard s

/-- A request to the guard with a change instant (R31). -/
def State.requestGreen (s : State) (g : GroupIx) (change : Instant) : State :=
  if (s.group g).config.isNone then s
  else if (s.group g).aspect = .green then s
  else
    (s.setGuard ((s.guard.filter fun r => r.group != g) ++ [{ group := g, change := change }])).guardJudge

/-! ## Aspect changes -/

/-- The flash timebase when a group enters or leaves FLASH_AMBER (R14). -/
def State.flashAfter (s : State) (g : GroupIx) (a : Aspect) : Option FlashBase :=
  if a = .flashAmber then
    match s.output.flash with
    | some f => some f
    | none => some { on := true, next := s.now + 500 }
  else if (List.finRange 16).any (fun h => h != g && (s.group h).aspect == .flashAmber) then
    s.output.flash
  else none

/-- The group record at a change of aspect (R10, R16): a green left sets the green-off instant. -/
def Group.entering (r : Group) (a : Aspect) (now : Instant) : Group :=
  { r with
    aspect := a, aspectEntry := now,
    greenOff := if r.aspect = .green ∧ a ≠ .green then now else r.greenOff }

/-- A group's change of aspect (R10, R14, R16): the entry instant, the flash timebase, the sequencer's
record of the green's start, the drive orders, and the guard's judgement (R32). -/
def State.setAspect (s : State) (g : GroupIx) (a : Aspect) : State :=
  let r := s.group g
  let t := s.setOutput { s.output with flash := s.flashAfter g a }
  let t := t.setGroup g (r.entering a s.now)
  let t := if a = .green then t
    else t.setSeq { t.seq with greenStarts := t.seq.greenStarts.set g none }
  let t := match r.config with
    | some k => t.orderDrives k a
    | none => t
  t.guardJudge

/-- The awaited green start made absent, and the guard's judgement (R13, R32). -/
def State.dropAwaited (s : State) (g : GroupIx) : State :=
  (s.setGroup g { s.group g with awaited := none }).guardJudge

/-! ## Orders (R11 to R15); an order that names an empty group is ignored -/

/-- CANCEL (R13). -/
def State.cancel (s : State) (g : GroupIx) : State :=
  match (s.group g).config, (s.group g).aspect with
  | none, _ => s
  | some _, .red => s.dropAwaited g
  | some _, .redAmber =>
    (s.setGroup g { s.group g with awaited := none }).setAspect g .red
  | some _, .amber => s.dropAwaited g
  | some _, .green => s
  | some _, .dark => s
  | some _, .flashAmber => s

/-- LOSE (R12). -/
def State.lose (s : State) (g : GroupIx) : State :=
  match (s.group g).config, (s.group g).aspect with
  | none, _ => s
  | some k, .green => s.setAspect g (if k.vehicle.isSome then .amber else .red)
  | some _, .redAmber => s.cancel g
  | some _, .amber => s
  | some _, .red => s
  | some _, .dark => s
  | some _, .flashAmber => s

/-- SHOW_RED (R13). -/
def State.showRed (s : State) (g : GroupIx) : State :=
  match (s.group g).config, (s.group g).aspect with
  | none, _ => s
  | some _, .dark => s.setAspect g .red
  | some _, .flashAmber => s.setAspect g .red
  | some _, .red => s
  | some _, .green => s.lose g
  | some _, .amber => s
  | some _, .redAmber => s.cancel g

/-- SHOW_FLASH (R14). -/
def State.showFlash (s : State) (g : GroupIx) : State :=
  match (s.group g).config with
  | none => s
  | some k =>
    let a := if k.vehicle.isSome then Aspect.flashAmber else Aspect.dark
    let t := s.setGroup g { s.group g with awaited := none }
    if (s.group g).aspect = a then t else t.setAspect g a

/-- SHOW_DARK (R15). -/
def State.showDark (s : State) (g : GroupIx) : State :=
  match (s.group g).config with
  | none => s
  | some _ =>
    let t := s.setGroup g { s.group g with awaited := none }
    if (s.group g).aspect = .dark then t else t.setAspect g .dark

/-- An order given to each of a list of groups. -/
def State.each (s : State) (order : State → GroupIx → State) (gs : List GroupIx) : State :=
  gs.foldl order s

/-- A group record whose green-off instant is set by an all-off. -/
def Group.offAt (now : Instant) (r : Group) : Group := { r with greenOff := now }

/-- An all-off (R16): SAFE_ENABLE goes inactive with every drive, the guard empties its open requests
(R35), every group's green-off instant is set, and every present group is given SHOW_DARK (R15). -/
def State.allOff (s : State) : State :=
  let t := s.safeOff.setGuard []
  let t := { t with groups := t.groups.map (Group.offAt s.now) }
  t.each State.showDark t.presentGroups

/-! ## The group table's own timing -/

/-- The instant the group's red-amber begins: in RED with an awaited green start, a VEHICLE group with a
red-amber time begins it RA before Tg, or at once when that has passed (R11). -/
def State.redAmberDue (s : State) (g : GroupIx) : Bool :=
  let r := s.group g
  match r.config, r.awaited with
  | some k, some tg =>
    decide (r.aspect = .red) && k.redAmber != 0 && decide (tg ≤ s.now + ms k.redAmber)
  | _, _ => false

/-- No group conflicting with a given one shows AMBER. -/
def State.amberGone (s : State) (g : GroupIx) : Bool :=
  (s.conflictsOf g).all fun l => (s.group l).aspect != .amber

/-- The group's green begins: at Tg from RED without red-amber, and from RED_AMBER at the later of Tg and
the end of the full red-amber (R11). A conflicting green never begins while a group still shows amber: an amber that
ends at that very instant, under an intergreen equal to the amber time, ends first (R26). -/
def State.greenDue (s : State) (g : GroupIx) : Bool :=
  let r := s.group g
  match r.config, r.awaited with
  | some k, some tg =>
    s.amberGone g &&
      ((decide (r.aspect = .red) && k.redAmber == 0 && decide (tg ≤ s.now)) ||
        (decide (r.aspect = .redAmber) && decide (max tg (r.aspectEntry + ms k.redAmber) ≤ s.now)))
  | _, _ => false

/-- The group's amber time has elapsed (R12). -/
def State.amberDue (s : State) (g : GroupIx) : Bool :=
  let r := s.group g
  match r.config.bind (·.vehicle) with
  | some v => decide (r.aspect = .amber) && decide (r.aspectEntry + ms v.amberTime ≤ s.now)
  | none => false

end Sys2Proof.Machine
end

