-- ==== Sys2Proof/Machine/Sequencing.lean ====
section
/-! DEFINITION. Sequencing: stages and interstages of the plan the top context runs: the cycle position,
the slack stage, stage ends and plan switches (R62 to R68, R73, R76, R80), truncation and resumption
(R94, R95, R102). -/

namespace Sys2Proof.Machine

/-! ## What the running plan says -/

/-- The green set of stage `i`, counted from 1. -/
def PlanBody.greens (b : PlanBody) (i : Nat) : List GroupIx :=
  match b.stages[i - 1]? with
  | some t => t.green
  | none => []

/-- The stage count m. -/
def PlanBody.count (b : PlanBody) : Nat := b.stages.length

/-- The slack stage index k of a BASE plan. -/
def PlanBody.slackIndex (b : PlanBody) : Nat :=
  match b.fields with
  | .base _ _ k => k
  | .preempt .. => 0

/-- The cycle time C of a BASE plan. -/
def PlanBody.cycleTime (b : PlanBody) : Nat :=
  match b.fields with
  | .base c _ _ => c
  | .preempt .. => 0

/-- The offset O of a BASE plan. -/
def PlanBody.offsetTime (b : PlanBody) : Nat :=
  match b.fields with
  | .base _ o _ => o
  | .preempt .. => 0

/-- The min and max dwell of a PREEMPT plan. -/
def PlanBody.dwells (b : PlanBody) : Nat × Nat :=
  match b.fields with
  | .preempt lo hi => (lo, hi)
  | .base .. => (0, 0)

/-- The nominal interstage I_i and the effective split e_i, `i` counted from 1. -/
def Derived.interstage (d : Derived) (i : Nat) : Nat := d.interstages.getD (i - 1) 0
def Derived.split (d : Derived) (i : Nat) : Nat := d.effective.getD (i - 1) 0

/-- The nominal green of stage `i`: the nominal slack split for the slack stage `k`, else e_i (R65). -/
def Derived.nominalGreen (d : Derived) (b : BaseDerived) (k i : Nat) : Nat :=
  if i = k then b.slackSplit else d.split i

/-- N_i, the nominal position at which the interstage into stage `i` begins (R65). -/
def Derived.nominalStart (d : Derived) (b : BaseDerived) (k : Nat) : Nat → Nat
  | 0 => 0
  | 1 => 0
  | i + 2 => d.nominalStart b k (i + 1) + d.interstage (i + 1) + d.nominalGreen b k (i + 1)

/-- The shortening capacity of a plan (R72). -/
def shorteningCapacity (c : Nat) (b : BaseDerived) : Nat := min (c / 8) (b.slackSplit - b.slackFloor)

/-- The context the sequencer is running: the top one, or the one beneath contexts accepted while its
interstage completes (R94). -/
def State.runningContext (s : State) : Option Context := s.pre.chain[s.seq.above]?

/-! ## Min-green expiries (R76) -/

/-- The min-green expiries of those groups whose green start is recorded. -/
def State.expiries (s : State) (gs : List GroupIx) : List Instant :=
  gs.filterMap fun g => (s.seq.greenStarts.get g).map fun t => t + ms (s.minGreen g)

/-- Whether every min-green expiry of the groups has passed. -/
def State.expired (s : State) (gs : List GroupIx) : Bool := (s.expiries gs).all fun t => decide (t ≤ s.now)

/-- The groups that show GREEN. -/
def State.greenGroups (s : State) : List GroupIx :=
  (List.finRange 16).filter fun g => (s.group g).aspect == .green

/-! ## The start of a stage (R64, R67, R68, R73, R96) -/

/-- The portion a slack stage takes from the remainder, as lengthening and shortening (R73). -/
def slackPortion (c : Nat) (b : BaseDerived) : Option Remainder → Nat × Nat
  | none => (0, 0)
  | some { direction := .lengthen, amount := a } => (min (c / 8) a, 0)
  | some { direction := .shorten, amount := a } => (0, min (shorteningCapacity c b) a)

/-- What is left of the remainder after a portion: absent when it reaches 0 (R73). -/
def remainderAfter (portion : Nat) : Option Remainder → Option Remainder
  | none => none
  | some r => if r.amount ≤ portion then none else some { r with amount := r.amount - portion }

/-- The slack stage's green length for the cycle (R68). -/
def slackLengthFor (b : BaseDerived) (lengthening shortening excess : Nat) : Nat :=
  max b.slackFloor (b.slackSplit + lengthening - (shortening + excess))

/-- The cycle position at the start of stage `i`'s green: G_i, or for a resumed stage the restored
position, which advances from there and stays absent if it was saved absent (R65, R102). A position absent
since STEPPED mode in an interstage over which a preemption has been accepted stays absent, and is saved so
(R78). -/
def positionAtGreen (q : Sequencer) (now : Instant) (start boundary : Nat) : Option CyclePosition :=
  match q.resumed, q.position with
  | some _, none => none
  | some _, some { value := v, since := none, .. } =>
    some { value := v, since := some now, limit := boundary }
  | none, none => if q.above = 0 then some { value := start, since := some now, limit := boundary } else none
  | _, _ => some { value := start, since := some now, limit := boundary }

/-- The start of a base stage's green. In STEPPED mode nothing of the cycle is kept (R67, R68, R76). In a base
interstage that ends under an accepted preemption after a change from STEPPED, the excess and the slack length are
those of the mode in force at the green start (log entry 35). -/
def Sequencer.beginBase (q : Sequencer) (now : Instant) (mode : Mode) (b : PlanBody) (d : Derived)
    (x : BaseDerived) : Sequencer :=
  let i := q.stage.getD 1
  let k := b.slackIndex
  let q := { q with state := .stage, greenStart := now }
  if mode = .stepped then { q with length := none, holdMinGreen := false }
  else
    let start := d.nominalStart x k i + d.interstage i
    let excess := q.excess + (tenths (now - q.interStart) - d.interstage i)
    let q := { q with
      position := positionAtGreen q now start (d.nominalStart x k (i + 1)), excess := excess }
    match q.resumed with
    | some elapsed =>
      let whole := if i = k then q.slackLength.getD (d.split i) else d.split i
      { q with length := some (whole - elapsed), holdMinGreen := true }
    | none =>
      if i = k then
        let portion := slackPortion b.cycleTime x q.remainder
        let len := slackLengthFor x portion.1 portion.2 excess
        { q with
          length := some len, slackLength := some len, holdMinGreen := false, excess := 0,
          remainder := remainderAfter (portion.1 + portion.2) q.remainder }
      else { q with length := some (d.split i), holdMinGreen := false }

/-- The start of a preemption stage's green: timed by its effective split, or for a resumed stage by what
is left of it (R96, R102). -/
def Sequencer.beginPreempt (q : Sequencer) (now : Instant) (d : Derived) : Sequencer :=
  let i := q.stage.getD 1
  { q with
    state := .stage, greenStart := now, length := some (d.split i - q.resumed.getD 0),
    holdMinGreen := q.resumed.isSome, dwellOver := false }

/-- The end of an interstage: the running context's stage begins its green; the last stage of a preemption
plan begins its dwell (R64, R96). -/
def State.beginStage (s : State) : State :=
  match s.runningContext with
  | none => s.setSeq { s.seq with state := .stage, greenStart := s.now }
  | some c =>
    match s.planData c.plan with
    | none => s.setSeq { s.seq with state := .stage, greenStart := s.now }
    | some (b, d) =>
      match c.invoker, d.base with
      | none, some x => s.setSeq (s.seq.beginBase s.now s.junction.mode b d x)
      | _, _ =>
        let t := s.setSeq (s.seq.beginPreempt s.now d)
        if b.count ≤ s.seq.stage.getD 1 then
          t.setPre { t.pre with chain := t.pre.chain.set s.seq.above { c with inDwell := true } }
        else t

/-- The interstage has ended: every gaining group is green and every losing group has lost green (R64,
R95). -/
def State.interstageDone (s : State) : Bool :=
  s.seq.gaining.all (fun g => (s.group g).aspect == .green)
    && s.seq.losing.all (fun g => (s.group g).aspect != .green)

/-! ## Opening an interstage -/

/-- A transition begun now: the losing groups are given LOSE, at once or, when `delayed`, together at the
latest of their min-green expiries (R63, R95, R102); the gaining groups are requested from the guard with
the present instant as change instant; with nothing to wait for the stage begins at once. -/
def State.openInterstage (s : State) (stage : Nat) (losing gaining : List GroupIx) (delayed : Bool)
    (resumed slackLength : Option Nat) : State :=
  let at? := latest s.now (if delayed then s.expiries losing else [])
  let t := if at? ≤ s.now then s.each State.lose losing else s
  let t := t.setSeq { t.seq with
    state := .interstage, stage := some stage, interStart := s.now, gaining := gaining,
    losing := losing, loseAt := if at? ≤ s.now then none else some at?, length := none,
    holdMinGreen := false, resumed := resumed, slackLength := slackLength, dwellOver := false,
    above := 0 }
  let t := gaining.foldl (fun u g => u.requestGreen g s.now) t
  if t.interstageDone then t.beginStage else t

/-! ## Stage ends and plan switches (R63, R66, R80) -/

/-- HELD, or NOT_HELD while the current plan is stretched or the chain holds a preemption context (R74). -/
def State.syncWithin (s : State) : SyncStatus :=
  if s.preempted || (s.seq.current.any fun p => (s.plan p).stretched) then .notHeld else .held

/-- The sync status re-derived where it is neither NONE nor LOST (R74). -/
def State.resync (s : State) : State :=
  if s.seq.sync = .none ∨ s.seq.sync = .lost then s
  else s.setSeq { s.seq with sync := s.syncWithin }

/-- The pending plan switched in at a cycle boundary (R80). -/
def State.switchPlan (s : State) (p : PlanIx) : State :=
  let t := s.makeActive p
  let t := t.setSeq { t.seq with
    current := some p, pendingPlan := none, remainder := none, excess := 0 }
  let t := t.setPre { t.pre with chain := t.pre.chain.map fun c =>
    if c.invoker.isNone then { c with plan := p } else c }
  (t.raise .planChanged).resync

/-- The plan switch of a cycle boundary, when a plan is pending and the chain holds only the base (R66). -/
def State.atBoundary (s : State) : State :=
  match s.seq.pendingPlan with
  | some p => if s.preempted then s else s.switchPlan p
  | none => s

/-- The transition from the green set of the ended stage into stage `i` of the running plan (R63). -/
def State.transition (s : State) (before : List GroupIx) (i : Nat) (after : List GroupIx) : State :=
  s.openInterstage i (before.filter fun g => !after.contains g) (after.filter fun g => !before.contains g)
    false none none

/-- The position at the start of the interstage into stage `i`: N_i, or absent in STEPPED mode (R65). -/
def State.positionAtInterstage (s : State) (d : Derived) (x : BaseDerived) (k i : Nat) :
    Option CyclePosition :=
  if s.junction.mode = .stepped then none
  else some { value := d.nominalStart x k i, since := some s.now,
              limit := d.nominalStart x k i + d.interstage i }

/-- The end of a base stage: the next stage, or at the end of stage m the cycle boundary (R63, R66, R80). -/
def State.endBaseStage (s : State) (b : PlanBody) : State :=
  let i := s.seq.stage.getD 1
  let next := if i < b.count then i + 1 else 1
  let t := if i < b.count then s else s.atBoundary
  match t.baseData with
  | none => t
  | some (b', d', x') =>
    let t := t.setSeq { t.seq with position := t.positionAtInterstage d' x' b'.slackIndex next }
    t.transition (b.greens i) next (b'.greens next)

/-- The end of the running stage (R63, R96). -/
def State.endStage (s : State) : State :=
  match s.pre.chain.head? with
  | none => s
  | some c =>
    match s.planData c.plan with
    | none => s
    | some (b, _) =>
      match c.invoker with
      | none => s.endBaseStage b
      | some _ =>
        let i := s.seq.stage.getD 1
        s.transition (b.greens i) (i + 1) (b.greens (i + 1))

/-! ## Saving, truncation and resumption (R94, R95, R102) -/

/-- The running context's fields as they are written into its record at an interruption (R94). -/
def State.savedContext (s : State) (c : Context) : Context :=
  let running := s.seq.state == .stage
  let base := c.invoker.isNone
  { c with
    stage := s.seq.stage.getD c.stage
    elapsed := if running then tenths (s.now - s.seq.greenStart) else 0
    slackLength := if base then s.seq.slackLength else none
    position := if base then s.seq.position.map fun p => p.reached s.now else none
    excess := if base then s.seq.excess else 0
    dwell := if running && c.inDwell then c.dwell + tenths (s.now - s.seq.greenStart) else c.dwell }

/-- The running context's record written. -/
def State.saveRunning (s : State) : State :=
  match s.runningContext with
  | none => s
  | some c => s.setPre { s.pre with chain := s.pre.chain.set s.seq.above (s.savedContext c) }

/-- Truncation into stage 1 of the top preemption plan (R95). -/
def State.truncate (s : State) : State :=
  match s.pre.chain.head? with
  | none => s
  | some c =>
    match s.planData c.plan with
    | none => s
    | some (b, _) =>
      let target := b.greens 1
      let t := s.setSeq { s.seq with position := none, excess := 0 }
      t.openInterstage 1 (s.greenGroups.filter fun g => !target.contains g)
        (target.filter fun g => (s.group g).aspect != .green) true none none

/-- The end of the running interstage: its stage begins, and a truncation that has waited for it begins
at the same instant, the record holding the stage just begun (R94). -/
def State.endInterstage (s : State) : State :=
  let t := s.beginStage
  if t.seq.above = 0 then t else t.saveRunning.truncate

/-- The end of the running interstage judged, as a gaining group goes green or the losing groups have been
given LOSE (R64, R95). -/
def State.judgeInterstage (s : State) : State :=
  if s.seq.state = .interstage ∧ s.seq.loseAt.isNone ∧ s.interstageDone then s.endInterstage else s

/-- The top context resumed: its saved stage runs again, and for the base context the position, held
through the interstage, and the excess account are restored (R102). -/
def State.resumeTop (s : State) : State :=
  match s.pre.chain.head? with
  | none => s
  | some c =>
    match s.planData c.plan with
    | none => s
    | some (b, _) =>
      let target := b.greens c.stage
      let held := c.position.map fun v => { value := v, since := none, limit := v : CyclePosition }
      let t := s.setSeq { s.seq with position := held, excess := c.excess }
      t.resync.openInterstage c.stage (s.greenGroups.filter fun g => !target.contains g)
        (target.filter fun g => (s.group g).aspect != .green) true (some c.elapsed) c.slackLength

/-! ## The timed end of a stage (R64, R76, R78, R96, R102) -/

/-- The running stage's green length has passed, and where it also waits for min greens they have. -/
def State.lengthPassed (s : State) : Bool :=
  match s.seq.length with
  | none => false
  | some n =>
    decide (s.seq.greenStart + ms n ≤ s.now) && (!s.seq.holdMinGreen || s.expired s.seq.gaining)

/-- The top context is in its dwell stage. -/
def State.inDwell (s : State) : Bool :=
  s.seq.state == .stage && s.topPreemption.any (·.inDwell)

/-- A stage other than a dwell ends (R64, R78, R96, R102). In STEPPED mode a base stage holds no green
length (R76). -/
def State.stageEndDue (s : State) : Bool := s.seq.state == .stage && !s.inDwell && s.lengthPassed

/-! ## Starting (R62) -/

/-- The sequencer's items at the entry to RUNNING. -/
def State.runningSeq (s : State) (d : Derived) (x : BaseDerived) (k : Nat) : Sequencer :=
  { s.seq with
    position := s.positionAtInterstage d x k 1, excess := 0, remainder := none, latch := false,
    lastPulse := none,
    watchStart := if s.junction.mode = .synced then some s.now else s.seq.watchStart,
    sync := if s.junction.mode = .synced then s.syncWithin else .none }

/-- The sequencer's start at the entry to RUNNING: MAKE_ACTIVE for the current plan, the base context, and
the transition into stage 1 (R62, R93). -/
def State.startSequence (s : State) : State :=
  match s.seq.current with
  | none => s
  | some p =>
    let t := s.makeActive p
    let base : Context := { plan := p, invoker := none, stage := 1, elapsed := 0, slackLength := none,
                            position := none, excess := 0, inDwell := false, dwell := 0 }
    let t := t.setPre { t.pre with chain := [base] }
    match t.baseData with
    | none => t
    | some (b, d, x) =>
      let t := t.setSeq (t.runningSeq d x b.slackIndex)
      t.openInterstage 1 [] (b.greens 1) false none none

end Sys2Proof.Machine
end

