-- ==== Sys2Proof/Machine/Preempting.lean ====
section
/-! DEFINITION. Preempting: entry checks, acceptance, the pending list, the end of a preemption and the
return, and the emptying of the chain (R88 to R103). -/

namespace Sys2Proof.Machine

/-! ## Entry checks (R90) -/

/-- The plan and the class an entry names are not READY or INVOKED and PREEMPT (P_PLAN). -/
def State.planUnfit (s : State) (p : PlanIx) : Bool :=
  !((s.plan p).phase == some .ready || (s.plan p).phase == some .invoked)
    || (s.plan p).cls != some .preempt

/-- The entry checks in their order; the first that fails gives the code. -/
def State.entryCheck (s : State) (e : EntryIx) : Option PCode :=
  if s.pre.length < number e then some .range
  else
    match (s.entry e).config with
    | none => some .absent
    | some c =>
      if s.junction.state ≠ .running ∨ s.seq.state = .clearance then some .state
      else if s.planUnfit c.plan then some .plan
      else if (s.plan c.plan).phase = some .invoked then some .busy
      else if (s.entry e).stuck then some .stuck
      else if 3 ≤ s.pre.chain.length then some .depth
      else none

/-- The priority and plan of a present entry. -/
def State.entryPriority (s : State) (e : EntryIx) : Nat :=
  match (s.entry e).config with
  | some c => c.priority
  | none => 0

/-- Whether the entry is that of a context in the chain. -/
def State.inChain (s : State) (e : EntryIx) : Bool :=
  s.pre.chain.any fun c => c.invoker.any fun i => i.entry == e

/-- Whether the entry holds an element of the pending list. -/
def State.isWaiting (s : State) (e : EntryIx) : Bool := s.pre.waiting.any fun w => w.entry == e

/-- The running priority (R91, R100). -/
def State.runningPriority (s : State) : Option Nat :=
  s.topPreemption.bind fun c => c.invoker.map (·.priority)

/-- Whether a priority is above the running priority; with the base on top there is none. -/
def State.outranks (s : State) (n : Nat) : Bool :=
  match s.runningPriority with
  | none => true
  | some r => decide (r < n)

/-! ## Acceptance (R94) -/

/-- The context pushed for an entry. -/
def EntryConfig.context (c : EntryConfig) (e : EntryIx) : Context :=
  { plan := c.plan, invoker := some { entry := e, priority := c.priority }, stage := 1, elapsed := 0,
    slackLength := none, position := none, excess := 0, inDwell := false, dwell := 0 }

/-- The push of a context, MAKE_INVOKED, PREEMPT_START, and what the sequencer drops (R73, R74, R77,
R94). -/
def State.pushContext (s : State) (e : EntryIx) (c : EntryConfig) : State :=
  let t := s.setPre { s.pre with chain := c.context e :: s.pre.chain }
  let t := (t.makeInvoked c.plan).raise .preemptStart
  let t := t.setSeq { t.seq with remainder := none, latch := false }
  t.resync

/-- The truncation of an acceptance: at once from a stage, or when the running interstage ends (R94). -/
def State.beginTruncation (s : State) : State :=
  if s.seq.state = .interstage then s.setSeq { s.seq with above := s.seq.above + 1 } else s.truncate

/-- The record of the context about to be pushed over is written, and no record beneath it (R93). A context
accepted over the interstage that is still completing has not run, and keeps the values it was pushed with (R94). -/
def State.saveTop (s : State) : State := if s.seq.above = 0 then s.saveRunning else s

/-- An assertion accepted: the record of the context on top is written, the new context pushed, and truncation
begun (R94). -/
def State.acceptEntry (s : State) (e : EntryIx) (c : EntryConfig) : State :=
  (s.saveTop.pushContext e c).beginTruncation

/-- A pending element accepted in a return: the context now on top was saved when it was interrupted and
its record is not written again (R100). -/
def State.acceptWaiting (s : State) (e : EntryIx) (c : EntryConfig) : State :=
  (s.pushContext e c).truncate

/-! ## Assertions (R88, R91, R92) -/

/-- How an assertion was judged. -/
inductive Judgement where
  | accepted | waits
  | refused (code : PCode)
  deriving DecidableEq, Repr

/-- An element joins the pending list by priority, and behind its equals (R92). -/
def joinWaiting (w : Waiting) : List Waiting → List Waiting
  | [] => [w]
  | x :: l => if x.priority < w.priority then w :: x :: l else x :: joinWaiting w l

/-- A refused request: PREEMPT_REFUSED and the last refusal (R91). -/
def State.refuseEntry (s : State) (e : EntryIx) (code : PCode) : State :=
  (s.setPre { s.pre with lastRefusal := some (e, code) }).raise .preemptRefused

/-- The entry's element joins the pending list with the entry's present priority (R92). -/
def State.joinPending (s : State) (e : EntryIx) : State :=
  s.setPre { s.pre with
    waiting := joinWaiting { entry := e, priority := s.entryPriority e } s.pre.waiting }

/-- How the entry checks and the running priority judge an assertion (R90, R91). -/
def State.judgement (s : State) (e : EntryIx) : Judgement :=
  match s.entryCheck e with
  | some .depth => .waits
  | some code => .refused code
  | none => if s.outranks (s.entryPriority e) then .accepted else .waits

/-- The outcome of a judged assertion (R91). -/
def State.judgeEntry (s : State) (e : EntryIx) : State :=
  match s.judgement e with
  | .refused code => s.refuseEntry e code
  | .waits => s.joinPending e
  | .accepted =>
    match (s.entry e).config with
    | some c => s.acceptEntry e c
    | none => s

/-- The request state of an entry. -/
def State.setAsserted (s : State) (e : EntryIx) (b : Bool) : State :=
  s.setEntry e { s.entry e with asserted := b }

/-- An assertion of an entry (R88): one already in the chain or the pending list is not judged. -/
def State.assertEntry (s : State) (e : EntryIx) : State :=
  let t := s.setAsserted e true
  if t.inChain e || t.isWaiting e then t else t.judgeEntry e

/-- A release of an entry (R88). -/
def State.releaseEntry (s : State) (e : EntryIx) : State :=
  let t := s.setEntry e { s.entry e with asserted := false, stuck := false }
  t.setPre { t.pre with waiting := t.pre.waiting.filter fun w => w.entry != e }

/-- The present entries within the table length whose request state is ASSERTED, by descending priority
and ascending number (R88). -/
def State.assertedEntries (s : State) : List EntryIx :=
  [4, 3, 2, 1].flatMap fun n =>
    (List.finRange 8).filter fun e =>
      decide (number e ≤ s.pre.length) && (s.entry e).asserted
        && (s.entry e).config.any fun c => c.priority == n

/-- The judgement of asserted entries at the entry to RUNNING (R88). -/
def State.judgeAsserted (s : State) : State :=
  s.assertedEntries.foldl (fun t e => if t.inChain e || t.isWaiting e then t else t.judgeEntry e) s

/-! ## The end of a preemption and the return (R97 to R102) -/

/-- The top context popped: RETURN_READY for its plan and PREEMPT_END (R99). -/
def State.popTop (s : State) : State :=
  match s.pre.chain with
  | [] => s
  | c :: rest => ((s.setPre { s.pre with chain := rest }).returnReady c.plan).raise .preemptEnd

/-- One try of the pending list: whether an element was served, and the state after (R100). -/
def serveWaiting : List Waiting → State → Bool × State
  | [], s => (false, s.setPre { s.pre with waiting := [] })
  | w :: l, s =>
    if s.outranks w.priority then
      match s.entryCheck w.entry with
      | some .depth => (false, s.setPre { s.pre with waiting := w :: l })
      | some code => serveWaiting l ((s.setPre { s.pre with waiting := l }).refuseEntry w.entry code)
      | none =>
        match (s.entry w.entry).config with
        | some c => (true, (s.setPre { s.pre with waiting := l }).acceptWaiting w.entry c)
        | none => (false, s)
    else (false, s.setPre { s.pre with waiting := w :: l })

/-- A preemption context that comes on top is popped without running (R101). -/
def State.popsThrough (s : State) (c : Context) : Bool :=
  match c.invoker, s.planData c.plan with
  | some i, some (b, _) => !(s.entry i.entry).asserted && c.inDwell && decide (b.dwells.1 ≤ c.dwell)
  | _, _ => false

/-- The return, over the contexts left in the chain, top first (R99). -/
def returnThrough : List Context → State → State
  | [], s => s
  | c :: rest, s =>
    match serveWaiting s.pre.waiting s with
    | (true, t) => t
    | (false, t) => if t.popsThrough c then returnThrough rest t.popTop else t.resumeTop

/-- The end of a preemption (R99). -/
def State.endPreemption (s : State) : State :=
  let t := s.popTop
  returnThrough t.pre.chain t

/-- The dwell elapsed of the top context in its dwell stage, in milliseconds: its saved tenths and the
time since the dwell began (R96). -/
def State.dwellMs (s : State) (c : Context) : Nat := ms c.dwell + (s.now - s.seq.greenStart)

/-- The top context, its entry and its plan, while it is in its dwell stage. -/
def State.dwelling (s : State) : Option (Context × Entry × PlanBody) :=
  if s.seq.state = .stage then
    match s.topPreemption with
    | some c =>
      if c.inDwell then
        match c.invoker, s.planData c.plan with
        | some i, some (b, _) => some (c, s.entry i.entry, b)
        | _, _ => none
      else none
    | none => none
  else none

/-- The dwell ends: by release (R97), or after max dwell at the min-green expiries (R98). -/
def State.dwellEndDue (s : State) : Bool :=
  match s.dwelling with
  | none => false
  | some (c, e, b) =>
    s.expired s.seq.gaining &&
      (s.seq.dwellOver ||
        (!e.asserted && decide (ms b.dwells.1 ≤ s.dwellMs c) &&
          decide (s.seq.greenStart + ms (s.seq.length.getD 0) ≤ s.now)))

/-- The dwell elapsed reaches max dwell while the request is ASSERTED (R98), or is past it when the request
becomes ASSERTED or the dwell resumes (log entry 38). -/
def State.maxDwellDue (s : State) : Bool :=
  match s.dwelling with
  | none => false
  | some (c, e, b) => e.asserted && !s.seq.dwellOver && decide (ms b.dwells.2 ≤ s.dwellMs c)

/-- Max dwell reached: the entry becomes stuck, and the preemption ends now if its min greens have passed
(R98). -/
def State.reachMaxDwell (s : State) : State :=
  match s.topPreemption.bind (·.invoker) with
  | none => s
  | some i =>
    let t := (s.setEntry i.entry { s.entry i.entry with stuck := true }).raise .preemptStuck
    let t := t.setSeq { t.seq with dwellOver := true }
    if t.expired t.seq.gaining then t.endPreemption else t

/-! ## Emptying the chain (R103) -/

/-- RETURN_READY for the plan of each preemption context. -/
def State.returnPlans (s : State) (l : List Context) : State :=
  l.foldl (fun t c => if c.invoker.isSome then t.returnReady c.plan else t) s

/-- PREEMPT_END if a preemption context is among the removed ones. -/
def State.raiseEnd (s : State) (l : List Context) : State :=
  if l.any fun c => c.invoker.isSome then s.raise .preemptEnd else s

/-- FLASH taken in RUNNING: every preemption context is removed, the pending list emptied, and the base
context's position stands as saved (R81, R103; log entry 26). -/
def State.removePreemptions (s : State) : State :=
  let l := s.pre.chain
  let base := l.filter fun c => c.invoker.isNone
  let t := (s.setPre { s.pre with chain := base, waiting := [] }).returnPlans l
  let t := t.raiseEnd l
  if s.preempted then
    match base.head? with
    | some c =>
      t.setSeq { t.seq with
        stage := some c.stage,
        position := c.position.map fun v => { value := v, since := none, limit := v } }
    | none => t
  else t

/-- The preemption unit at an exit from RUNNING: the chain and the pending list are emptied (R103). -/
def State.emptyChain (s : State) : State :=
  let l := s.pre.chain
  ((s.setPre { s.pre with chain := [], waiting := [] }).returnPlans l).raiseEnd l

/-! ## Request lines (R87) -/

/-- The entry bound to a PRQ line. -/
def lineEntry (n : LineIx) : EntryIx := ⟨n.val, by omega⟩

/-- The line's entry is present with source LINE. -/
def State.lineBound (s : State) (n : LineIx) : Bool :=
  (s.entry (lineEntry n)).config.any fun c => c.source == .line

/-- The qualified state of the line an entry is bound to. -/
def State.lineAsserted (s : State) (e : EntryIx) : Bool :=
  match indexOf 4 (number e) with
  | some n => (s.pre.lines.get n).asserted
  | none => false

def State.setLine (s : State) (n : LineIx) (l : PrqLine) : State :=
  s.setPre { s.pre with lines := s.pre.lines.set n l }

def State.prqAssertDue (s : State) (n : LineIx) : Bool :=
  let l := s.pre.lines.get n
  !l.asserted && l.active && decide (l.since + 200 ≤ s.now)

def State.prqReleaseDue (s : State) (n : LineIx) : Bool :=
  let l := s.pre.lines.get n
  l.asserted && !l.active && decide (l.since + 1000 ≤ s.now)

end Sys2Proof.Machine
end

