-- ==== Sys2Proof/Machine/Scheduling.lean ====
section
/-! DEFINITION. Scheduling: the checks and effects of SELECT_PLAN (R79, R80), the DIM state (R20, R136),
and the day schedule's judgement, application and owed selection (R110 to R114). -/

namespace Sys2Proof.Machine

/-! ## Selecting a plan (R79, R80) -/

/-- SELECT_PLAN's STATE check fails. -/
def State.selectBarred (s : State) : Bool :=
  s.junction.state == .startFlash || s.junction.state == .startRed || s.seq.state == .clearance

/-- SELECT_PLAN's NO_PLAN check passes. -/
def State.selectable (s : State) (p : PlanIx) : Bool :=
  (s.plan p).isBase &&
    (if s.junction.state = .running then
      (s.plan p).phase == some .ready || (s.plan p).phase == some .selected
        || (s.plan p).phase == some .active
    else (s.plan p).phase == some .ready)

/-- The plan made current at once, outside RUNNING (R79). -/
def State.makeCurrent (s : State) (p : PlanIx) : State :=
  let t := s.setSeq { s.seq with current := some p }
  if s.seq.current = some p then t else t.raise .planChanged

/-- The pending plan withdrawn (R80). -/
def State.dropPending (s : State) : State :=
  match s.seq.pendingPlan with
  | some p => (s.returnReady p).setSeq { s.seq with pendingPlan := none }
  | none => s

/-- An accepted selection in RUNNING (R80). -/
def State.selectRunning (s : State) (p : PlanIx) : State :=
  match (s.plan p).phase with
  | some .ready =>
    let t := s.makeSelected p
    t.setSeq { t.seq with pendingPlan := some p }
  | some .active => s.dropPending
  | _ => s

/-- An accepted selection (R79, R80). -/
def State.selectPlan (s : State) (p : PlanIx) : State :=
  if s.junction.state = .running then s.selectRunning p else s.makeCurrent p

/-! ## The DIM state (R20, R136) -/

/-- A circuit at a dim change: its pending result, its presented request and its next due instant become
absent (R136). -/
def Circuit.atDimChange (k : Circuit) : Circuit :=
  { k with
    lamp := { k.lamp with pendingResult := none, agreement := 0 },
    schedule := { k.schedule with nextDue := none, presented := none } }

/-- The DIM state set; a change hands the dim-change event to the lamp proving unit (R20, R136). -/
def State.setDim (s : State) (on : Bool) : State :=
  if s.output.dim = on then s
  else
    let t := s.setOutput { s.output with dim := on }
    let t := { t with circuits := t.circuits.map Circuit.atDimChange }
    t.setSup { t.sup with settlingEnd := some (s.now + 1000) }

/-! ## The schedule (R110 to R114) -/

/-- How a scheduled selection came out (R112, R114). -/
inductive Selection where
  | held | selected | owed | planInvalid
  deriving DecidableEq, Repr

/-- How the selection of a plan by the schedule is judged now (R112, R113). -/
def State.selection (s : State) (p : PlanIx) : Selection :=
  if s.sched.hold then .held
  else if s.selectBarred then .owed
  else if s.selectable p then .selected
  else .planInvalid

def State.setOwed (s : State) (b : Bool) : State := s.setSched { s.sched with owed := b }

/-- The schedule's selection of a plan (R112, R113). -/
def State.scheduleSelect (s : State) (p : PlanIx) : State :=
  match s.selection p with
  | .held => s
  | .owed => s.setOwed true
  | .selected => (s.selectPlan p).setOwed false
  | .planInvalid => (s.raise .schedulePlanInvalid).setOwed false

/-- The table's point at a time. -/
def State.pointAt (s : State) (time : Nat) : Option SwitchPoint :=
  s.sched.points.find? fun x => x.time == time

/-- The owed selection paid at the first instant SELECT_PLAN's STATE check passes (R113). -/
def State.payOwed (s : State) : State :=
  if s.sched.owed && !s.selectBarred then
    match s.sched.current.bind s.pointAt with
    | some x => s.scheduleSelect x.plan
    | none => s.setOwed false
  else s

/-- The dim action of a point (R111). -/
def State.dimAction (s : State) : DimAction → State
  | .on => s.setDim true
  | .off => s.setDim false
  | .keep => s

/-- A point applied: it becomes current, its dim action and its selection are carried out (R110 to
R112). -/
def State.applyPoint (s : State) (x : SwitchPoint) : State :=
  ((s.setSched { s.sched with current := some x.time }).dimAction x.dim).scheduleSelect x.plan

/-- The current point: the latest at or before the present minute, else the last of the table; none while
the clock is UNSET or the table empty (R110). -/
def Schedule.currentPoint (d : Schedule) : Option SwitchPoint :=
  if d.clockSet then
    match (d.points.filter fun x => decide (x.time ≤ d.clock / 60)).getLast? with
    | some x => some x
    | none => d.points.getLast?
  else none

/-- The judgement of the current point at a SET_CLOCK, insert or delete; `replaced` is the time of a point
the insert has replaced (R110). -/
def State.judgeCurrent (s : State) (replaced : Option Nat) : State :=
  match s.sched.currentPoint with
  | none => s.setSched { s.sched with current := none, owed := false }
  | some x =>
    if s.sched.current ≠ some x.time ∨ replaced = some x.time then s.applyPoint x else s

/-- The clock reaching a minute applies the point that stands at it (R110). -/
def State.reachMinute (s : State) : State :=
  if s.sched.clockSet ∧ s.sched.clock % 60 = 0 then
    match s.pointAt (s.sched.clock / 60) with
    | some x => s.applyPoint x
    | none => s
  else s

/-- A point placed in time order, replacing the one at its time (R108). -/
def insertPoint (x : SwitchPoint) : List SwitchPoint → List SwitchPoint
  | [] => [x]
  | y :: l =>
    if x.time < y.time then x :: y :: l
    else if x.time = y.time then x :: l
    else y :: insertPoint x l

end Sys2Proof.Machine
end

