-- ==== Sys2Proof/Machine/Junctions.lean ====
section
/-! DEFINITION. Junctions: the changes of junction state, lockout causes (R165 to R172), red supervision
(R144, R145), and the end of a step: red supervision, the round offer, arbitration (R121, R122). -/

namespace Sys2Proof.Machine

/-! ## Leaving RUNNING (R82, R103) -/

/-- The sequencer's items at an exit from RUNNING (R82). -/
def Sequencer.exit (q : Sequencer) : Sequencer :=
  { q with
    state := .idle, pendingPlan := none, stage := none, greenStarts := Table.replicate 16 none,
    position := none, excess := 0, remainder := none, sync := .none, lastPulse := none,
    watchStart := none, latch := false, gaining := [], losing := [], loseAt := none, length := none,
    holdMinGreen := false, resumed := none, slackLength := none, dwellOver := false, above := 0 }

/-- The exit of the sequencer and the preemption unit from RUNNING: RETURN_READY for the pending plan and
the ACTIVE plan, the chain emptied. -/
def State.exitRunning (s : State) : State :=
  if s.junction.state = .running then
    let t := s.emptyChain.dropPending
    let t := match t.seq.current with
      | some p => t.returnReady p
      | none => t
    t.setSeq t.seq.exit
  else s

/-! ## Changes of junction state (R165) -/

/-- The junction state set with its entry instant, and JUNCTION_STATE raised. -/
def State.enterState (s : State) (j : JunctionState) : State :=
  (s.setJunction { s.junction with state := j, entry := s.now, clearance := none }).raise .junctionState

/-- An entry to DARK or LOCKOUT from a supplied state: the exit from RUNNING, the all-off, and an owed
selection paid (R170, R171). -/
def State.leaveSupplied (s : State) (j : JunctionState) : State :=
  (s.exitRunning.allOff.enterState j).payOwed

/-- The entry to FLASH at the end of the all-red before flash (R169). -/
def State.enterFlash (s : State) : State :=
  let t := s.exitRunning.enterState .flash
  (t.each State.showFlash t.presentGroups).payOwed

/-- The lamp part of a red circuit at the entry to START_RED (R146). -/
def LampPart.cleared (l : LampPart) : LampPart :=
  { l with state := .unmeasured, pendingResult := none, agreement := 0, cause := none }

/-- Whether a circuit is assigned to a RED aspect. -/
def State.isRed (s : State) (c : CircuitIx) : Bool :=
  (s.assignment c).any fun a => a.aspect == .red

/-- Every red circuit's lamp state cleared (R146). -/
def State.clearReds (s : State) : State :=
  { s with circuits := Table.ofFn fun c =>
      if s.isRed c then { s.circuit c with lamp := (s.circuit c).lamp.cleared } else s.circuit c }

/-- The entry to START_RED (R146, R168). -/
def State.enterStartRed (s : State) : State :=
  let t := (s.enterState .startRed).clearReds
  t.each State.showRed t.presentGroups

/-- The entry to START_FLASH from DARK (R166, R167). -/
def State.enterStartFlash (s : State) : State :=
  let t := s.safeOn.enterState .startFlash
  t.each State.showFlash t.presentGroups

/-- The entry to RUNNING: the sequencer starts, the preemption unit judges its asserted entries, the
schedule pays an owed selection (R62, R88, R113, R168). -/
def State.enterRunning (s : State) : State :=
  (s.enterState .running).startSequence.judgeAsserted.payOwed

/-! ## Lockout causes (R171, R172) -/

/-- A lockout cause with the group and circuit it carries. -/
structure Cause where
  cause : LockoutCause
  group : Option GroupIx
  circuit : Option CircuitIx
  deriving DecidableEq, Repr

/-- The lockout record written at the entry to LOCKOUT (R171). -/
def State.lockoutRecord (s : State) (x : Cause) : LockoutRecord :=
  { cause := x.cause, group := x.group, circuit := x.circuit,
    time := if s.sched.clockSet then some s.sched.clock else none, further := false, cleared := false }

/-- The lockout record and the LOCKOUT attention. -/
def State.recordLockout (s : State) (x : Cause) : State :=
  (s.setJunction { s.junction with lockout := some (s.lockoutRecord x) }).raise .lockout

/-- The further-causes flag set (R172). -/
def State.furtherCause (s : State) : State :=
  s.setJunction { s.junction with lockout := s.junction.lockout.map fun r => { r with further := true } }

/-- A cause handed by a block: LOCKOUT while supplied, a further cause in LOCKOUT, ignored in DARK. -/
def State.handCause (s : State) (x : Cause) : State :=
  if s.output.safeEnable then (s.recordLockout x).leaveSupplied .lockout
  else if s.junction.state = .lockout then s.furtherCause
  else s

/-- Causes handed at one instant, one after another. -/
def State.handCauses (s : State) (l : List Cause) : State := l.foldl State.handCause s

/-! ## Red status (R144) -/

/-- A circuit's reference for a dim level. -/
def LampPart.refFor (l : LampPart) : DimLevel → Option Nat
  | .full => l.fullRef
  | .dim => l.dimRef

/-- A red circuit that holds a reference for the present level. -/
def State.referenced (s : State) (c : CircuitIx) : Bool := ((s.circuit c).lamp.refFor s.level).isSome

inductive RedStatus where
  | unsupervised | lost | lit | unknown
  deriving DecidableEq, Repr

/-- The referenced red circuits of a group, ascending. -/
def State.referencedReds (s : State) (g : GroupIx) : List CircuitIx :=
  match (s.group g).config with
  | some k => (List.finRange 48).filter fun c => k.reds.contains c && s.referenced c
  | none => []

/-- Whether a lamp proving state counts as lit for the red status. -/
def LampState.isLit : LampState → Bool
  | .proven => true
  | .partialOut => true
  | .overcurrent => true
  | _ => false

/-- The red status of a present group. -/
def State.redStatus (s : State) (g : GroupIx) : RedStatus :=
  let l := s.referencedReds g
  if l.isEmpty then .unsupervised
  else if l.all fun c => (s.circuit c).lamp.state == .out then .lost
  else if l.any fun c => (s.circuit c).lamp.state.isLit then .lit
  else .unknown

/-! ## Red supervision (R145) -/

/-- The group is found LOST: in START_RED or RUNNING, showing red, its red status LOST. -/
def State.redLost (s : State) (g : GroupIx) : Bool :=
  (s.junction.state == .startRed || s.junction.state == .running)
    && ((s.group g).aspect == .red || (s.group g).aspect == .redAmber)
    && s.redStatus g == .lost

/-- The cause RED_LOST of a group: the circuit whose change of state was judged, else the lowest-numbered
referenced red circuit. -/
def State.redCause (s : State) (g : GroupIx) (changed : Option CircuitIx) : Cause :=
  { cause := .redLost, group := some g,
    circuit := match changed with
      | some c => some c
      | none => (s.referencedReds g).head? }

/-- The LOST groups among those judged hand their causes; which of several is first is free (R145, R172;
log entry 9). -/
def State.judgeReds (s : State) (gs : List GroupIx) (changed : Option CircuitIx) : State :=
  let lost := gs.filter s.redLost
  match s.pick lost with
  | none => s
  | some g =>
    let t := if lost.length ≤ 1 then s else s.drawn
    t.handCauses ((g :: lost.filter fun h => h != g).map fun h => s.redCause h changed)

/-- Whether a group has entered RED or RED_AMBER in the step from `before`. -/
def State.enteredRed (before s : State) (g : GroupIx) : Bool :=
  (s.group g).aspect != (before.group g).aspect
    && ((s.group g).aspect == .red || (s.group g).aspect == .redAmber)

/-- Whether every group is to be judged: a dim change, or an entry to START_RED or RUNNING. -/
def State.judgesAllReds (before s : State) : Bool :=
  before.output.dim != s.output.dim
    || (before.junction.state != s.junction.state
        && (s.junction.state == .startRed || s.junction.state == .running))

/-- Red supervision at the end of a step (R145; log entry 6). -/
def State.superviseReds (before s : State) : State :=
  s.judgeReds (s.presentGroups.filter fun g => before.judgesAllReds s || before.enteredRed s g) none

/-! ## Arbitration (R121, R122) -/

/-- The first element with the least key; ties keep the earlier, that is the lower number. -/
def leastBy (key : CircuitIx → Nat) : List CircuitIx → Option CircuitIx
  | [] => none
  | c :: l =>
    match leastBy key l with
    | none => some c
    | some d => if key d < key c then some d else some c

/-- The presented proving request that comes first: earliest due instant, then lowest number. -/
def State.provingChoice (s : State) : Option CircuitIx :=
  leastBy (fun c => (s.circuit c).schedule.presented.getD 0)
    ((List.finRange 48).filter fun c => (s.circuit c).schedule.presented.isSome)

/-- The presented green-watch circuit that comes first: oldest last voltage check, then lowest number. -/
def State.watchChoice (s : State) : Option CircuitIx :=
  leastBy (fun c => (s.circuit c).cable.lastCheck)
    ((List.finRange 48).filter fun c => (s.circuit c).cable.watchPresented)

/-- The presented short calibration is overdue: more than 10 s past its due instant (R121). -/
def State.shortOverdue (s : State) : Bool :=
  s.channel.shortPresented && s.channel.shortDue.any fun d => decide (d + 10000 < s.now)

inductive Candidate where
  | proving (c : CircuitIx)
  | watch (c : CircuitIx)
  | shortCal
  | round (c : CircuitIx)
  deriving DecidableEq, Repr

/-- The candidate an arbitration chooses: the first of the five classes that holds any (R122). -/
def State.choice (s : State) : Option Candidate :=
  match s.provingChoice with
  | some c => some (.proving c)
  | none =>
    if s.shortOverdue then some .shortCal
    else
      match s.watchChoice with
      | some c => some (.watch c)
      | none =>
        if s.channel.shortPresented then some .shortCal
        else s.sup.roundOffer.map .round

/-- A window started on a circuit (R119, R120). -/
def State.startWindow (s : State) (c : CircuitIx) (kind : WindowKind) : State :=
  s.setChannel { s.channel with
    state := .measuring, inFlight := some { circuit := c, kind := kind, start := s.now } }

/-- The dark time of a circuit at the present instant. -/
def State.darkTime (s : State) (c : CircuitIx) : Nat := s.now - (s.circuit c).drive.lastSwitch

/-- The short calibration begun (R128). -/
def State.startShort (s : State) : State :=
  s.setChannel { s.channel with
    state := .calShort, shortPresented := false,
    calibration := some { kind := .short, start := s.now, attempt := 1 } }

/-- The chosen candidate started; the others stay presented (R122, R157). -/
def State.startCandidate (s : State) : Candidate → State
  | .proving c =>
    (s.setSchedule c { (s.circuit c).schedule with presented := none }).startWindow c (.lit s.level)
  | .watch c =>
    (s.setPresented c false).startWindow c (.dark .watch (s.darkTime c))
  | .shortCal => s.startShort
  | .round c =>
    ((s.setSup { s.sup with roundPointer := number c }).startWindow c
      (.dark .round (s.darkTime c))).renewOffer

/-- The channel arbitrates while it is READY and a candidate stands presented (R122). -/
def State.arbitrate (s : State) : State :=
  if s.channel.state = .ready then
    match s.choice with
    | some x => s.startCandidate x
    | none => s
  else s

/-- The end of a step that may have switched drives, moved aspects or freed the channel: red supervision,
the round offer renewed, arbitration (log entry 6). A candidate that falls due at the same instant takes part in the
arbitration when its own event has come first (R123). -/
def State.settle (before s : State) : State := ((before.superviseReds s).renewOffer).arbitrate

end Sys2Proof.Machine
end

