-- ==== Sys2Proof/Machine/Records.lean ====
section
/-! DEFINITION. Records: the writes of the group, circuit, conflict and junction records and what they
refuse (R2 to R4, R6 to R8, R24 to R26, R164, R178). -/

namespace Sys2Proof.Machine

/-! ## Groups (R2, R3, R4, R6) -/

/-- A circuit is named by another present group. -/
def State.usedElsewhere (s : State) (g : GroupIx) (c : CircuitIx) : Bool :=
  (List.finRange 16).any fun h => h != g && (s.group h).config.any fun k => k.circuits.contains c

/-- The circuits on which the TAKEN check fails: named twice, or named by another present group (R2). -/
def State.takenCircuits (s : State) (g : GroupIx) (k : GroupConfig) : List CircuitIx :=
  (List.finRange 48).filter fun c =>
    decide (2 ≤ k.circuits.count c) || (k.circuits.contains c && s.usedElsewhere g c)

/-- A reply of TAKEN; which circuit it names when several qualify is free (log entry 8). -/
def State.refuseTaken (s : State) (l : List CircuitIx) : State :=
  match s.pick l with
  | some c =>
    let t := if l.length ≤ 1 then s else s.drawn
    t.answer { status := .taken, payload := .taken c }
  | none => s.refuse .taken

/-- The amber check at a group write (R26). -/
def State.amberFits (s : State) (g : GroupIx) (k : GroupConfig) : Bool :=
  match k.vehicle with
  | none => true
  | some v => (s.conflictsOf g).all fun l => (s.intergreen g l).all fun n => decide (v.amberTime ≤ n)

/-- A circuit whose assignment changes (R6). -/
def LampPart.reassigned (l : LampPart) : LampPart :=
  { l with state := .unmeasured, pendingResult := none, agreement := 0, cause := none, training := none }

def Circuit.reassigned (k : Circuit) : Circuit := { k with lamp := k.lamp.reassigned }

/-- The circuits treated by R6 where their assignment in `s` differs from that in `before`. -/
def State.reassign (before s : State) : State :=
  { s with circuits := Table.ofFn fun c =>
      if before.assignment c = s.assignment c then s.circuit c else (s.circuit c).reassigned }

/-- A group record's configured fields replaced whole, or discarded; the group is DARK (R2, R4, R47). -/
def State.storeGroup (s : State) (g : GroupIx) (k : Option GroupConfig) : State :=
  let r := s.group g
  let awaited := if k.isSome then r.awaited else none
  (s.reassign (s.setGroup g { r with config := k, aspect := .dark, awaited := awaited })).demotePlans

/-- The checks of R2 on a record as it would result, and its acceptance. -/
def State.placeGroup (s : State) (g : GroupIx) (f : GroupFields) : State :=
  match f.check with
  | none => s.refuse .range
  | some k =>
    if (s.takenCircuits g k).isEmpty then
      if s.amberFits g k then (s.storeGroup g (some k)).accept .empty else s.refuse .range
    else s.refuseTaken (s.takenCircuits g k)

/-- The LOCKED and STATE checks of a safety-class write (R29, R179). -/
def State.safetyWrite (s : State) (f : State → State) : State :=
  if s.safetyLocked then s.refuse .locked
  else if s.output.safeEnable then s.refuse .state
  else f s

/-- WRITE_RECORD of a group (R2). -/
def execWriteRecordGroup (group : Nat) (f : GroupFields) (s : State) :
    Host.Outcome State Fault Refusal :=
  .next (s.taken fun t => t.safetyWrite fun t =>
    match indexOf 16 group with
    | none => t.refuse .range
    | some g => t.placeGroup g f)

/-- UPDATE_FIELDS of a group (R3). -/
def execUpdateFieldsGroup (group : Nat) (u : GroupChanges) (s : State) :
    Host.Outcome State Fault Refusal :=
  .next (s.taken fun t => t.safetyWrite fun t =>
    match indexOf 16 group with
    | none => t.refuse .range
    | some g =>
      match (t.group g).config with
      | none => t.refuse .absent
      | some k => t.placeGroup g (u.apply k.toFields))

/-- RETIRE_RECORD of a group (R4). -/
def execRetireRecordGroup (group : Nat) (s : State) : Host.Outcome State Fault Refusal :=
  .next (s.taken fun t => t.safetyWrite fun t =>
    match indexOf 16 group with
    | none => t.refuse .range
    | some g =>
      if (t.group g).config.isNone then t.refuse .absent
      else (t.storeGroup g none).accept .empty)

/-! ## Circuits (R7, R8) -/

/-- Red supervision of the group a red circuit is assigned to (R145). -/
def State.judgeCircuit (s : State) (c : CircuitIx) (changed : Option CircuitIx) : State :=
  match s.assignment c with
  | some { group := g, aspect := .red } => s.judgeReds [g] changed
  | _ => s

/-- The lamp part at a write that changes the circuit's fields (R7). -/
def LampPart.rewritten (l : LampPart) (technologyChanges : Bool) : LampPart :=
  { l with
    state := .unmeasured, pendingResult := none, agreement := 0, lit := 0, cause := none,
    training := if technologyChanges then none else l.training }

/-- An accepted circuit write (R7): nothing when it changes no field. -/
def State.storeCircuit (s : State) (c : CircuitIx) (t : Technology) (n r : Nat) : State :=
  let k := s.circuit c
  let changes := decide (t ≠ k.technology)
  if t = k.technology ∧ n = k.heads ∧ r = k.residual then s
  else
    let u := s.setCircuit c
      { k with technology := t, heads := n, residual := r, lamp := k.lamp.rewritten changes }
    let u := if changes then u.demotePlans else u
    if k.lamp.state = .unmeasured then u else u.judgeCircuit c (some c)

/-- The checks of R7 on the circuit record that would result, and its acceptance. A technology that is neither
of the two differs from the one held (log entry 33). -/
def State.placeCircuit (s : State) (c : CircuitIx) (t : Option Technology) (n r : Option Nat) : State :=
  let changes := decide (t ≠ some (s.circuit c).technology)
  if changes && s.safetyLocked then s.refuse .locked
  else if changes && s.output.safeEnable then s.refuse .state
  else
    match circuitOf t n r with
    | none => s.refuse .range
    | some (t, n, r) => s.settle ((s.storeCircuit c t n r).accept .empty)

/-- WRITE_RECORD of a circuit (R7). -/
def execWriteRecordCircuit (circuit : Nat) (t : Arg Technology) (n r : Nat) (s : State) :
    Host.Outcome State Fault Refusal :=
  .next (s.taken fun u =>
    if u.locked then u.refuse .locked
    else
      match indexOf 48 circuit with
      | none => u.refuse .range
      | some c => u.placeCircuit c t.value (some n) (some r))

/-- UPDATE_FIELDS of a circuit (R7). -/
def execUpdateFieldsCircuit (circuit : Nat) (t : Change (Arg Technology)) (n r : Change Nat) (s : State) :
    Host.Outcome State Fault Refusal :=
  .next (s.taken fun u =>
    if u.locked then u.refuse .locked
    else
      match indexOf 48 circuit with
      | none => u.refuse .range
      | some c =>
        let k := u.circuit c
        u.placeCircuit c (technologyAfter t k.technology) (n.apply (some k.heads))
          (r.apply (some k.residual)))

/-- The lamp part of a forgotten circuit (R8): the last current is kept. -/
def LampPart.forgotten (l : LampPart) : LampPart :=
  { fullRef := none, dimRef := none, state := .unmeasured, pendingResult := none, agreement := 0,
    lastCurrent := l.lastCurrent, lit := 0, cause := none, training := none }

/-- The cable part of a forgotten circuit (R8, R151). -/
def CablePart.forgotten (k : CablePart) : CablePart :=
  { k with
    baseline := none, state := .noBaseline, count := 0, counted := none, acknowledged := false,
    learning := none }

def CableState.isAlarm : CableState → Bool
  | .alarm _ => true
  | _ => false

/-- FORGET_CIRCUIT accepted (R8, R145). The group is judged for the references made absent, so that a RED_LOST names
the lowest-numbered referenced red circuit (log entry 47). -/
def State.forget (s : State) (c : CircuitIx) : State :=
  let k := s.circuit c
  let t := s.setCircuit c { k with lamp := k.lamp.forgotten, cable := k.cable.forgotten }
  let t := if k.cable.state.isAlarm then t.raise .cableAlarm else t
  if k.lamp.state = .unmeasured ∧ k.lamp.fullRef = none ∧ k.lamp.dimRef = none then t
  else t.judgeCircuit c none

/-- FORGET_CIRCUIT (R8). -/
def execForgetCircuit (circuit : Nat) (s : State) : Host.Outcome State Fault Refusal :=
  .next (s.taken fun t =>
    if t.locked then t.refuse .locked
    else
      match indexOf 48 circuit with
      | none => t.refuse .range
      | some c => t.settle ((t.forget c).accept .empty))

/-! ## Conflict pairs (R24, R25, R26) -/

/-- The amber check for one losing end of a pair (R26). -/
def State.amberBound (s : State) (l : GroupIx) (n : Nat) : Bool :=
  match (s.group l).config.bind (·.vehicle) with
  | some v => decide (v.amberTime ≤ n)
  | none => true

/-- The amber check at a conflict-table write (R26). -/
def State.pairFits (s : State) (l g : GroupIx) : Option (Nat × Nat) → Bool
  | none => true
  | some (a, b) => s.amberBound l a && s.amberBound g b

/-- Checks 2 and 3 of R24 on a pair as it would result, and its acceptance. -/
def State.placePair (s : State) (l g : GroupIx) (flag : Bool) (a b : Option Nat) : State :=
  match pairOfFields flag a b with
  | none => s.refuse .range
  | some v => if s.pairFits l g v then ((s.setPair l g v).demotePlans).accept .empty else s.refuse .range

/-- Check 1 of R24: two distinct group numbers. -/
def pairNumbers (l g : Nat) : Option (GroupIx × GroupIx) :=
  match indexOf 16 l, indexOf 16 g with
  | some a, some b => if a = b then none else some (a, b)
  | _, _ => none

/-- WRITE_RECORD of a conflict pair (R24). -/
def execWriteRecordConflict (l g : Nat) (flag : Bool) (igLG igGL : Option Nat) (s : State) :
    Host.Outcome State Fault Refusal :=
  .next (s.taken fun t => t.safetyWrite fun t =>
    match pairNumbers l g with
    | none => t.refuse .range
    | some (a, b) => t.placePair a b flag igLG igGL)

/-- UPDATE_FIELDS of a conflict pair (R25); a flag named as absent is refused RANGE (log entry 33). -/
def execUpdateFieldsConflict (l g : Nat) (flag : Change Bool) (igLG igGL : Change Nat) (s : State) :
    Host.Outcome State Fault Refusal :=
  .next (s.taken fun t => t.safetyWrite fun t =>
    match pairNumbers l g with
    | none => t.refuse .range
    | some (a, b) =>
      match flag.apply (some (t.conflicting a b)) with
      | none => t.refuse .range
      | some f =>
        t.placePair a b f (igLG.apply (t.intergreen a b)) (igGL.apply (t.intergreen b a)))

/-! ## The junction record (R164) -/

/-- The junction record as it would result is in its ranges, and the write does not name the mode. -/
def timesInRange (startFlash startRed allRed : Nat) (namesMode : Bool) : Bool :=
  within 50 300 startFlash && within 30 100 startRed && within 30 100 allRed && !namesMode

/-- A junction record write's own check and its acceptance. -/
def State.placeJunction (s : State) (startFlash startRed allRed : Nat) (namesMode : Bool) : State :=
  if timesInRange startFlash startRed allRed namesMode then
    ((s.setJunction { s.junction with
        startFlash := startFlash, startRed := startRed, allRed := allRed }).demotePlans).accept .empty
  else s.refuse .range

/-- WRITE_RECORD of the junction record (R164). -/
def execWriteRecordJunction (startFlash startRed allRed : Nat) (namesMode : Bool) (s : State) :
    Host.Outcome State Fault Refusal :=
  .next (s.taken fun t => t.safetyWrite fun t => t.placeJunction startFlash startRed allRed namesMode)

/-- UPDATE_FIELDS of the junction record (R164); a time named as absent is refused RANGE (log entry 33). -/
def execUpdateFieldsJunction (startFlash startRed allRed : Change Nat) (namesMode : Bool) (s : State) :
    Host.Outcome State Fault Refusal :=
  .next (s.taken fun t => t.safetyWrite fun t =>
    match startFlash.apply (some t.junction.startFlash), startRed.apply (some t.junction.startRed),
      allRed.apply (some t.junction.allRed) with
    | some a, some b, some c => t.placeJunction a b c namesMode
    | _, _, _ => t.refuse .range)

/-! ## Writes the kind does not allow (R178) -/

/-- The record kinds an operation may name (R178; log entry 25). -/
def recordKinds : RecordOp → List Nat
  | .write => [1, 2, 3, 4, 5, 6, 9]
  | .update => [1, 2, 3, 4, 5, 9]
  | .retire => [1, 4, 5]

/-- A write, update or retirement of a kind that does not allow it (R178). A pair of operation and kind
that the table allows is another row's command, and this row then has no effect (log entry 25). -/
def execRecordWriteUnsupported (op : RecordOp) (kind : Nat) (s : State) :
    Host.Outcome State Fault Refusal :=
  .next (s.taken fun t =>
    if (recordKinds op).contains kind then t
    else if t.locked then t.refuse .locked
    else t.refuse .range)

end Sys2Proof.Machine
end

