-- ==== Sys2Proof/Machine/Plans.lean ====
section
/-! DEFINITION. Plans: the writes of plan records (R40 to R42) and VALIDATE_PLAN with its checks and the
derived fields (R50 to R60). -/

namespace Sys2Proof.Machine

/-! ## Writes (R40, R41, R42) -/

/-- Check 3 of R40: the plan is in use, or the start sequence holds it as the current plan. -/
def State.planBusy (s : State) (p : PlanIx) : Bool :=
  (s.plan p).phase == some .selected || (s.plan p).phase == some .active
    || (s.plan p).phase == some .invoked
    || ((s.junction.state == .startFlash || s.junction.state == .startRed) && s.seq.current == some p)

/-- Check 4 of R40 on the plan as it would result, and its acceptance: the plan becomes DRAFT. -/
def State.placePlan (s : State) (p : PlanIx) (f : PlanFields) : State :=
  match f.check with
  | none => s.refuse .range
  | some b => (s.setPlan p (.draft b)).accept .empty

/-- WRITE_RECORD of a plan (R40). -/
def execWriteRecordPlan (plan : Nat) (f : PlanFields) (s : State) : Host.Outcome State Fault Refusal :=
  .next (s.taken fun t =>
    if t.locked then t.refuse .locked
    else
      match indexOf 16 plan with
      | none => t.refuse .range
      | some p => if t.planBusy p then t.refuse .busy else t.placePlan p f)

/-- UPDATE_FIELDS of a plan (R41). -/
def execUpdateFieldsPlan (plan : Nat) (u : PlanChanges) (s : State) :
    Host.Outcome State Fault Refusal :=
  .next (s.taken fun t =>
    if t.locked then t.refuse .locked
    else
      match indexOf 16 plan with
      | none => t.refuse .range
      | some p =>
        if t.planBusy p then t.refuse .busy
        else if u.indicesHeld (t.plan p).toFields then t.placePlan p (u.apply (t.plan p).toFields)
        else t.refuse .range)

/-- RETIRE_RECORD of a plan (R42). -/
def execRetireRecordPlan (plan : Nat) (s : State) : Host.Outcome State Fault Refusal :=
  .next (s.taken fun t =>
    if t.locked then t.refuse .locked
    else
      match indexOf 16 plan with
      | none => t.refuse .range
      | some p =>
        if t.plan p = .free then t.refuse .absent
        else if t.planBusy p then t.refuse .busy
        else (t.setPlan p .free).accept .empty)

/-! ## The checks of validation (R50 to R53) -/

/-- The stages with their indices, counted from 1. -/
def PlanBody.indexed (b : PlanBody) : List (Nat × Stage) := b.stages.zipIdx.map fun x => (x.2 + 1, x.1)

/-- V_STAGES (R51). -/
def PlanBody.vStages (b : PlanBody) : Option ValidationFailure :=
  let most := match b.cls with
    | .base => 8
    | .preempt => 4
  if b.count = 0 ∨ most < b.count then some (.vStages b.count) else none

/-- V_GROUP (R51): the first group, by stage and then number, that is not present. -/
def State.vGroup (s : State) (b : PlanBody) : Option ValidationFailure :=
  b.indexed.findSome? fun x =>
    (x.2.green.find? fun g => !s.present g).map fun g => .vGroup x.1 (number g)

/-- The pairs of a green set, by the lower number and then the higher. -/
def pairsOf : List GroupIx → List (GroupIx × GroupIx)
  | [] => []
  | g :: l => l.map (fun h => (g, h)) ++ pairsOf l

/-- V_CONFLICT (R52): the first conflicting pair of a stage's green set. -/
def State.vConflict (s : State) (b : PlanBody) : Option ValidationFailure :=
  b.indexed.findSome? fun x =>
    ((pairsOf x.2.green).find? fun y => s.conflicting y.1 y.2).map fun y =>
      .vConflict x.1 (number y.1) (number y.2)

/-- V_SLACK (R53). -/
def PlanBody.vSlack (b : PlanBody) : Option ValidationFailure :=
  match b.fields with
  | .base _ _ k => if b.count < k then some (.vSlack k b.count) else none
  | .preempt .. => none

/-- V_RANGE (R53). -/
def PlanBody.vRange (b : PlanBody) : Option ValidationFailure :=
  match b.fields with
  | .base c o _ => if c ≤ o then some (.vRange false) else none
  | .preempt lo hi => if hi < lo then some (.vRange true) else none

/-- The first check that fails, in the order of R50. -/
def State.validationFailure (s : State) (b : PlanBody) : Option ValidationFailure :=
  ((((b.vStages).or (s.vGroup b)).or (s.vConflict b)).or b.vSlack).or b.vRange

/-! ## Derived fields (R55 to R59) -/

/-- The green set before the transition into stage `i` (R55). -/
def PlanBody.before (b : PlanBody) (i : Nat) : List GroupIx :=
  if i = 1 then
    match b.cls with
    | .base => b.greens b.count
    | .preempt => []
  else b.greens (i - 1)

/-- The groups losing and gaining in the transition into stage `i` (R55). -/
def PlanBody.losingInto (b : PlanBody) (i : Nat) : List GroupIx :=
  (b.before i).filter fun g => !(b.greens i).contains g

def PlanBody.gainingInto (b : PlanBody) (i : Nat) : List GroupIx :=
  (b.greens i).filter fun g => !(b.before i).contains g

/-- A gaining group's green start offset (R56). -/
def State.startOffset (s : State) (losing : List GroupIx) (g : GroupIx) : Nat :=
  latest (s.redAmber g) (losing.filterMap fun l => s.intergreen l g)

/-- The nominal interstage into stage `i` (R56). -/
def State.nominalInterstage (s : State) (b : PlanBody) (i : Nat) : Nat :=
  latest 0 ((b.gainingInto i).map (s.startOffset (b.losingInto i)))

/-- The largest min green among the groups gaining in stage `i`, not below `a`. -/
def State.minGreenInto (s : State) (b : PlanBody) (a i : Nat) : Nat :=
  latest a ((b.gainingInto i).map s.minGreen)

/-- The effective split of stage `i` (R57). -/
def State.effectiveSplit (s : State) (b : PlanBody) (i : Nat) (t : Stage) : Nat :=
  s.minGreenInto b t.split i

/-- The derived fields of a plan that passes its validation (R56 to R59). -/
def State.derive (s : State) (b : PlanBody) : Derived :=
  let interstages := b.indexed.map fun x => s.nominalInterstage b x.1
  let effective := b.indexed.map fun x => s.effectiveSplit b x.1 x.2
  let demand := interstages.sum + effective.sum
  { interstages := interstages, effective := effective, demand := demand,
    base := match b.fields with
      | .preempt .. => none
      | .base c _ k =>
        some { ceff := max c demand, stretched := decide (c < demand),
               slackSplit := effective.getD (k - 1) 0 + (c - demand),
               slackFloor := s.minGreenInto b 50 k } }

/-! ## VALIDATE_PLAN (R50) -/

/-- The payload of a pass: the class and D, and for a BASE plan Ceff and the stretched flag. -/
def passPayload (b : PlanBody) (d : Derived) : Payload :=
  .validated b.cls d.demand (d.base.map fun x => (x.ceff, x.stretched))

/-- The validation of a plan record. -/
def State.validate (s : State) (p : PlanIx) : State :=
  match s.plan p with
  | .free => s.refuse .absent
  | .valid _ b d => s.accept (passPayload b d)
  | .draft b =>
    match s.validationFailure b with
    | some x => s.answer { status := .invalid, payload := .invalid x }
    | none => (s.setPlan p (.valid .ready b (s.derive b))).accept (passPayload b (s.derive b))

/-- VALIDATE_PLAN (R50). -/
def execValidatePlan (plan : Nat) (s : State) : Host.Outcome State Fault Refusal :=
  .next (s.taken fun t =>
    if t.locked then t.refuse .locked
    else
      match indexOf 16 plan with
      | none => t.refuse .range
      | some p => t.validate p)

end Sys2Proof.Machine
end

