-- ==== Sys2Proof/Machine/Entries.lean ====
section
/-! DEFINITION. Entries: the writes of the preemption table (R85). -/

namespace Sys2Proof.Machine

/-- Check 4 of R85: the entry is that of a context in the chain or of a pending element. -/
def State.entryBusy (s : State) (e : EntryIx) : Bool := s.inChain e || s.isWaiting e

/-- The source of an entry's configuration. -/
def sourceOf (c : Option EntryConfig) : Option Source := c.map (·.source)

/-- The entry record after an accepted write (R85): a change from LINE to COMMAND releases the request
state; a change to LINE, or an entry made present with LINE, takes the line's qualified state; an entry
made not present is released and its stuck flag cleared, as by a retirement (log entry 20). -/
def State.storedEntry (s : State) (e : EntryIx) (c : Option EntryConfig) : Entry :=
  let r := s.entry e
  match sourceOf r.config, sourceOf c with
  | _, none => { config := none, stuck := false, asserted := false }
  | some .line, some .line => { r with config := c }
  | _, some .line => { r with config := c, asserted := s.lineAsserted e }
  | some .line, some .command => { r with config := c, asserted := false }
  | _, some .command => { r with config := c }

/-- Check 5 of R85 on the entry as it would result, and its acceptance. -/
def State.placeEntry (s : State) (e : EntryIx) (f : EntryFields) : State :=
  match f.check e with
  | none => s.refuse .range
  | some c => (s.setEntry e (s.storedEntry e c)).accept .empty

/-- WRITE_RECORD of a preemption entry (R85). -/
def execWriteRecordPreemptEntry (entry : Nat) (f : EntryFields) (s : State) :
    Host.Outcome State Fault Refusal :=
  .next (s.taken fun t =>
    if t.locked then t.refuse .locked
    else
      match indexOf 8 entry with
      | none => t.refuse .range
      | some e => if t.entryBusy e then t.refuse .busy else t.placeEntry e f)

/-- UPDATE_FIELDS of a preemption entry (R85). -/
def execUpdateFieldsPreemptEntry (entry : Nat) (u : EntryChanges) (s : State) :
    Host.Outcome State Fault Refusal :=
  .next (s.taken fun t =>
    if t.locked then t.refuse .locked
    else
      match indexOf 8 entry with
      | none => t.refuse .range
      | some e =>
        match (t.entry e).config with
        | none => t.refuse .absent
        | some c =>
          if t.entryBusy e then t.refuse .busy
          else
            match u.apply c.toFields with
            | none => t.refuse .range
            | some f => t.placeEntry e f)

/-- RETIRE_RECORD of a preemption entry (R85). -/
def execRetireRecordPreemptEntry (entry : Nat) (s : State) : Host.Outcome State Fault Refusal :=
  .next (s.taken fun t =>
    if t.locked then t.refuse .locked
    else
      match indexOf 8 entry with
      | none => t.refuse .range
      | some e =>
        if (t.entry e).config.isNone then t.refuse .absent
        else if t.entryBusy e then t.refuse .busy
        else (t.setEntry e { config := none, stuck := false, asserted := false }).accept .empty)

/-- An entry of a context in the chain or of a pending element would lie beyond a length (R85). -/
def State.lengthBusy (s : State) (length : Nat) : Bool :=
  (List.finRange 8).any fun e => decide (length < number e) && s.entryBusy e

/-- WRITE_RECORD of the table length (R85). -/
def execWriteRecordPreemptTable (length : Nat) (s : State) : Host.Outcome State Fault Refusal :=
  .next (s.taken fun t =>
    if t.locked then t.refuse .locked
    else if 8 < length then t.refuse .range
    else if t.lengthBusy length then t.refuse .busy
    else (t.setPre { t.pre with length := length }).accept .empty)

end Sys2Proof.Machine
end

