-- ==== Sys2Proof/Machine/Reading.lean ====
section
/-! DEFINITION. Reading: READ_RECORD (R178) with the views of each record kind (R5, R9, R27, R43, R86,
R109, R117, R164, R172). -/

namespace Sys2Proof.Machine

/-- The time since an instant in 0.1 s units, saturating at 255 (R5, R117). R5 states the rounding down; that the
time since a calibration's end is rounded down too is the model's choice (log entry 39). -/
def State.since (s : State) (t : Instant) : Nat := min 255 ((s.now - t) / 100)

def State.viewGroup (s : State) (v : ReadView) (g : GroupIx) : RecordView :=
  let r := s.group g
  .group r.config.isSome r.aspect (s.since r.greenOff) (if v = .full then r.config else none)

def State.viewCircuit (s : State) (v : ReadView) (c : CircuitIx) : RecordView :=
  let k := s.circuit c
  match v with
  | .summary => .circuitSummary (s.assignment c) k.lamp.state k.lamp.lit k.lamp.cause k.cable.state
  | .full =>
    .circuitFull (number c) (s.assignment c) k.technology k.heads k.residual k.lamp k.cable.baseline
      k.cable.lastVoltage k.cable.lastLeakage k.cable.lastCharge k.cable.state k.cable.count
      k.cable.acknowledged k.cable.learning (s.now - k.cable.lastCheck)

/-- A conflict row: the flag for each number, and in a FULL read both intergreens (R27). -/
def State.viewConflict (s : State) (v : ReadView) (l : GroupIx) : RecordView :=
  let row := (List.finRange 16).map fun g =>
    match s.intergreen l g, s.intergreen g l with
    | some a, some b => some (a, b)
    | _, _ => none
  .conflictRow ((List.finRange 16).map fun g => s.conflicting l g) (if v = .full then some row else none)

/-- The stage count of a plan record. -/
def Plan.stageCount : Plan → Nat
  | .free => 0
  | .draft b => b.count
  | .valid _ b _ => b.count

/-- The stretched flag and Ceff of a BASE plan holding derived fields. -/
def Plan.cycle : Plan → Option (Bool × Nat)
  | .valid _ _ d => d.base.map fun x => (x.stretched, x.ceff)
  | _ => none

/-- The plan's state: absent is FREE, present without a phase is DRAFT. -/
def Plan.shownPhase : Plan → Option (Option PlanPhase)
  | .free => none
  | .draft _ => some none
  | .valid ph _ _ => some (some ph)

def State.viewPlan (s : State) (v : ReadView) (p : PlanIx) : RecordView :=
  match v with
  | .summary => .planSummary (s.plan p).shownPhase (s.plan p).cls (s.plan p).stageCount (s.plan p).cycle
  | .full => .planFull (s.plan p)

def State.viewEntry (s : State) (v : ReadView) (e : EntryIx) : RecordView :=
  let r := s.entry e
  .entry r.config.isSome r.stuck r.asserted (if v = .full then r.config else none)

def State.viewTable (s : State) : RecordView :=
  .preemptTable s.pre.length s.pre.lastRefusal s.pre.waiting

def State.viewSchedule (s : State) (v : ReadView) : RecordView :=
  .schedule s.sched.points.length s.sched.current s.sched.hold s.sched.owed
    (if v = .full then some s.sched.points else none)

/-- The circuit and kind of the measurement in flight. -/
def InFlight.view (w : InFlight) : MeasuringView :=
  { circuit := w.circuit,
    isLit := match w.kind with
      | .lit _ => true
      | .dark _ _ => false }

def State.viewRecord (s : State) (r : CalRecord) : CalRecordView :=
  { kind := r.kind, pass := r.pass, offset := r.offset, gain := r.gain, since := s.since r.ended }

/-- What a FULL read of the channel adds (R117). -/
def State.channelDetail (s : State) : ChannelDetail :=
  { offset := s.channel.offset, gain := s.channel.gain,
    untilShortDue := s.channel.shortDue.map fun d => tenths (d - s.now),
    failFlag := s.channel.failFlag, owed := s.channel.owed,
    lastRecord := s.channel.lastRecord.map s.viewRecord }

def State.viewChannel (s : State) (v : ReadView) : RecordView :=
  .channel s.channel.state (s.channel.inFlight.map (·.view))
    (if v = .full then some s.channelDetail else none)

def State.viewJunction (s : State) : RecordView :=
  .junction s.junction.mode s.junction.startFlash s.junction.startRed s.junction.allRed

/-- The record a read names; absent when the kind or the index is refused RANGE. The kinds without an
index carry index 0 (log entry 14). -/
def State.view (s : State) (kind index : Nat) (v : ReadView) : Option RecordView :=
  match kind with
  | 1 => (indexOf 16 index).map (s.viewGroup v)
  | 2 => (indexOf 48 index).map (s.viewCircuit v)
  | 3 => (indexOf 16 index).map (s.viewConflict v)
  | 4 => (indexOf 16 index).map (s.viewPlan v)
  | 5 => (indexOf 8 index).map (s.viewEntry v)
  | 6 => if index = 0 then some s.viewTable else none
  | 7 => if index = 0 then some (s.viewSchedule v) else none
  | 8 => if index = 0 then some (s.viewChannel v) else none
  | 9 => if index = 0 then some s.viewJunction else none
  | 10 => if index = 0 then some (.lockout s.junction.lockout) else none
  | _ => none

/-! ## The bytes of a record (R175, R178) -/

/-- A number in a width in bytes, the most significant byte first (R175). -/
def fieldBytes (width value : Nat) : List Byte :=
  (List.range width).map fun k => byte (value / 256 ^ (width - 1 - k))

/-- A number in a width in bytes, in one of the codes that write a negative one. -/
def SignForm.code (form : SignForm) (width : Nat) (v : Int) : Nat :=
  match form with
  | .twosComplement => (v % (256 : Int) ^ width).toNat
  | .onesComplement => if 0 ≤ v then v.toNat else 256 ^ width - 1 - v.natAbs
  | .signMagnitude => if 0 ≤ v then v.toNat else 256 ^ width / 2 + v.natAbs
  | .excess => (v + (256 : Int) ^ width / 2).toNat

/-- The fewest bytes that a wide number's range takes. -/
def WideNumber.least : WideNumber → Nat
  | .plain n _ => n
  | .signed n _ => n

/-- What a wide number is written as in a width: itself, or in the code of a number that may be negative (log entry
50). -/
def WideNumber.code (width : Nat) : WideNumber → Nat
  | .plain _ n => n
  | .signed _ v => Config.signForm.code width v

/-- The largest of what a width must have room for: the number, or twice the magnitude of one with a sign. -/
def WideNumber.extent : WideNumber → Nat
  | .plain _ n => n
  | .signed _ v => 2 * v.natAbs

/-- The bytes of a wide number in a width, the most significant first (R175). -/
def WideNumber.bytes (width : Nat) (x : WideNumber) : List Byte := fieldBytes width (x.code width)

/-- The width of the wide number at a place: what its range needs and what the form adds, and never too few for it. -/
def PayloadForm.width (f : PayloadForm) (x : WideNumber × Nat) : Nat :=
  max (x.1.least + f.spare x.2) (Nat.log 256 x.1.extent + 1)

/-- The wide numbers, each with its place among them, in the order of their ranks. -/
def PayloadForm.ordered (f : PayloadForm) (l : List WideNumber) : List (WideNumber × Nat) :=
  l.zipIdx.insertionSort fun x y => f.rank x.2 ≤ f.rank y.2

/-- A payload with the wide numbers given: every multi-byte number with its most significant byte first (R175), and
the rest as the form says. -/
def PayloadForm.layOut (f : PayloadForm) (l : List WideNumber) : List Byte :=
  f.lead ++ (f.ordered l).flatMap fun x => x.1.bytes (f.width x) ++ f.behind x.2

/-- Numbers whose ranges take two bytes. -/
def twoByte (l : List Nat) : List WideNumber := l.map (.plain 2)

def PlanBody.wideNumbers (b : PlanBody) : List WideNumber :=
  twoByte (b.stages.map (·.split) ++
    match b.fields with
    | .base cycle offset _ => [cycle, offset]
    | .preempt lo hi => [lo, hi])

def Derived.wideNumbers (d : Derived) : List WideNumber :=
  twoByte (d.effective ++ d.demand :: d.base.elim [] fun b => [b.ceff, b.slackSplit, b.slackFloor])

def Plan.wideNumbers : Plan → List WideNumber
  | .free => []
  | .draft b => b.wideNumbers
  | .valid _ b d => b.wideNumbers ++ d.wideNumbers

def Training.wideNumbers (t : Training) : List WideNumber := twoByte (t.min.toList ++ t.max.toList ++ [t.sum])

def LampPart.wideNumbers (p : LampPart) : List WideNumber :=
  twoByte (p.fullRef.toList ++ p.dimRef.toList ++ [p.lastCurrent]) ++ p.training.elim [] Training.wideNumbers

/-- The measured values of a calibration record (R126): the offset, a mean of readings of -512 to 4095 (section 7.2),
and the gain, where present, up to 4096000 for h of 1 (log entry 50). -/
def CalRecordView.wideNumbers (r : CalRecordView) : List WideNumber :=
  .signed 2 r.offset :: r.gain.elim [] fun g => [.plain 3 g.toNat]

/-- The numbers of a channel read (R117): the gain, the time until the short calibration, and the last calibration
record's. The offset held, of -64 to 64, takes one byte. -/
def ChannelDetail.wideNumbers (d : ChannelDetail) : List WideNumber :=
  twoByte (d.gain.toNat :: d.untilShortDue.toList) ++ d.lastRecord.elim [] CalRecordView.wideNumbers

/-- The numbers of a record read whose ranges take more than one byte. The time since the last voltage check has
no stated unit and so none (log entry 29). -/
def RecordView.wideNumbers : RecordView → List WideNumber
  | .group _ _ _ config => twoByte (config.elim [] fun k => [k.minGreen])
  | .circuitSummary .. => []
  | .circuitFull _ _ _ _ _ lamp _ _ _ _ _ _ _ learning _ =>
    lamp.wideNumbers ++ twoByte (learning.elim [] fun l => [l.leakageSum, l.chargeSum])
  | .conflictRow .. => []
  | .planSummary _ _ _ cycle => twoByte (cycle.elim [] fun x => [x.2])
  | .planFull plan => plan.wideNumbers
  | .entry .. => []
  | .preemptTable .. => []
  | .schedule _ current _ _ points => twoByte (current.toList ++ points.elim [] (List.map SwitchPoint.time))
  | .channel _ _ detail => detail.elim [] ChannelDetail.wideNumbers
  | .junction _ startFlash _ _ => twoByte [startFlash]
  | .lockout record => record.elim [] fun r => r.time.elim [] fun n => [.plain 3 n]

/-- The bytes of a record read. -/
def RecordView.toBytes (v : RecordView) : List Byte := (Config.recordForm v).layOut v.wideNumbers

/-- The number of parts of a reply of `n` bytes (R178). -/
def partsOf (n : Nat) : Nat := if n ≤ 60 then 1 else (n + 55) / 56

/-- The slice of a record that a part carries (R178). -/
def partOf (bytes : List Byte) (part : Nat) : List Byte :=
  if bytes.length ≤ 60 then bytes else (bytes.drop (56 * part)).take 56

/-- A part of a record read, or RANGE for a part that does not exist (R178). -/
def State.readPart (s : State) (view : RecordView) (part : Nat) : State :=
  let bytes := view.toBytes
  if part < partsOf bytes.length then
    s.accept (.record view part (partsOf bytes.length) (partOf bytes part))
  else s.refuse .range

/-- READ_RECORD (R178); a view that is neither FULL nor SUMMARY is refused RANGE (log entry 43). -/
def execReadRecord (kind index : Nat) (v : Arg ReadView) (part : Nat) (s : State) :
    Host.Outcome State Fault Refusal :=
  .next (s.taken fun t =>
    match v with
    | .other => t.refuse .range
    | .named v =>
      match t.view kind index v with
      | none => t.refuse .range
      | some view => t.readPart view part)

end Sys2Proof.Machine
end

