-- ==== Sys2Proof/Machine/Link.lean ====
section
/-! DEFINITION. Link: the link-class commands, the requests the port refuses by itself, and the end of a
transaction (R175 to R182). -/

namespace Sys2Proof

/-- The opcode of each command (R179, section 11.3). The rows of one opcode differ in what the payload names;
the two rows of a write that no kind allows carry their operation's opcode. An event, a reset and a request
refused by the port have none. -/
def Instr.opcode : Instr → Option Nat
  | .readRecord .. => some 0x10
  | .writeRecordGroup .. => some 0x11
  | .writeRecordCircuit .. => some 0x11
  | .writeRecordConflict .. => some 0x11
  | .writeRecordPlan .. => some 0x11
  | .writeRecordPreemptEntry .. => some 0x11
  | .writeRecordPreemptTable .. => some 0x11
  | .writeRecordJunction .. => some 0x11
  | .updateFieldsGroup .. => some 0x12
  | .updateFieldsCircuit .. => some 0x12
  | .updateFieldsConflict .. => some 0x12
  | .updateFieldsPlan .. => some 0x12
  | .updateFieldsPreemptEntry .. => some 0x12
  | .updateFieldsJunction .. => some 0x12
  | .retireRecordGroup .. => some 0x13
  | .retireRecordPlan .. => some 0x13
  | .retireRecordPreemptEntry .. => some 0x13
  | .recordWriteUnsupported .write _ => some 0x11
  | .recordWriteUnsupported .update _ => some 0x12
  | .recordWriteUnsupported .retire _ => some 0x13
  | .forgetCircuit .. => some 0x14
  | .insertSwitchpoint .. => some 0x15
  | .deleteSwitchpoint .. => some 0x16
  | .validatePlan .. => some 0x17
  | .learnLamp .. => some 0x20
  | .learnLampAll .. => some 0x20
  | .learnCable .. => some 0x21
  | .learnCableAll => some 0x21
  | .ackCable .. => some 0x22
  | .ackCableAll => some 0x22
  | .recalibrate => some 0x23
  | .dimOn => some 0x24
  | .dimOff => some 0x24
  | .readStatus => some 0x30
  | .readAttention => some 0x31
  | .setAttentionMask .. => some 0x32
  | .lock .. => some 0x33
  | .start => some 0x40
  | .flash => some 0x41
  | .dark => some 0x42
  | .lockout => some 0x43
  | .clearLockout => some 0x44
  | .softReset => some 0x45
  | .selectPlan .. => some 0x46
  | .releaseToSchedule => some 0x47
  | .setModeFree => some 0x48
  | .setModeSynced => some 0x48
  | .setModeStepped => some 0x48
  | .advance => some 0x49
  | .preemptAssert .. => some 0x4A
  | .preemptRelease .. => some 0x4A
  | .setClock .. => some 0x50
  | .requestRefused .. => none
  | .chipSelectReleased => none
  | .powerOnReset => none
  | .resetNAsserted => none
  | .lineReset => none
  | .syncPulse => none
  | .advanceLineActive => none
  | .prqLineChange .. => none
  | .prqAsserted .. => none
  | .prqReleased .. => none
  | .redAmberBegin .. => none
  | .greenStart .. => none
  | .amberEnd .. => none
  | .flashHalf => none
  | .stageEnd => none
  | .latchTaken => none
  | .clearanceLose => none
  | .truncationLose => none
  | .dwellEnd => none
  | .maxDwell => none
  | .syncWatchExpiry => none
  | .clockSecond => none
  | .startFlashEnd => none
  | .startRedEnd => none
  | .allRedEnd => none
  | .litWindowEnd .. => none
  | .darkWindowEnd .. => none
  | .longCalibrationEnd .. => none
  | .shortCalibrationAttemptEnd .. => none
  | .shortCalibrationDue => none
  | .provingRequestDue .. => none
  | .provingRequestDrop .. => none
  | .settlingEnd => none
  | .watchCheckDue .. => none
  | .monitorLate .. => none
  | .watchAgeLimit .. => none
  | .roundEligible .. => none

/-! ## The wide numbers of a command (R175) -/

open Machine (WideNumber twoByte)

/-- The value an update names for a field. -/
def Change.named {α : Type} : Change α → Option α
  | .keep => none
  | .absent => none
  | .to a => some a

def PlanFields.wideNumbers (f : PlanFields) : List WideNumber :=
  twoByte ((f.stages.getD []).map StageFields.split ++ f.cycle.toList ++ f.offset.toList ++ f.minDwell.toList
    ++ f.maxDwell.toList)

def PlanChanges.wideNumbers (u : PlanChanges) : List WideNumber :=
  twoByte ((u.stages.named.getD []).map StageFields.split ++ u.edits.filterMap (fun e => e.split.named)
    ++ u.cycle.named.toList ++ u.offset.named.toList ++ u.minDwell.named.toList ++ u.maxDwell.named.toList)

/-- The numbers a command carries whose stated ranges take more than one byte: min greens, splits, cycle times,
offsets, dwells, start flash times, the times of switch points, the clock, and the attention mask. -/
def Instr.wideNumbers : Instr → List WideNumber
  | .writeRecordGroup _ f => twoByte f.minGreen.toList
  | .updateFieldsGroup _ u => twoByte u.minGreen.named.toList
  | .writeRecordPlan _ f => f.wideNumbers
  | .updateFieldsPlan _ u => u.wideNumbers
  | .writeRecordJunction startFlash _ _ _ => twoByte [startFlash]
  | .updateFieldsJunction startFlash _ _ _ => twoByte startFlash.named.toList
  | .insertSwitchpoint time _ _ => twoByte [time]
  | .deleteSwitchpoint time => twoByte [time]
  | .setAttentionMask mask => [.plain 3 mask.toNat]
  | .setClock seconds => [.plain 3 seconds]
  | _ => []

end Sys2Proof

namespace Sys2Proof.Machine

/-- READ_STATUS (R180). -/
def execReadStatus (s : State) : Host.Outcome State Fault Refusal :=
  .next (s.taken fun t => t.accept (.bytes t.statusBytes))

/-- READ_ATTENTION (R181): the reply gives the set as it stands, and the set becomes empty. -/
def execReadAttention (s : State) : Host.Outcome State Fault Refusal :=
  .next (s.taken fun t =>
    (t.setLink { t.link with attention := 0 }).accept (.bytes (attentionBytes t.link.attention)))

/-- SET_ATTENTION_MASK (R182): bits 18 to 23 are ignored. -/
def execSetAttentionMask (mask : BitVec 24) (s : State) : Host.Outcome State Fault Refusal :=
  .next (s.taken fun t => (t.setLink { t.link with mask := mask.setWidth 18 }).accept .empty)

/-- LOCK (R179). -/
def execLock (level : Arg LockLevel) (s : State) : Host.Outcome State Fault Refusal :=
  .next (s.taken fun t =>
    match level with
    | .other => t.refuse .range
    | .named l => (t.setLink { t.link with lock := l }).accept .empty)

/-! ## The CRC (R175) -/

/-- One bit of the CRC's shift, of polynomial 1021 hex. -/
def crcBit (r : BitVec 16) : BitVec 16 := if r.msb then (r <<< 1) ^^^ 0x1021 else r <<< 1

/-- The CRC after one more byte, its most significant bit first. -/
def crcByte (r : BitVec 16) (b : Byte) : BitVec 16 :=
  crcBit (crcBit (crcBit (crcBit (crcBit (crcBit (crcBit (crcBit (r ^^^ (b.setWidth 16 <<< 8)))))))))

/-- The CRC of a frame, from FFFF hex (R175). -/
def crc (bytes : List Byte) : BitVec 16 := bytes.foldl crcByte 0xFFFF

/-! ## The reply's frame (R175, R177, R178) -/

/-- The details of a failed check, in the order R51 to R53 name them. -/
def ValidationFailure.details : ValidationFailure → List Detail
  | .vStages m => [.number 1 m]
  | .vGroup i g => [.number 1 i, .number 1 g]
  | .vConflict i l g => [.number 1 i, .number 1 l, .number 1 g]
  | .vSlack k m => [.number 1 k, .number 1 m]
  | .vRange dwell => [.named (.range dwell)]

/-- What the reply of a pass carries, in the order R50 names it: the class and D, and for a BASE plan Ceff and the
stretched flag. D and Ceff go up to 10800 (R58). -/
def passDetails (cls : PlanClass) (demand : Nat) (cycle : Option (Nat × Bool)) : List Detail :=
  [.named (.cls cls), .number 2 demand] ++
    match cycle with
    | some (ceff, stretched) => [.number 2 ceff, .named (.stretched stretched)]
    | none => []

/-- The bytes of a payload's detail at a place. R175 gives a number its byte order, and no rule its width: that is the
fewest bytes of its range or up to two more, which of them being free (log entry 49). -/
def Payload.detailBytes (p : Payload) (place : Nat) (d : Detail) : List Byte :=
  match d with
  | .number width value => fieldBytes (width + Config.detailSpare p place % 3) value
  | .named x => [Config.detailCode x]

/-- A payload's details one after another. -/
def Payload.layOut (p : Payload) (l : List Detail) : List Byte :=
  l.zipIdx.flatMap fun x => p.detailBytes x.2 x.1

/-- The payload's bytes: an outcome word or a count is the first byte (R177), TAKEN carries the circuit, INVALID its
sub-code and details, PREEMPT its P_ code and entry, and a part of a record cut into several begins with
its number and their count (R178). DESIGN CHOICE: R177 and R178 give no width for the circuit, the sub-code, the P_
code, the entry number, the part number and the number of parts; the model sends one byte for each (log entry 49). -/
def Payload.toBytes (p : Payload) : List Byte :=
  match p with
  | .empty => []
  | .word n => [byte n]
  | .bytes l => l
  | .taken c => [byte (number c)]
  | .invalid x => byte x.code :: p.layOut x.details
  | .preempt code e => [byte code.code, byte e]
  | .validated cls demand cycle => p.layOut (passDetails cls demand cycle)
  | .record _ part parts slice => if parts ≤ 1 then slice else byte part :: byte parts :: slice

/-- A frame closed by its CRC, high byte first. -/
def closeFrame (body : List Byte) : List Byte :=
  body ++ [(crc body >>> 8).setWidth 8, (crc body).setWidth 8]

/-- A reply as it is sent: the status code, the payload's length, the payload and the CRC. -/
def Reply.frame (r : Reply) : List Byte :=
  closeFrame (byte r.status.code :: byte r.payload.toBytes.length :: r.payload.toBytes)

/-! ## The port's own checks (R175, R176) -/

/-- The frame's two bytes at its CRC position. -/
def crcAt (frame : List Byte) (n : Nat) : BitVec 16 :=
  match frame.drop n with
  | hi :: lo :: _ => (hi.setWidth 16 <<< 8) ||| lo.setWidth 16
  | _ => 0

/-- The opcodes the table of section 11.3 holds. -/
def opcodes : List Nat :=
  [0x10, 0x11, 0x12, 0x13, 0x14, 0x15, 0x16, 0x17, 0x20, 0x21, 0x22, 0x23, 0x24, 0x30, 0x31, 0x32, 0x33,
   0x40, 0x41, 0x42, 0x43, 0x44, 0x45, 0x46, 0x47, 0x48, 0x49, 0x4A, 0x50]

/-- The commands that carry no argument. -/
def bareCommands : List Instr :=
  [.recalibrate, .readStatus, .readAttention, .start, .flash, .dark, .lockout, .clearLockout, .softReset,
   .releaseToSchedule, .advance]

/-- The command without an argument that an opcode names, if it names one. -/
def bareCommand (opcode : Nat) : Option Instr := bareCommands.find? fun i => i.opcode == some opcode

/-- The payload's length fits the form of the command: none for a command without an argument, three
bytes for the attention mask, and open for the others (log entry 12). -/
def formFits (opcode : Nat) (payload : List Byte) : Bool :=
  if (bareCommand opcode).isSome then payload.isEmpty
  else if opcode = 0x32 then payload.length == 3
  else Config.payloadFits opcode payload

/-- The first check of R176 that a request fails. A request shorter than its length byte says is not
complete and is never judged (R175). -/
def requestFailure (opcode length : Nat) (frame : List Byte) : Option Status :=
  let payload := (frame.drop 2).take length
  if 60 < length then some .frame
  else if crc (frame.take (length + 2)) ≠ crcAt frame (length + 2) then some .crc
  else if !opcodes.contains opcode then some .unknown
  else if !formFits opcode payload then some .frame
  else none

/-- The attention mask of SET_ATTENTION_MASK, its first byte the most significant (R175, section 11.4). -/
def maskOf (payload : List Byte) : BitVec 24 :=
  BitVec.ofNat 24 (payload.foldl (fun (n : Nat) (b : Byte) => 256 * n + b.toNat) 0)

/-- A payload carries a command's wide numbers: each stands where the form says, with its most significant byte first
(R175). -/
def carries (payload : List Byte) (i : Instr) : Bool :=
  (Config.argumentForm i payload).layOut i.wideNumbers == payload

/-- The command that an opcode and a payload of its form carry (R179). What the payload of a command with
arguments says is open, but that it is a command of the opcode and that the payload carries its wide numbers (log
entry 12). -/
def payloadCommand (opcode : Nat) (payload : List Byte) : Option Instr :=
  match bareCommand opcode with
  | some i => some i
  | none =>
    if opcode = 0x32 then some (.setAttentionMask (maskOf payload))
    else (Config.payloadCommand opcode payload).filter fun i => i.opcode == some opcode && carries payload i

/-- The bytes of a whole request have all been clocked in: up to its second CRC byte, or to a length byte above
60, at which it is taken to end (R175, R176). -/
def complete (length : Nat) (frame : List Byte) : Bool := decide (60 < length ∨ length + 4 ≤ frame.length)

/-- The command of a frame that passes the port's checks: the row of the table that stands for it (R175, R176,
R179). -/
def commandOf (frame : List Byte) : Option Instr :=
  match frame with
  | op :: len :: _ =>
    if complete len.toNat frame && (requestFailure op.toNat len.toNat frame).isNone then
      payloadCommand op.toNat ((frame.drop 2).take len.toNat)
    else none
  | _ => none

/-- The commands whose argument no row of the table holds when it is not a named one: DIM, SET_MODE and
PREEMPT (R20, R69, R89). -/
def namedArgumentOpcodes : List Nat := [0x24, 0x48, 0x4A]

/-- A request that has begun and not ended: the transaction is on, and its command is not taken (R175; log entry
13). -/
def State.receive (s : State) : State := s.setLink { s.link with transaction := .receiving }

/-- The answer to a request the port refuses by itself (R176), or to a DIM, SET_MODE or PREEMPT whose
argument is none of the named ones (log entry 12). A frame that passes is the command `commandOf` gives, which
stands in the queue as its own row and not as this one; an incomplete one is a request that has begun (R175). -/
def State.refuseRequest (s : State) (frame : List Byte) : State :=
  match frame with
  | op :: len :: _ =>
    if complete len.toNat frame then
      match requestFailure op.toNat len.toNat frame with
      | some st => s.refuse st
      | none =>
        if namedArgumentOpcodes.contains op.toNat && (commandOf frame).isNone then s.refuse .range else s
    else s.receive
  | _ => s.receive

/-- A request refused by the port (R176). -/
def execRequestRefused (frame : List Byte) (s : State) : Host.Outcome State Fault Refusal :=
  .next (s.taken fun t => t.refuseRequest frame)

/-- The release of the chip select ends the transaction: a request that has not ended is discarded with no effect and
no reply (R175). -/
def execChipSelectReleased (s : State) : Host.Outcome State Fault Refusal :=
  .next (s.setLink { s.link with transaction := .idle })

end Sys2Proof.Machine
end

