-- ==== Sys2Proof/Machine/Supervision.lean ====
section
/-! DEFINITION. Supervision: the supervision-class commands LEARN_LAMP, LEARN_CABLE, ACK_CABLE,
RECALIBRATE and DIM (R20, R130, R147, R160 to R162). -/

namespace Sys2Proof.Machine

/-! ## LEARN_LAMP (R147) -/

/-- A training sub-record at its creation. -/
def Training.begun (level : DimLevel) : Training :=
  { level := level, attempt := 1, samples := 0, min := none, max := none, sum := 0 }

/-- Training begun on a circuit. -/
def State.beginTraining (level : DimLevel) (s : State) (c : CircuitIx) : State :=
  s.setLamp c { (s.circuit c).lamp with training := some (Training.begun level) }

/-- The assigned circuits. -/
def State.assignedCircuits (s : State) : List CircuitIx := (List.finRange 48).filter s.assigned

/-- LEARN_LAMP of one circuit. -/
def execLearnLamp (circuit : Nat) (level : Arg DimLevel) (s : State) :
    Host.Outcome State Fault Refusal :=
  .next (s.taken fun t =>
    if t.locked then t.refuse .locked
    else
      match indexOf 48 circuit, level with
      | some c, .named l =>
        if t.assigned c then (t.beginTraining l c).accept (.word 1) else t.refuse .state
      | _, _ => t.refuse .range)

/-- LEARN_LAMP ALL. -/
def execLearnLampAll (level : Arg DimLevel) (s : State) : Host.Outcome State Fault Refusal :=
  .next (s.taken fun t =>
    if t.locked then t.refuse .locked
    else
      match level with
      | .other => t.refuse .range
      | .named l =>
        if t.assignedCircuits.isEmpty then t.refuse .state
        else
          (t.assignedCircuits.foldl (State.beginTraining l) t).accept
            (.word t.assignedCircuits.length))

/-! ## LEARN_CABLE (R162) -/

/-- A circuit on which cable learning may begin. -/
def State.learnable (s : State) (c : CircuitIx) : Bool :=
  s.assigned c && !(s.circuit c).cable.state.isAlarm

/-- Cable learning begun on a circuit. -/
def State.beginLearning (s : State) (c : CircuitIx) : State :=
  s.setCable c { (s.circuit c).cable with
    learning := some { samples := 0, leakageSum := 0, chargeSum := 0 } }

/-- LEARN_CABLE of one circuit. -/
def execLearnCable (circuit : Nat) (s : State) : Host.Outcome State Fault Refusal :=
  .next (s.taken fun t =>
    if t.locked then t.refuse .locked
    else
      match indexOf 48 circuit with
      | none => t.refuse .range
      | some c =>
        if t.learnable c then (t.beginLearning c).accept (.word 1) else t.refuse .state)

/-- The circuits LEARN_CABLE ALL begins learning on. -/
def State.learnableCircuits (s : State) : List CircuitIx := (List.finRange 48).filter s.learnable

/-- LEARN_CABLE ALL. -/
def execLearnCableAll (s : State) : Host.Outcome State Fault Refusal :=
  .next (s.taken fun t =>
    if t.locked then t.refuse .locked
    else if t.learnableCircuits.isEmpty then t.refuse .state
    else
      (t.learnableCircuits.foldl State.beginLearning t).accept (.word t.learnableCircuits.length))

/-! ## ACK_CABLE (R160, R161) -/

/-- The record leaves ALARM when its clear run stands at 3 and it is acknowledged (R160). -/
def CablePart.leavesAlarm (k : CablePart) : Bool :=
  k.state.isAlarm && k.acknowledged && k.count == 3

/-- The record out of ALARM (R160). -/
def CablePart.outOfAlarm (k : CablePart) : CablePart :=
  { k with
    state := if k.baseline.isSome then .normal else .noBaseline,
    acknowledged := false, count := 0, counted := none }

/-- A cable record set, leaving ALARM when both conditions stand, with its CABLE_ALARM (R160). -/
def State.setCableLeaving (s : State) (c : CircuitIx) (k : CablePart) : State :=
  if k.leavesAlarm then (s.setCable c k.outOfAlarm).raise .cableAlarm else s.setCable c k

/-- A circuit in ALARM acknowledged (R161). -/
def State.acknowledge (s : State) (c : CircuitIx) : State :=
  s.setCableLeaving c { (s.circuit c).cable with acknowledged := true }

/-- ACK_CABLE of one circuit. -/
def execAckCable (circuit : Nat) (s : State) : Host.Outcome State Fault Refusal :=
  .next (s.taken fun t =>
    match indexOf 48 circuit with
    | none => t.refuse .range
    | some c =>
      if (t.circuit c).cable.state.isAlarm then
        if (t.circuit c).cable.acknowledged then t.accept .empty
        else (t.acknowledge c).accept .empty
      else t.refuse .state)

/-- The circuits in ALARM whose flag is no. -/
def State.unacknowledged (s : State) : List CircuitIx :=
  (List.finRange 48).filter fun c =>
    (s.circuit c).cable.state.isAlarm && !(s.circuit c).cable.acknowledged

/-- ACK_CABLE ALL. -/
def execAckCableAll (s : State) : Host.Outcome State Fault Refusal :=
  .next (s.taken fun t =>
    (t.unacknowledged.foldl State.acknowledge t).accept (.word t.unacknowledged.length))

/-! ## RECALIBRATE (R130) and DIM (R20) -/

/-- RECALIBRATE; its words are STARTED 0, DEFERRED 1 and IN_PROGRESS 2. -/
def execRecalibrate (s : State) : Host.Outcome State Fault Refusal :=
  .next (s.taken fun t =>
    match t.channel.state with
    | .measuring => (t.setChannel { t.channel with owed := true }).accept (.word 1)
    | .calLong => t.accept (.word 2)
    | .ready => (t.setChannel (t.channel.beginLong t.now)).accept (.word 0)
    | .fault => (t.setChannel (t.channel.beginLong t.now)).accept (.word 0)
    | .calShort => (t.setChannel (t.channel.beginLong t.now)).accept (.word 0))

/-- A DIM command accepted: nothing when the state is already held (R20). -/
def State.dimCommand (s : State) (on : Bool) : State :=
  if s.output.dim = on then s.accept .empty else s.settle ((s.setDim on).accept .empty)

/-- DIM ON. -/
def execDimOn (s : State) : Host.Outcome State Fault Refusal := .next (s.taken fun t => t.dimCommand true)

/-- DIM OFF. -/
def execDimOff (s : State) : Host.Outcome State Fault Refusal :=
  .next (s.taken fun t => t.dimCommand false)

end Sys2Proof.Machine
end

