-- ==== Sys2Proof/Machine/Modes.lean ====
section
/-! DEFINITION. Modes: SET_MODE, ADVANCE, the SYNC pulse, SELECT_PLAN, RELEASE_TO_SCHEDULE, PREEMPT, the
clock and switch-point commands (R69 to R73, R77 to R80, R89, R106 to R109, R114). -/

namespace Sys2Proof.Machine

/-! ## SET_MODE (R69, R78) -/

def State.setMode (s : State) (m : Mode) : State := s.setJunction { s.junction with mode := m }

/-- The sequencer is running: neither IDLE nor in CLEARANCE. -/
def State.sequencing (s : State) : Bool := s.seq.state == .interstage || s.seq.state == .stage

/-- A context that is the base context, its cycle dropped (R69). That a slack green length saved in it is dropped
with p and E is the model's choice: a slack stage resumed after a change back runs by its effective split (R78;
log entry 46). -/
def Context.withoutCycle (c : Context) : Context :=
  if c.invoker.isNone then { c with position := none, excess := 0, slackLength := none } else c

/-- The change to STEPPED (R69): a base stage that runs keeps no green length, and the cycle saved in the
base context is dropped with the live one. The last accepted pulse goes with the watch (log entry 36), and the
slack green length held for a resumed slack stage with p and E (log entry 46). -/
def State.intoStepped (s : State) : State :=
  let preempted := s.topPreemption.isSome
  let t := s.setSeq { s.seq with
    remainder := none, excess := 0, position := none, lastPulse := none, watchStart := none,
    sync := .none, latch := false, slackLength := none,
    length := if preempted then s.seq.length else none,
    holdMinGreen := preempted && s.seq.holdMinGreen }
  t.setPre { t.pre with chain := t.pre.chain.map Context.withoutCycle }

/-- The sync watch and the correction dropped at a change to FREE (R69). -/
def State.outOfSync (s : State) : State :=
  s.setSeq { s.seq with remainder := none, lastPulse := none, watchStart := none, sync := .none }

/-- The sync watch begun at a change to SYNCED (R69). -/
def State.intoSync (s : State) : State :=
  s.setSeq { s.seq with
    remainder := none, lastPulse := none, watchStart := some s.now, sync := s.syncWithin }

/-- The cycle re-established at a change from STEPPED with the base context on top (R78). The min greens of the
gaining groups hold the stage only where its effective split has already passed. -/
def Sequencer.reestablish (q : Sequencer) (now : Instant) (b : PlanBody) (d : Derived) (x : BaseDerived) :
    Sequencer :=
  let i := q.stage.getD 1
  let start := d.nominalStart x b.slackIndex i
  let green := start + d.interstage i
  if q.state = .stage then
    { q with
      length := some (d.split i), holdMinGreen := decide (q.greenStart + ms (d.split i) < now),
      position := some { value := green, since := some q.greenStart,
                         limit := d.nominalStart x b.slackIndex (i + 1) } }
  else { q with position := some { value := start, since := some q.interStart, limit := green } }

/-- The change from STEPPED (R78). -/
def State.outOfStepped (s : State) : State :=
  let t := s.setSeq { s.seq with latch := false, excess := 0, remainder := none }
  if t.topPreemption.isSome then t
  else
    match t.baseData with
    | some (b, d, x) => t.setSeq (t.seq.reestablish t.now b d x)
    | none => t

/-- The stage that has run its effective split ends at once at the change, its min greens permitting (R78). -/
def State.endIfDue (s : State) : State := if s.stageEndDue then s.endStage else s

/-- The effects of a change of mode in RUNNING (R69, R78). -/
def State.modeEffect (s : State) (m : Mode) : State :=
  let t := s.setMode m
  match s.junction.mode, m with
  | _, .stepped => t.intoStepped
  | .stepped, .free => t.outOfSync.outOfStepped.endIfDue
  | .stepped, .synced => t.outOfStepped.intoSync.endIfDue
  | _, .free => t.outOfSync
  | _, .synced => t.intoSync

/-- A change to another mode (R69): in IDLE and CLEARANCE it sets the field and nothing else. -/
def State.changeMode (s : State) (m : Mode) : State :=
  if s.sequencing then s.modeEffect m else s.setMode m

/-- SET_MODE (R69): a mode already held has no effect. -/
def State.modeCommand (s : State) (m : Mode) : State :=
  if s.junction.mode = m then s.accept .empty else s.settle ((s.changeMode m).accept .empty)

/-- SET_MODE FREE. -/
def execSetModeFree (s : State) : Host.Outcome State Fault Refusal :=
  .next (s.taken fun t => t.modeCommand .free)

/-- SET_MODE SYNCED. -/
def execSetModeSynced (s : State) : Host.Outcome State Fault Refusal :=
  .next (s.taken fun t => t.modeCommand .synced)

/-- SET_MODE STEPPED. -/
def execSetModeStepped (s : State) : Host.Outcome State Fault Refusal :=
  .next (s.taken fun t => t.modeCommand .stepped)

/-! ## ADVANCE (R76, R77) -/

/-- How an advance is judged. -/
inductive Advance where
  | ends | latches | discarded | ignored
  deriving DecidableEq, Repr

/-- The judgement of an advance's arrival (R77). -/
def State.advanceJudged (s : State) : Advance :=
  if s.junction.mode = .stepped ∧ s.sequencing ∧ s.topPreemption.isNone then
    if s.seq.latch then .discarded
    else if s.seq.state = .stage ∧ s.expired s.seq.gaining then .ends
    else .latches
  else .ignored

/-- The advance latch set. -/
def State.setLatch (s : State) (b : Bool) : State := s.setSeq { s.seq with latch := b }

/-- ADVANCE (R77); its words are ADVANCED 0, LATCHED 1 and DISCARDED 2. -/
def execAdvance (s : State) : Host.Outcome State Fault Refusal :=
  .next (s.taken fun t =>
    match t.advanceJudged with
    | .ends => t.settle (t.endStage.accept (.word 0))
    | .latches => (t.setLatch true).accept (.word 1)
    | .discarded => t.accept (.word 2)
    | .ignored => t.refuse .state)

/-- The ADVANCE line goes active (R77). -/
def execAdvanceLineActive (s : State) : Host.Outcome State Fault Refusal :=
  .next (s.live fun t =>
    match t.advanceJudged with
    | .ends => t.settle t.endStage
    | .latches => t.setLatch true
    | .discarded => t
    | .ignored => t)

/-! ## The SYNC pulse (R70 to R73) -/

/-- The correction from a position (R71). -/
def correction (c o : Nat) (x : BaseDerived) (p : Nat) : Option Remainder :=
  let desired := (c - o) % c
  let e := (p + c - desired) % c
  if e ≤ 2 ∨ c - 2 ≤ e then none
  else if e ≤ c / 2 then some { direction := .lengthen, amount := e }
  else if shorteningCapacity c x = 0 then some { direction := .lengthen, amount := e }
  else some { direction := .shorten, amount := c - e }

/-- The pulse is noise: twice the time since the last accepted pulse is less than C (R70). -/
def State.pulseIsNoise (s : State) (c : Nat) : Bool :=
  s.seq.lastPulse.any fun t => decide (2 * (s.now - t) < ms c)

/-- The cycle position a correction is computed from; free where the position is absent (log entry 22). -/
def State.pulsePosition (s : State) (x : BaseDerived) : Nat := s.positionNow.getD (s.free % x.ceff)

/-- The remainder an accepted pulse leaves (R70, R71). -/
def State.pulseRemainder (s : State) (b : PlanBody) (x : BaseDerived) : Option Remainder :=
  if x.stretched || s.preempted then none
  else correction b.cycleTime b.offsetTime x (s.pulsePosition x)

/-- A pulse accepted (R70). -/
def State.acceptPulse (s : State) (b : PlanBody) (x : BaseDerived) : State :=
  let t := if s.positionNow.isSome || x.stretched || s.preempted then s else s.drawn
  let t := if s.seq.sync = .lost then t.raise .syncRegained else t
  t.setSeq { t.seq with
    lastPulse := some s.now, watchStart := some s.now, remainder := s.pulseRemainder b x,
    sync := s.syncWithin }

/-- The arrival of a pulse (R70). -/
def State.pulse (s : State) : State :=
  if s.junction.mode = .synced ∧ s.sequencing then
    match s.baseData with
    | none => s
    | some (b, _, x) => if s.pulseIsNoise b.cycleTime then s else s.acceptPulse b x
  else s

/-- The SYNC line goes active (R70). -/
def execSyncPulse (s : State) : Host.Outcome State Fault Refusal := .next (s.live State.pulse)

/-! ## SELECT_PLAN (R79, R80) and RELEASE_TO_SCHEDULE (R114) -/

/-- The hold flag set by an accepted SELECT_PLAN with HOLD; an owed selection is dropped (R113). -/
def State.holdFor (s : State) : HoldArg → State
  | .hold => s.setSched { s.sched with hold := true, owed := false }
  | .noHold => s

/-- SELECT_PLAN (R79). -/
def execSelectPlan (plan : Nat) (hold : Arg HoldArg) (s : State) : Host.Outcome State Fault Refusal :=
  .next (s.taken fun t =>
    match indexOf 16 plan, hold with
    | some p, .named h =>
      if t.selectBarred then t.refuse .state
      else if t.selectable p then ((t.selectPlan p).holdFor h).accept .empty
      else t.refuse .noPlan
    | _, _ => t.refuse .range)

/-- The reply word of a release: NONE 0, SELECTED 1, OWED 2, INVALID 3 (R114, R177). -/
def Selection.releaseWord : Selection → Nat
  | .held => 0
  | .selected => 1
  | .owed => 2
  | .planInvalid => 3

/-- RELEASE_TO_SCHEDULE (R114). -/
def execReleaseToSchedule (s : State) : Host.Outcome State Fault Refusal :=
  .next (s.taken fun t =>
    let u := t.setSched { t.sched with hold := false }
    match u.sched.current.bind u.pointAt with
    | none => u.accept (.word 0)
    | some x => (u.scheduleSelect x.plan).accept (.word (u.selection x.plan).releaseWord))

/-! ## PREEMPT (R89) -/

/-- The entry lies within the table length, is present and has source LINE. -/
def State.lineEntryInTable (s : State) (e : EntryIx) : Bool :=
  decide (number e ≤ s.pre.length) && (s.entry e).config.any fun c => c.source == .line

/-- The reply of a judged assertion (R91): ACCEPTED 0, PENDING 1, or PREEMPT with its code. -/
def Judgement.reply (e : EntryIx) : Judgement → Reply
  | .accepted => { status := .ok, payload := .word 0 }
  | .waits => { status := .ok, payload := .word 1 }
  | .refused code => { status := .preempt, payload := .preempt code (number e) }

/-- PREEMPT ASSERT of a COMMAND entry (R88, R89): an entry served already is answered SERVED 2; one whose
context runs although its request was released is asserted without judgement, and its reply's word is free
(log entry 32). -/
def State.preemptAssert (s : State) (e : EntryIx) : State :=
  if s.inChain e || s.isWaiting e then
    if (s.entry e).asserted then s.accept (.word 2)
    else ((s.setAsserted e true).drawn).accept (.word (s.free % 3))
  else
    let t := s.setAsserted e true
    s.settle ((t.judgeEntry e).answer ((t.judgement e).reply e))

/-- PREEMPT ASSERT (R89). -/
def execPreemptAssert (entry : Nat) (s : State) : Host.Outcome State Fault Refusal :=
  .next (s.taken fun t =>
    match indexOf 8 entry with
    | none => t.refuse .range
    | some e => if t.lineEntryInTable e then t.refuse .state else t.preemptAssert e)

/-- PREEMPT RELEASE of a COMMAND entry (R89). -/
def State.preemptRelease (s : State) (e : EntryIx) : State :=
  if s.pre.length < number e then
    s.answer { status := .preempt, payload := .preempt .range (number e) }
  else if (s.entry e).config.isNone then
    s.answer { status := .preempt, payload := .preempt .absent (number e) }
  else if (s.entry e).asserted then (s.releaseEntry e).accept .empty
  else s.accept .empty

/-- PREEMPT RELEASE (R89). -/
def execPreemptRelease (entry : Nat) (s : State) : Host.Outcome State Fault Refusal :=
  .next (s.taken fun t =>
    match indexOf 8 entry with
    | none => t.refuse .range
    | some e => if t.lineEntryInTable e then t.refuse .state else t.preemptRelease e)

/-! ## The clock and the switch points (R106, R108, R109) -/

/-- SET_CLOCK accepted (R106). -/
def State.clockSetTo (s : State) (seconds : Nat) : State :=
  (s.setSched { s.sched with clock := seconds, clockSet := true, nextSecond := s.now + 1000 }).judgeCurrent
    none

/-- SET_CLOCK (R106). -/
def execSetClock (seconds : Nat) (s : State) : Host.Outcome State Fault Refusal :=
  .next (s.taken fun t =>
    if t.locked then t.refuse .locked
    else if 86399 < seconds then t.refuse .range
    else t.settle ((t.clockSetTo seconds).accept .empty))

/-- A switch point from the arguments of an insert, absent when refused RANGE. -/
def switchPointOf (time plan : Nat) (dim : Arg DimAction) : Option SwitchPoint :=
  match indexOf 16 plan, dim with
  | some p, .named d => if time ≤ 1439 then some { time := time, plan := p, dim := d } else none
  | _, _ => none

/-- An insert accepted (R108, R110). -/
def State.insertSwitch (s : State) (x : SwitchPoint) : State :=
  let replaced := (s.pointAt x.time).map (·.time)
  (s.setSched { s.sched with points := insertPoint x s.sched.points }).judgeCurrent replaced

/-- INSERT_SWITCHPOINT (R108). -/
def execInsertSwitchpoint (time plan : Nat) (dim : Arg DimAction) (s : State) :
    Host.Outcome State Fault Refusal :=
  .next (s.taken fun t =>
    if t.locked then t.refuse .locked
    else
      match switchPointOf time plan dim with
      | none => t.refuse .range
      | some x =>
        if (t.pointAt time).isNone ∧ 24 ≤ t.sched.points.length then t.refuse .full
        else t.settle ((t.insertSwitch x).accept .empty))

/-- A delete accepted (R109, R110). -/
def State.deleteSwitch (s : State) (time : Nat) : State :=
  (s.setSched { s.sched with points := s.sched.points.filter fun x => x.time != time }).judgeCurrent none

/-- DELETE_SWITCHPOINT (R109). -/
def execDeleteSwitchpoint (time : Nat) (s : State) : Host.Outcome State Fault Refusal :=
  .next (s.taken fun t =>
    if t.locked then t.refuse .locked
    else if 1439 < time then t.refuse .range
    else if (t.pointAt time).isNone then t.refuse .absent
    else t.settle ((t.deleteSwitch time).accept .empty))

end Sys2Proof.Machine
end

