-- ==== Sys2Proof/Machine/Control.lean ====
section
/-! DEFINITION. Control: START, FLASH with its clearance, DARK, LOCKOUT, CLEAR_LOCKOUT and SOFT_RESET, and
the resets of the part (R1, R81, R103, R166, R169 to R173, R183). -/

namespace Sys2Proof.Machine

/-! ## START (R166) -/

/-- The current plan is held, READY and of class BASE. -/
def State.startablePlan (s : State) : Bool :=
  s.seq.current.any fun p => (s.plan p).phase == some .ready && (s.plan p).isBase

/-- The first check of R166 that fails. -/
def State.startFailure (s : State) : Option Status :=
  if (s.junction.state ≠ .dark ∧ s.junction.state ≠ .flash) ∨ s.presentGroups.isEmpty then some .state
  else if s.channel.state = .fault then some .monitorFault
  else if s.startablePlan then none
  else some .noPlan

/-- START accepted: from DARK to START_FLASH, from FLASH to START_RED. -/
def State.begin (s : State) : State :=
  if s.junction.state = .dark then s.enterStartFlash else s.enterStartRed

/-- START (R166). -/
def execStart (s : State) : Host.Outcome State Fault Refusal :=
  .next (s.taken fun t =>
    match t.startFailure with
    | some st => t.refuse st
    | none => t.settle (t.begin.accept .empty))

/-! ## FLASH and its clearance (R81, R103, R169) -/

/-- The flash clearance set. -/
def State.setClearance (s : State) (x : FlashClearance) : State :=
  s.setJunction { s.junction with clearance := some x }

/-- The clearance is complete when every present group is RED; the all-red then begins (R81, R169). -/
def State.clearanceCheck (s : State) : State :=
  if s.junction.clearance = some .awaitingRed
      ∧ s.presentGroups.all (fun g => (s.group g).aspect == .red) then
    s.setClearance (.allRed s.now)
  else s

/-- The groups whose green has not begun: an awaited green start or RED_AMBER. -/
def State.startingGroups (s : State) : List GroupIx :=
  (List.finRange 16).filter fun g =>
    (s.group g).awaited.isSome || (s.group g).aspect == .redAmber

/-- The sequencer's items in CLEARANCE: the correction, E, the latch and the watch cleared, stage timing and
p stopped (R81). The last accepted pulse goes with the watch (log entry 36). -/
def Sequencer.inClearance (q : Sequencer) (now : Instant) (loseAt : Option Instant) : Sequencer :=
  { q with
    state := .clearance, remainder := none, excess := 0, latch := false, lastPulse := none,
    watchStart := none, sync := .none, gaining := [], losing := [], loseAt := loseAt, length := none,
    holdMinGreen := false, resumed := none, slackLength := none, dwellOver := false, above := 0,
    position := q.position.map fun p => { value := p.reached now, since := none, limit := p.limit } }

/-- The greens ended: LOSE to every GREEN group. -/
def State.loseGreens (s : State) : State := s.each State.lose s.greenGroups

/-- FLASH taken in RUNNING (R81, R103). -/
def State.beginClearance (s : State) : State :=
  let t := s.removePreemptions.setGuard []
  let t := (t.each State.cancel t.startingGroups).dropPending
  let at? := latest t.now (t.expiries t.greenGroups)
  let t := t.setSeq (t.seq.inClearance t.now (if at? ≤ t.now then none else some at?))
  let t := t.setClearance .awaitingRed
  (if at? ≤ t.now then t.loseGreens else t).clearanceCheck

/-- FLASH (R169). -/
def execFlash (s : State) : Host.Outcome State Fault Refusal :=
  .next (s.taken fun t =>
    match t.junction.state with
    | .running =>
      if t.junction.clearance = none then t.settle (t.beginClearance.accept .empty) else t.accept .empty
    | .startRed =>
      if t.junction.clearance = none then
        (t.setClearance (.allRed t.now)).accept .empty
      else t.accept .empty
    | .flash => t.accept .empty
    | .dark => t.refuse .state
    | .startFlash => t.refuse .state
    | .lockout => t.refuse .state)

/-! ## DARK, LOCKOUT, CLEAR_LOCKOUT (R170, R171, R173) -/

/-- DARK (R170). -/
def execDark (s : State) : Host.Outcome State Fault Refusal :=
  .next (s.taken fun t =>
    match t.junction.state with
    | .lockout => t.refuse .state
    | .dark => t.accept .empty
    | .startFlash => t.settle ((t.leaveSupplied .dark).accept .empty)
    | .startRed => t.settle ((t.leaveSupplied .dark).accept .empty)
    | .running => t.settle ((t.leaveSupplied .dark).accept .empty)
    | .flash => t.settle ((t.leaveSupplied .dark).accept .empty))

/-- The cause FORCED. -/
def forcedCause : Cause := { cause := .forced, group := none, circuit := none }

/-- The LOCKOUT command's effect: in DARK it too takes the junction to LOCKOUT (R171, R172), and raises the
LOCKOUT kind (log entry 42). -/
def State.forceLockout (s : State) : State :=
  if s.junction.state = .dark then (s.recordLockout forcedCause).enterState .lockout
  else s.handCause forcedCause

/-- LOCKOUT (R171). -/
def execLockout (s : State) : Host.Outcome State Fault Refusal :=
  .next (s.taken fun t => t.settle (t.forceLockout.accept .empty))

/-- The lockout record's cleared flag set. -/
def LockoutRecord.asCleared (r : LockoutRecord) : LockoutRecord := { r with cleared := true }

/-- CLEAR_LOCKOUT (R173). -/
def execClearLockout (s : State) : Host.Outcome State Fault Refusal :=
  .next (s.taken fun t =>
    if t.junction.state = .lockout then
      ((t.setJunction { t.junction with
          lockout := t.junction.lockout.map LockoutRecord.asCleared }).enterState .dark).accept .empty
    else t.refuse .state)

/-! ## SOFT_RESET (R183) -/

/-- A plan at a soft reset (R49). -/
def Plan.atSoftReset : Plan → Plan
  | .free => .free
  | .draft b => .draft b
  | .valid _ b d => .valid .ready b d

/-- The lamp part at a soft reset (R9). -/
def LampPart.atSoftReset (l : LampPart) : LampPart :=
  { l with state := .unmeasured, pendingResult := none, agreement := 0, cause := none, training := none }

/-- A circuit at a soft reset (R9, R132, R151). -/
def Circuit.atSoftReset (k : Circuit) : Circuit :=
  { k with
    lamp := k.lamp.atSoftReset,
    schedule := { litSince := none, nextDue := none, presented := none },
    cable := { k.cable with watchPresented := false } }

/-- A preemption entry at a soft reset (R84): the request state of a LINE entry follows its line. An
entry that is not present is left RELEASED (log entry 37). -/
def State.entryAtSoftReset (s : State) (e : EntryIx) : Entry :=
  let r := s.entry e
  { r with stuck := false,
           asserted := r.config.any (fun c => c.source == .line) && s.lineAsserted e }

/-- The preemption unit at a soft reset (R84, R104). -/
def State.preAtSoftReset (s : State) : Preemption :=
  { s.pre with
    entries := Table.ofFn s.entryAtSoftReset, lastRefusal := none, chain := [], waiting := [] }

/-- The junction controller at a soft reset (R165). -/
def State.junctionAtSoftReset (s : State) : Junction :=
  { s.junction with
    state := .dark, entry := s.now, clearance := none, lockout := none, resetCause := .soft }

/-- The change to DARK of a soft reset: an all-off from a supplied state (R16, R165). -/
def State.darkened (s : State) : State := if s.output.safeEnable then s.allOff else s

/-- A group at a soft reset: DARK, awaiting no green start (R5, R15). -/
def Group.atSoftReset (r : Group) : Group := { r with aspect := .dark, awaited := none }

/-- Every block's values at a soft reset. -/
def State.softReset (s : State) : State :=
  let t := s.darkened
  { t with
    link := { t.link with attention := 0 }
    groups := t.groups.map Group.atSoftReset
    circuits := t.circuits.map Circuit.atSoftReset
    output := { t.output with flash := none }
    guard := []
    plans := t.plans.map Plan.atSoftReset
    seq := { Sequencer.atReset t.now with current := t.seq.current }
    pre := t.preAtSoftReset
    sched := { t.sched with owed := false }
    channel := t.channel.beginLong t.now
    sup := { settlingEnd := none, roundPointer := 0, roundOffer := none }
    junction := t.junctionAtSoftReset }

/-- SOFT_RESET (R183). -/
def execSoftReset (s : State) : Host.Outcome State Fault Refusal :=
  .next (s.taken fun t => t.softReset.accept .empty)

/-! ## Power-on and line reset (R1 and each block's reset rule) -/

/-- A PRQ line at a reset: its level is the line's own, and its interval counts from the reset (R87; log
entry 16). -/
def PrqLine.atReset (now : Instant) (l : PrqLine) : PrqLine :=
  { active := l.active, since := now, asserted := false }

/-- A transaction that a reset falls into is discarded (R175). -/
def Transaction.atReset : Transaction → Transaction
  | .idle => .idle
  | .receiving => .discarded
  | .replying _ => .discarded
  | .discarded => .discarded

/-- Every block at a power-on or line reset made now. -/
def State.afterReset (s : State) (cause : ResetCause) : State :=
  { State.reset with
    now := s.now
    draws := s.draws
    resetHeld := s.resetHeld
    link := { State.reset.link with transaction := s.link.transaction.atReset }
    groups := Table.replicate 16 (Group.atReset s.now)
    circuits := Table.replicate 48 (Circuit.atReset s.now)
    output := { State.reset.output with safeSince := s.now }
    seq := Sequencer.atReset s.now
    pre := { State.reset.pre with lines := s.pre.lines.map (PrqLine.atReset s.now) }
    sched := { State.reset.sched with nextSecond := s.now + 1000 }
    channel := Channel.atReset s.now
    junction := { State.reset.junction with entry := s.now, resetCause := cause }
    pending := s.pending }

/-- The supply rises. -/
def execPowerOnReset (s : State) : Host.Outcome State Fault Refusal := .next (s.afterReset .powerOn)

/-- RESET_N goes active (R1): the outputs are held inactive and nothing runs until it goes inactive. -/
def execResetNAsserted (s : State) : Host.Outcome State Fault Refusal :=
  .next { s with resetHeld := true }

/-- RESET_N goes inactive (R1; log entry 15). -/
def execLineReset (s : State) : Host.Outcome State Fault Refusal :=
  .next { s.afterReset .line with resetHeld := false }

end Sys2Proof.Machine
end

