-- ==== Sys2Proof/Machine/Events.lean ====
section
/-! DEFINITION. Events: the part's timed events and the line events. Each acts when its condition holds at
the instant it comes; one that comes when the condition does not hold has no effect (log entry 5). -/

namespace Sys2Proof.Machine

/-- An effect carried out when a condition holds, with the end of a step (log entries 5, 6). -/
def State.whenDue (s : State) (due : Bool) (f : State → State) : State :=
  if due then s.settle (f s) else s

/-! ## Line events (R87, R175) -/

/-- A change of a PRQ line restarts its qualification interval; the level is followed while RESET_N is held
too (R87; log entry 16). -/
def execPrqLineChange (line : Nat) (active : Bool) (s : State) : Host.Outcome State Fault Refusal :=
  .next (match indexOf 4 line with
    | none => s
    | some n =>
      if (s.pre.lines.get n).active = active then s
      else s.setLine n { s.pre.lines.get n with active := active, since := s.now })

/-- A PRQ line qualified ASSERTED asserts its LINE entry (R87, R88). -/
def State.qualifyAsserted (s : State) (n : LineIx) : State :=
  let t := s.setLine n { s.pre.lines.get n with asserted := true }
  if s.lineBound n then t.assertEntry (lineEntry n) else t

def execPrqAsserted (line : Nat) (s : State) : Host.Outcome State Fault Refusal :=
  .next (s.live fun t =>
    match indexOf 4 line with
    | none => t
    | some n => t.whenDue (t.prqAssertDue n) fun u => u.qualifyAsserted n)

/-- A PRQ line qualified RELEASED releases its LINE entry (R87, R88). -/
def State.qualifyReleased (s : State) (n : LineIx) : State :=
  let t := s.setLine n { s.pre.lines.get n with asserted := false }
  if s.lineBound n then t.releaseEntry (lineEntry n) else t

def execPrqReleased (line : Nat) (s : State) : Host.Outcome State Fault Refusal :=
  .next (s.live fun t =>
    match indexOf 4 line with
    | none => t
    | some n => if t.prqReleaseDue n then t.qualifyReleased n else t)

/-! ## Group events (R11, R12, R14) -/

/-- RED_AMBER begins (R11). -/
def execRedAmberBegin (group : Nat) (s : State) : Host.Outcome State Fault Refusal :=
  .next (s.live fun t =>
    match indexOf 16 group with
    | none => t
    | some g => t.whenDue (t.redAmberDue g) fun u => u.setAspect g .redAmber)

/-- A group's green starts: the awaited green start is gone, the sequencer records the instant and judges
its interstage (R11, R64). -/
def State.startGreen (s : State) (g : GroupIx) : State :=
  let t := (s.setGroup g { s.group g with awaited := none }).setAspect g .green
  (t.setSeq { t.seq with greenStarts := t.seq.greenStarts.set g (some t.now) }).judgeInterstage

def execGreenStart (group : Nat) (s : State) : Host.Outcome State Fault Refusal :=
  .next (s.live fun t =>
    match indexOf 16 group with
    | none => t
    | some g => t.whenDue (t.greenDue g) fun u => u.startGreen g)

/-- The amber time elapses: the group enters RED, which may complete a flash clearance (R12, R81). -/
def execAmberEnd (group : Nat) (s : State) : Host.Outcome State Fault Refusal :=
  .next (s.live fun t =>
    match indexOf 16 group with
    | none => t
    | some g => t.whenDue (t.amberDue g) fun u => (u.setAspect g .red).clearanceCheck)

/-- The next half of the flash timebase is due (R14). -/
def State.flashDue (s : State) : Bool := s.output.flash.any fun f => decide (f.next ≤ s.now)

/-- The drive orders of a group in FLASH_AMBER. -/
def State.orderFlash (s : State) (g : GroupIx) : State :=
  match (s.group g).config with
  | some k => if (s.group g).aspect = .flashAmber then s.orderDrives k .flashAmber else s
  | none => s

/-- The flash timebase changes half, and every flashing amber circuit with it (R14). -/
def State.changeHalf (s : State) : State :=
  match s.output.flash with
  | none => s
  | some f =>
    let t := s.setOutput { s.output with flash := some { on := !f.on, next := f.next + 500 } }
    t.each State.orderFlash t.presentGroups

def execFlashHalf (s : State) : Host.Outcome State Fault Refusal :=
  .next (s.live fun t => t.whenDue t.flashDue State.changeHalf)

/-! ## Sequencer events (R64, R77, R81, R95) -/

/-- The running stage's green time elapses (R64). -/
def execStageEnd (s : State) : Host.Outcome State Fault Refusal :=
  .next (s.live fun t => t.whenDue t.stageEndDue State.endStage)

/-- A set latch is taken at the latest min-green expiry of the stage (R77). -/
def State.latchDue (s : State) : Bool :=
  s.seq.latch && s.seq.state == .stage && s.junction.mode == .stepped && s.topPreemption.isNone
    && s.expired s.seq.gaining

def execLatchTaken (s : State) : Host.Outcome State Fault Refusal :=
  .next (s.live fun t => t.whenDue t.latchDue fun u => (u.setLatch false).endStage)

/-- A LOSE not yet given is due, in a sequencer state. -/
def State.loseDue (s : State) (q : SeqState) : Bool :=
  s.seq.state == q && s.seq.loseAt.any fun t => decide (t ≤ s.now)

/-- In CLEARANCE every green is ended (R81). -/
def State.loseInClearance (s : State) : State :=
  ((s.setSeq { s.seq with loseAt := none }).loseGreens).clearanceCheck

def execClearanceLose (s : State) : Host.Outcome State Fault Refusal :=
  .next (s.live fun t => t.whenDue (t.loseDue .clearance) State.loseInClearance)

/-- In a truncation or a return the losing groups are given LOSE (R95, R102). -/
def State.loseInTruncation (s : State) : State :=
  ((s.setSeq { s.seq with loseAt := none }).each State.lose s.seq.losing).judgeInterstage

def execTruncationLose (s : State) : Host.Outcome State Fault Refusal :=
  .next (s.live fun t => t.whenDue (t.loseDue .interstage) State.loseInTruncation)

/-! ## Preemption events (R97, R98) -/

def execDwellEnd (s : State) : Host.Outcome State Fault Refusal :=
  .next (s.live fun t => t.whenDue t.dwellEndDue State.endPreemption)

def execMaxDwell (s : State) : Host.Outcome State Fault Refusal :=
  .next (s.live fun t => t.whenDue t.maxDwellDue State.reachMaxDwell)

/-! ## Sync watch and clock (R75, R105) -/

/-- The time since the watch start has reached 2 × Ceff + 50 (R75). -/
def State.syncExpired (s : State) : Bool :=
  s.junction.mode == .synced && s.sequencing && s.seq.sync != .lost
    && match s.seq.watchStart, s.baseData with
       | some w, some (_, _, x) => decide (w + ms (2 * x.ceff + 50) ≤ s.now)
       | _, _ => false

/-- The sync watch expires (R75). -/
def State.loseSync (s : State) : State :=
  (s.setSeq { s.seq with sync := .lost, remainder := none }).raise .syncLost

def execSyncWatchExpiry (s : State) : Host.Outcome State Fault Refusal :=
  .next (s.live fun t => if t.syncExpired then t.loseSync else t)

/-- The clock advances by one second, and at a whole minute the schedule judges (R105, R110). -/
def State.tickSecond (s : State) : State :=
  (s.setSched { s.sched with
    clock := (s.sched.clock + 1) % 86400, nextSecond := s.sched.nextSecond + 1000 }).reachMinute

def execClockSecond (s : State) : Host.Outcome State Fault Refusal :=
  .next (s.live fun t => t.whenDue (decide (t.sched.nextSecond ≤ t.now)) State.tickSecond)

/-! ## Junction events (R167, R168, R169) -/

/-- The channel is in service (R117). -/
def Channel.inService (ch : Channel) : Bool :=
  ch.state == .ready || ch.state == .measuring || ch.state == .calShort

/-- Every present group's green circuit has had a valid voltage check since the state's entry (R156). -/
def State.greensChecked (s : State) : Bool :=
  s.presentGroups.all fun g => (s.group g).config.all fun k =>
    decide (s.junction.entry ≤ (s.circuit k.green).cable.lastCheck)

/-- The exit condition of START_FLASH (R167). -/
def State.startFlashEndDue (s : State) : Bool :=
  s.junction.state == .startFlash && decide (s.junction.entry + ms s.junction.startFlash ≤ s.now)
    && s.channel.inService && s.greensChecked

def execStartFlashEnd (s : State) : Host.Outcome State Fault Refusal :=
  .next (s.live fun t => t.whenDue t.startFlashEndDue State.enterStartRed)

/-- Every present group's red status is LIT or UNSUPERVISED (R168). -/
def State.redsReady (s : State) : Bool :=
  s.presentGroups.all fun g => s.redStatus g == .lit || s.redStatus g == .unsupervised

/-- The exit condition of START_RED, judged while no flash clearance runs (R168, R169). -/
def State.startRedEndDue (s : State) : Bool :=
  s.junction.state == .startRed && s.junction.clearance.isNone
    && decide (s.junction.entry + ms s.junction.startRed ≤ s.now) && s.redsReady

def execStartRedEnd (s : State) : Host.Outcome State Fault Refusal :=
  .next (s.live fun t => t.whenDue t.startRedEndDue State.enterRunning)

/-- The all-red before flash has elapsed (R169). -/
def State.allRedEndDue (s : State) : Bool :=
  match s.junction.clearance with
  | some (.allRed t) => decide (t + ms s.junction.allRed ≤ s.now)
  | _ => false

def execAllRedEnd (s : State) : Host.Outcome State Fault Refusal :=
  .next (s.live fun t => t.whenDue t.allRedEndDue State.enterFlash)

/-! ## Requests for measurement (R121, R134, R136, R153, R155, R157) -/

/-- The short calibration's due instant has come and it is neither presented nor running (R121). -/
def State.shortDueNow (s : State) : Bool :=
  s.channel.shortDue.any (fun d => decide (d ≤ s.now)) && !s.channel.shortPresented
    && s.channel.state != .calShort

/-- The channel presents its short calibration (R121). -/
def State.presentShort (s : State) : State := s.setChannel { s.channel with shortPresented := true }

def execShortCalibrationDue (s : State) : Host.Outcome State Fault Refusal :=
  .next (s.live fun t => t.whenDue t.shortDueNow State.presentShort)

/-- A lit circuit's request falls due and no settling interval runs (R134). -/
def State.requestDue (s : State) (c : CircuitIx) : Bool :=
  let p := (s.circuit c).schedule
  p.litSince.isSome && p.nextDue.any (fun d => decide (d ≤ s.now)) && s.sup.settlingEnd.isNone

/-- The request presented, the schedule moved on by 2.0 s (R133, R134). -/
def State.presentRequest (s : State) (c : CircuitIx) : State :=
  let p := (s.circuit c).schedule
  s.setSchedule c { p with presented := p.nextDue, nextDue := p.nextDue.map (· + 2000) }

def execProvingRequestDue (circuit : Nat) (s : State) : Host.Outcome State Fault Refusal :=
  .next (s.live fun t =>
    match indexOf 48 circuit with
    | none => t
    | some c => t.whenDue (t.requestDue c) fun u => u.presentRequest c)

/-- 200 ms have passed from a presented request's due instant (R134). -/
def State.dropDue (s : State) (c : CircuitIx) : Bool :=
  (s.circuit c).schedule.presented.any fun d => decide (d + 200 ≤ s.now)

def execProvingRequestDrop (circuit : Nat) (s : State) : Host.Outcome State Fault Refusal :=
  .next (s.live fun t =>
    match indexOf 48 circuit with
    | none => t
    | some c =>
      if t.dropDue c then t.setSchedule c { (t.circuit c).schedule with presented := none } else t)

/-- The settling end instant has come (R136). -/
def State.settlingDue (s : State) : Bool := s.sup.settlingEnd.any fun e => decide (e ≤ s.now)

/-- The schedule of a circuit restarted at a settling end (R136). -/
def Circuit.restarted (settlingEnd : Instant) (k : Circuit) : Circuit :=
  { k with schedule := { k.schedule with
      nextDue := match k.schedule.litSince with
        | some t => some (max settlingEnd (t + settleTime k.technology))
        | none => k.schedule.nextDue } }

/-- The settling interval ends (R136). -/
def State.endSettling (s : State) : State :=
  match s.sup.settlingEnd with
  | none => s
  | some e =>
    let t := s.setSup { s.sup with settlingEnd := none }
    { t with circuits := t.circuits.map (Circuit.restarted e) }

def execSettlingEnd (s : State) : Host.Outcome State Fault Refusal :=
  .next (s.live fun t => t.whenDue t.settlingDue State.endSettling)

/-- A window of the green watch is in flight on the circuit. -/
def State.watchInFlight (s : State) (c : CircuitIx) : Bool :=
  match s.channel.inFlight with
  | some ⟨d, .dark .watch _, _⟩ => c == d
  | _ => false

/-- A watched circuit's check is due and it is not presented (R153; log entry 18). -/
def State.checkDue (s : State) (c : CircuitIx) : Bool :=
  s.watched c && !(s.circuit c).cable.watchPresented && !s.watchInFlight c
    && decide (s.watchDue c ≤ s.now)

/-- The circuit is presented to the channel (R153). -/
def execWatchCheckDue (circuit : Nat) (s : State) : Host.Outcome State Fault Refusal :=
  .next (s.live fun t =>
    match indexOf 48 circuit with
    | none => t
    | some c => t.whenDue (t.checkDue c) fun u => u.setPresented c true)

/-- A watched circuit's age has reached a limit (R155). -/
def State.ageReached (s : State) (c : CircuitIx) (limit : Nat) : Bool :=
  s.watched c && decide (s.watchReference c + limit ≤ s.now)

/-- The age has reached 2.0 s for a watch reference not yet reported (R155; log entry 19). -/
def State.lateDue (s : State) (c : CircuitIx) : Bool :=
  s.ageReached c 2000 && (s.circuit c).cable.lateFor != some (s.watchReference c)

/-- MONITOR_LATE raised (R155). -/
def State.reportLate (s : State) (c : CircuitIx) : State :=
  (s.setCable c { (s.circuit c).cable with lateFor := some (s.watchReference c) }).raise .monitorLate

def execMonitorLate (circuit : Nat) (s : State) : Host.Outcome State Fault Refusal :=
  .next (s.live fun t =>
    match indexOf 48 circuit with
    | none => t
    | some c => if t.lateDue c then t.reportLate c else t)

/-- The cause MONITOR of a late circuit. -/
def State.lateCause (s : State) (c : CircuitIx) : Cause :=
  { cause := .monitor, group := (s.assignment c).map (·.group), circuit := some c }

/-- The causes of the circuits whose age has reached 4.0 s, the named one first (R155; log entry 19). -/
def State.lateCauses (s : State) (c : CircuitIx) : List Cause :=
  (c :: (List.finRange 48).filter fun d => d != c && s.ageReached d 4000).map s.lateCause

/-- A circuit becomes eligible for the cable round: it is counted, and the offer is renewed at the end of the step
(R123, R157). -/
def execRoundEligible (circuit : Nat) (s : State) : Host.Outcome State Fault Refusal :=
  .next (s.live fun t =>
    match indexOf 48 circuit with
    | none => t
    | some c => t.whenDue (t.eligible c) fun u => u.ripen c)

end Sys2Proof.Machine
end

