-- ==== Sys2Proof/Machine/Windows.lean ====
section
/-! DEFINITION. Windows: what the end of a measurement window or of a calibration attempt does: the
correction (R118), lamp classification, confirmation and training (R137 to R149), cable judgement and
learning (R152 to R163), the age limit of the green watch (R155), and calibration (R126 to R128). -/

namespace Sys2Proof.Machine

/-! ## Correction (R118) -/

/-- A value clamped to 0 to 4095. -/
def clampCount (x : Int) : Nat := min 4095 x.toNat

/-- The corrected count of a raw reading. -/
def Channel.corrected (ch : Channel) (raw : Int) : Nat :=
  if 4095 ≤ raw then 4095 else clampCount (((raw - ch.offset) * ch.gain + 512) / 1024)

/-! ## Lamp classification (R137, R138) -/

/-- The lamps lit estimate of a current against a reference (R138). -/
def litEstimate (n r iref i : Nat) : Nat :=
  let num := 16 * n * i - n * r * iref
  let den := (16 - r) * iref
  if num = 0 then 0 else min n ((2 * num + den) / (2 * den))

/-- The result of a current against the reference of its level, and the estimate k where it is worked
out. -/
def classify (n r : Nat) (ref : Option Nat) (i : Nat) : LampState × Option Nat :=
  match ref with
  | none => (.unproven, none)
  | some iref =>
    if i = 4095 ∨ 3 * iref ≤ 2 * i then (.overcurrent, none)
    else
      let k := litEstimate n r iref i
      (if k = n then .proven else if k = 0 then .out else .partialOut, some k)

/-! ## Confirmation (R139 to R142) -/

/-- The lamp part's state, pending result and agreement count after a valid measurement (R139, R140). -/
def LampPart.confirm (l : LampPart) (res : LampState) : LampPart :=
  if res = .unproven then
    if l.state = .unproven then l else { l with state := .unproven, pendingResult := none, agreement := 0 }
  else if l.state = .unmeasured ∨ l.state = .unproven ∨ l.pendingResult = some res then
    { l with state := res, pendingResult := none, agreement := 0 }
  else if res = l.state then { l with pendingResult := none, agreement := 0 }
  else { l with pendingResult := some res, agreement := 1 }

/-- A state reported as a fault of the lamps. -/
def LampState.isFault : LampState → Bool
  | .partialOut => true
  | .out => true
  | .overcurrent => true
  | _ => false

/-- Whether a change of the lamp proving state raises LAMP_ALARM (R141). -/
def raisesLampAlarm (before after : LampState) : Bool :=
  before != after && (after.isFault || (after == .proven && before.isFault))

/-- The attributed cause after a change of state (R142). -/
def causeAfter (cable : CableState) (after : LampState) : Option AttributedCause :=
  if after = .out ∧ cable = .alarm .openCable then some .cableOpen else none

/-- The lamp part after a valid measurement of current `i`, classified as `res` with estimate `k`. -/
def LampPart.measured (l : LampPart) (cable : CableState) (i : Nat) (res : LampState × Option Nat) :
    LampPart :=
  let m := { l.confirm res.1 with lastCurrent := i, lit := res.2.getD l.lit }
  if m.state = l.state then m else { m with cause := causeAfter cable m.state }

/-! ## Training (R148, R149) -/

/-- A sub-record after one more sample. -/
def Training.sample (t : Training) (i : Nat) : Training :=
  { t with
    samples := t.samples + 1, sum := t.sum + i,
    min := some (match t.min with | some a => Nat.min a i | none => i),
    max := some (match t.max with | some a => Nat.max a i | none => i) }

/-- The mean of the four samples, rounded. -/
def Training.mean (t : Training) : Nat := (t.sum + 2) / 4

/-- The attempt passes (R149). -/
def Training.passes (t : Training) : Bool :=
  decide ((t.max.getD 0 - t.min.getD 0) * 32 ≤ t.sum) && within 20 4000 t.mean

/-- The reference of a level set (R143). -/
def LampPart.withReference (l : LampPart) (level : DimLevel) (iref : Nat) : LampPart :=
  match level with
  | .full => { l with fullRef := some iref, pendingResult := none, agreement := 0, training := none }
  | .dim => { l with dimRef := some iref, pendingResult := none, agreement := 0, training := none }

/-- A failed attempt begun anew (R149). -/
def Training.nextAttempt (t : Training) : Training :=
  { t with attempt := t.attempt + 1, samples := 0, min := none, max := none, sum := 0 }

/-- The fourth sample's judgement (R149); a new reference has red supervision judge the group (R145). -/
def State.judgeAttempt (s : State) (c : CircuitIx) (t : Training) : State :=
  let l := (s.circuit c).lamp
  if t.passes then
    ((s.setLamp c (l.withReference t.level t.mean)).raise .trainDone).judgeCircuit c none
  else if t.attempt < 3 then s.setLamp c { l with training := some t.nextAttempt }
  else (s.setLamp c { l with training := none }).raise .trainFail

/-- A valid measurement offered to the circuit's training (R148). -/
def State.offerSample (s : State) (c : CircuitIx) (level : DimLevel) (i : Nat) : State :=
  match (s.circuit c).lamp.training with
  | none => s
  | some t =>
    if t.level = level then
      let u := t.sample i
      if u.samples < 4 then s.setLamp c { (s.circuit c).lamp with training := some u }
      else s.judgeAttempt c u
    else s

/-! ## The end of a lit window (R119, R135) -/

/-- A result handed back while a settling interval runs, of a window begun before its end, is discarded
(R136). -/
def State.discards (s : State) (start : Instant) : Bool :=
  s.sup.settlingEnd.any fun e => decide (start < e)

/-- A valid measurement recorded: the state, the alarm, red supervision, the training sample. -/
def State.recordLit (s : State) (c : CircuitIx) (level : DimLevel) (i : Nat) : State :=
  let k := s.circuit c
  let res := classify k.heads k.residual (k.lamp.refFor level) i
  let l := k.lamp.measured k.cable.state i res
  let t := s.setLamp c l
  let t := if raisesLampAlarm k.lamp.state l.state then t.raise .lampAlarm else t
  let t := if l.state = k.lamp.state then t else t.judgeCircuit c (some c)
  t.offerSample c level i

/-- The lit window in flight, when its 20 ms have run. -/
def State.litWindow (s : State) : Option (CircuitIx × DimLevel × Instant) :=
  match s.channel.inFlight with
  | some ⟨c, .lit level, start⟩ => if start + 20 ≤ s.now then some (c, level, start) else none
  | _ => none

/-- The end of a lit window: the channel is free, and the result handed to lamp proving. -/
def State.endLit (s : State) (raw : Int) (c : CircuitIx) (level : DimLevel) (start : Instant) : State :=
  let t := s.setChannel (s.channel.endWindow s.now)
  if s.discards start then t else t.recordLit c level (s.channel.corrected raw)

def execLitWindowEnd (raw : Int) (s : State) : Host.Outcome State Fault Refusal :=
  .next (s.live fun t =>
    match t.litWindow with
    | none => t
    | some (c, level, start) => t.settle (t.endLit raw c level start))

/-! ## Cable judgement (R158, R159, R160) -/

/-- The values of a dark window scaled (R118). -/
structure DarkValues where
  voltage : Nat
  leakage : Nat
  charge : Nat
  deriving DecidableEq, Repr

def Channel.darkValues (ch : Channel) (v l q : Int) : DarkValues :=
  { voltage := min 100 (ch.corrected v / 40), leakage := ch.corrected l / 16,
    charge := ch.corrected q / 16 }

/-- OPEN or LEAK against the baselines, looked for in a full measurement (R158). -/
def baselineCondition (b : Option Baseline) (full : Bool) (x : DarkValues) : Option CableCondition :=
  match b with
  | none => none
  | some b =>
    if !full then none
    else if x.charge * 2 < b.charge then some .openCable
    else if b.leakage + 50 < x.leakage then some .leak
    else none

/-- The condition of a measurement (R158); `redOrAmber` says that FOREIGN is looked for. -/
def CablePart.condition (k : CablePart) (redOrAmber full : Bool) (x : DarkValues) :
    Option CableCondition :=
  if redOrAmber && decide (50 ≤ x.voltage) then some .foreign
  else baselineCondition k.baseline full x

/-- The run that brings a condition to ALARM, and its alarm kind. -/
def CableCondition.run : CableCondition → Nat
  | .foreign => 2
  | _ => 3

def CableCondition.alarm : CableCondition → AlarmKind
  | .foreign => .foreignVoltage
  | .openCable => .openCable
  | _ => .leak

/-- The record entering ALARM. -/
def CablePart.intoAlarm (k : CablePart) (kind : AlarmKind) : CablePart :=
  { k with state := .alarm kind, acknowledged := false, count := 0, counted := none }

/-- The count outside ALARM (R158), and whether it has reached ALARM. -/
def CablePart.counting (k : CablePart) (redOrAmber full : Bool) (x : DarkValues) : CablePart × Bool :=
  match k.condition redOrAmber full x with
  | some y =>
    let n := if k.counted = some y then k.count + 1 else 1
    if y.run ≤ n then (k.intoAlarm y.alarm, true) else ({ k with counted := some y, count := n }, false)
  | none =>
    if full || k.counted == some .foreign then ({ k with counted := none, count := 0 }, false)
    else (k, false)

/-- SUSPECT judged after a full measurement of a circuit with baselines (R159). -/
def CablePart.suspecting (k : CablePart) (full : Bool) (x : DarkValues) : CablePart :=
  match k.baseline, k.state with
  | some b, .normal => if full && decide (b.leakage + 20 < x.leakage) then { k with state := .suspect } else k
  | some b, .suspect => if full && decide (x.leakage ≤ b.leakage + 20) then { k with state := .normal } else k
  | _, _ => k

/-- A clear measurement (R160). -/
def CablePart.clearBy (k : CablePart) (full : Bool) (x : DarkValues) : Bool :=
  decide (x.voltage < 50) &&
    match k.baseline with
    | none => true
    | some b => full && decide (b.charge ≤ x.charge * 2) && decide (x.leakage ≤ b.leakage + 20)

/-- The run of clear measurements in ALARM (R160). -/
def CablePart.clearing (k : CablePart) (full : Bool) (x : DarkValues) : CablePart :=
  if k.clearBy full x then { k with counted := some .clear, count := min 3 (k.count + 1) }
  else if !full && decide (x.voltage < 50) && k.baseline.isSome then k
  else { k with counted := none, count := 0 }

/-- What a judged measurement did to the alarm. -/
inductive AlarmChange where
  | unchanged | entered | left
  deriving DecidableEq, Repr

/-- The judgement of section 9.5 (R158, R159, R160). -/
def CablePart.judged (k : CablePart) (redOrAmber full : Bool) (x : DarkValues) :
    CablePart × AlarmChange :=
  if k.state.isAlarm then
    let m := k.clearing full x
    if m.leavesAlarm then (m.outOfAlarm, .left) else (m, .unchanged)
  else
    let r := k.counting redOrAmber full x
    if r.2 then (r.1, .entered) else (r.1.suspecting full x, .unchanged)

/-! ## Learning (R163) -/

/-- The baselines of four samples. -/
def CableLearning.baseline (l : CableLearning) : Baseline :=
  { leakage := (l.leakageSum + 2) / 4, charge := (l.chargeSum + 2) / 4 }

/-- The record at the fourth sample: NORMAL, but that an ALARM stands (log entry 24). -/
def CablePart.learnt (k : CablePart) (l : CableLearning) : CablePart :=
  { k with
    baseline := some l.baseline, learning := none, count := 0, counted := none,
    state := if k.state.isAlarm then k.state else .normal }

/-- A full measurement as a sample of the circuit's learning: the record after, and whether it has learnt. A
judgement that has put the record into ALARM removes the sub-record instead. -/
def CablePart.sampled (k : CablePart) (change : AlarmChange) (x : DarkValues) : CablePart × Bool :=
  match k.learning with
  | none => (k, false)
  | some l =>
    if change = .entered then ({ k with learning := none }, false)
    else
      let m : CableLearning :=
        { samples := l.samples + 1, leakageSum := l.leakageSum + x.leakage,
          chargeSum := l.chargeSum + x.charge }
      if m.samples < 4 then ({ k with learning := some m }, false) else (k.learnt m, true)

/-! ## The end of a dark window (R120, R152, R154) -/

/-- The record with the valid values recorded (R152). -/
def CablePart.withValues (k : CablePart) (valid full : Bool) (now : Instant) (x : DarkValues) :
    CablePart :=
  { k with
    lastVoltage := if valid then x.voltage else k.lastVoltage,
    lastCheck := if valid then now else k.lastCheck,
    lastLeakage := if full then x.leakage else k.lastLeakage,
    lastCharge := if full then x.charge else k.lastCharge }

/-- The alarm of a foreign green (R154): ALARM of kind FOREIGN_VOLTAGE. -/
def State.foreignAlarm (s : State) (c : CircuitIx) : State :=
  let k := (s.circuit c).cable
  let t := s.setCable c (k.intoAlarm .foreignVoltage)
  if k.state = .alarm .foreignVoltage then t else t.raise .cableAlarm

/-- The cause a valid result hands: FOREIGN_GREEN where it finds voltage on a green circuit (R154). -/
def State.foreignCauses (s : State) (c : CircuitIx) (x : DarkValues) : List Cause :=
  match s.assignment c with
  | some { group := g, aspect := .green } =>
    if 50 ≤ x.voltage then [{ cause := .foreignGreen, group := some g, circuit := some c }] else []
  | some _ => []
  | none => []

/-- The judgement of section 9.5 and the learning sample that follows it. Only a full measurement touches the
learning sub-record, also where another one puts the record into ALARM (R163; log entry 41). -/
def State.judgeCable (s : State) (c : CircuitIx) (redOrAmber full : Bool) (x : DarkValues) : State :=
  let r := (s.circuit c).cable.judged redOrAmber full x
  let l := if full then r.1.sampled r.2 x else (r.1, false)
  let t := s.setCable c l.1
  let t := if r.2 = .unchanged then t else t.raise .cableAlarm
  if l.2 then t.raise .cableLearned else t

/-- A result with a valid voltage judged: section 9.5, and the alarm of R154 on a green circuit. -/
def State.judgeDark (s : State) (c : CircuitIx) (full : Bool) (x : DarkValues) : State :=
  match s.assignment c with
  | some { group := _, aspect := .green } =>
    let t := s.judgeCable c false full x
    if 50 ≤ x.voltage then t.foreignAlarm c else t
  | some _ => s.judgeCable c true full x
  | none => s.judgeCable c false full x

/-- The dark window in flight, when its 20 ms have run: the circuit and its dark time at start. -/
def State.darkWindow (s : State) : Option (CircuitIx × Nat) :=
  match s.channel.inFlight with
  | some ⟨c, .dark _ dark, start⟩ => if start + 20 ≤ s.now then some (c, dark) else none
  | _ => none

/-- The end of a dark window but for the cause it hands: the channel is free, the values recorded and judged. V
is valid from 200 ms of darkness, L and Q from 1.0 s (R120). -/
def State.recordDark (s : State) (c : CircuitIx) (dark : Nat) (x : DarkValues) : State :=
  let t := s.setChannel (s.channel.endWindow s.now)
  let valid := decide (200 ≤ dark)
  let full := decide (1000 ≤ dark)
  let t := t.setCable c ((t.circuit c).cable.withValues valid full s.now x)
  if valid then t.judgeDark c full x else t

/-- The cause the end of a dark window hands (R154). -/
def State.darkCauses (s : State) (c : CircuitIx) (dark : Nat) (x : DarkValues) : List Cause :=
  if 200 ≤ dark then s.foreignCauses c x else []

/-- The end of a dark window (R120, R152, R154). -/
def State.endDark (s : State) (v l q : Int) (c : CircuitIx) (dark : Nat) : State :=
  let x := s.channel.darkValues v l q
  (s.recordDark c dark x).handCauses (s.darkCauses c dark x)

def execDarkWindowEnd (v l q : Int) (s : State) : Host.Outcome State Fault Refusal :=
  .next (s.live fun t =>
    match t.darkWindow with
    | none => t
    | some (c, dark) => t.settle (t.endDark v l q c dark))

/-! ## The age limit (R155) -/

/-- The age limit reached while the end of a dark window has not been taken: the causes are handed, and the
window's end meets the fall of SAFE_ENABLE in either order (R125), the order free. Where the fall comes first it
voids the window; else the result, of free readings, is recorded beside the lockout, and a cause it hands is a
further one (log entry 40). -/
def State.limitMeetsWindow (s : State) (late : List Cause) (c : CircuitIx) (dark : Nat) : State :=
  let t := s.drawn
  if s.free % 2 = 0 then t.handCauses late
  else
    let x := t.channel.darkValues (t.freeReading 0) (t.freeReading 1) (t.freeReading 2)
    (t.drawn.recordDark c dark x).handCauses (late ++ t.darkCauses c dark x)

/-- The age of a watched circuit has reached 4.0 s: MONITOR is handed for each late circuit, and SAFE_ENABLE falls
(R155). -/
def State.reachLimit (s : State) (c : CircuitIx) : State :=
  match s.darkWindow with
  | none => s.handCauses (s.lateCauses c)
  | some (d, dark) => s.limitMeetsWindow (s.lateCauses c) d dark

/-- The age of a watched circuit reaches 4.0 s (R155). Where the end of the circuit's own window is taken first,
its age has fallen back and nothing is handed. -/
def execWatchAgeLimit (circuit : Nat) (s : State) : Host.Outcome State Fault Refusal :=
  .next (s.live fun t =>
    match indexOf 48 circuit with
    | none => t
    | some c => t.whenDue (t.ageReached c 4000) fun u => u.reachLimit c)

/-! ## Calibration (R126 to R128) -/

/-- The round half up of the mean of a list of readings. -/
def meanOf (l : List Int) : Int := (l.sum + (l.length / 2 : Nat)) / (l.length : Nat)

/-- The span h. -/
def spanOf (zero span : List Int) : Int := meanOf span - meanOf zero

/-- The measured gain, absent when h is 0 or below. -/
def gainOf (zero span : List Int) : Option Int :=
  if 0 < spanOf zero span then some ((4096000 + spanOf zero span / 2) / spanOf zero span) else none

/-- The attempt is accepted. -/
def calAccepted (zero span : List Int) : Bool :=
  decide (-64 ≤ meanOf zero) && decide (meanOf zero ≤ 64)
    && (gainOf zero span).any fun g => decide (922 ≤ g) && decide (g ≤ 1126)

/-- The last calibration record of an attempt. -/
def calRecord (kind : CalKind) (zero span : List Int) (now : Instant) : CalRecord :=
  { kind := kind, pass := calAccepted zero span, offset := meanOf zero, gain := gainOf zero span,
    ended := now }

/-- The channel after an accepted attempt (R127). -/
def Channel.calibrated (ch : Channel) (r : CalRecord) : Channel :=
  { ch with
    state := .ready, offset := r.offset, gain := r.gain.getD ch.gain,
    shortDue := some (r.ended + 60000), shortPresented := false, failFlag := false,
    calibration := none, lastRecord := some r }

/-- The channel put into FAULT (R127, R128). -/
def Channel.failed (ch : Channel) (r : CalRecord) : Channel :=
  { ch with
    state := .fault, shortDue := none, shortPresented := false, calibration := none,
    lastRecord := some r }

/-- The cause MONITOR of the channel. -/
def channelCause : Cause := { cause := .monitor, group := none, circuit := none }

/-- A calibration's failure: FAULT, CAL_FAIL, and the cause MONITOR while supplied. -/
def State.failCalibration (s : State) (r : CalRecord) : State :=
  let t := (s.setChannel (s.channel.failed r)).raise .calFail
  if t.output.safeEnable then t.handCause channelCause else t

/-- The attempt in progress of a kind, when its time has run. -/
def State.attemptEnding (s : State) (kind : CalKind) (length : Nat) : Option Calibration :=
  s.channel.calibration.filter fun x => x.kind == kind && decide (x.start + length ≤ s.now)

/-- The end of a long calibration (R127). -/
def State.endLong (s : State) (r : CalRecord) : State :=
  if r.pass then s.setChannel (s.channel.calibrated r) else s.failCalibration r

def execLongCalibrationEnd (zero span : List Int) (s : State) : Host.Outcome State Fault Refusal :=
  .next (s.live fun t =>
    match t.attemptEnding .long 2000 with
    | none => t
    | some _ => t.settle (t.endLong (calRecord .long zero span t.now)))

/-- A first attempt failed: the flag set, and attempt 2 begun at once (R128). -/
def Channel.secondAttempt (ch : Channel) (r : CalRecord) : Channel :=
  { ch with
    failFlag := true, lastRecord := some r,
    calibration := some { kind := .short, start := r.ended, attempt := 2 } }

/-- The end of a short calibration's attempt (R127, R128). -/
def State.endShort (s : State) (attempt : Nat) (r : CalRecord) : State :=
  if r.pass then s.setChannel (s.channel.calibrated r)
  else if attempt = 1 then s.setChannel (s.channel.secondAttempt r)
  else s.failCalibration r

def execShortCalibrationAttemptEnd (zero span : List Int) (s : State) :
    Host.Outcome State Fault Refusal :=
  .next (s.live fun t =>
    match t.attemptEnding .short 100 with
    | none => t
    | some x => t.settle (t.endShort x.attempt (calRecord .short zero span t.now)))

end Sys2Proof.Machine
end

