-- ==== Sys2Proof/Machine/Ticking.lean ====
section
/-! DEFINITION. Ticking: what an idle step does (log entry 2): an event that is due is placed in the queue,
or, when none is due, one millisecond passes. -/

namespace Sys2Proof.Machine

/-- An event when its condition holds. -/
def eventIf (due : Bool) (i : Instr) : List Instr := if due then [i] else []

/-- The events a condition picks among numbered things. -/
def eventsOf (n : Nat) (due : Fin n → Bool) (i : Nat → Instr) : List Instr :=
  ((List.finRange n).filter due).map fun k => i (number k)

/-- The readings of a calibration attempt: `n` of a reference, from a place on. -/
def State.freeReadings (s : State) (n place : Nat) : List Int :=
  (List.range n).map fun k => s.freeReading (place + k)

/-- The group, flash and sequencer events due now. -/
def State.runningEvents (s : State) : List Instr :=
  eventsOf 16 s.redAmberDue .redAmberBegin ++ eventsOf 16 s.greenDue .greenStart
    ++ eventsOf 16 s.amberDue .amberEnd ++ eventIf s.flashDue .flashHalf
    ++ eventIf s.stageEndDue .stageEnd ++ eventIf s.latchDue .latchTaken
    ++ eventIf (s.loseDue .clearance) .clearanceLose
    ++ eventIf (s.loseDue .interstage) .truncationLose
    ++ eventIf s.dwellEndDue .dwellEnd ++ eventIf s.maxDwellDue .maxDwell
    ++ eventIf s.syncExpired .syncWatchExpiry

/-- The clock, line and junction events due now. -/
def State.junctionEvents (s : State) : List Instr :=
  eventIf (decide (s.sched.nextSecond ≤ s.now)) .clockSecond
    ++ eventsOf 4 s.prqAssertDue .prqAsserted ++ eventsOf 4 s.prqReleaseDue .prqReleased
    ++ eventIf s.startFlashEndDue .startFlashEnd ++ eventIf s.startRedEndDue .startRedEnd
    ++ eventIf s.allRedEndDue .allRedEnd

/-- The window and calibration ends due now, with free readings. -/
def State.readingEvents (s : State) : List Instr :=
  eventIf s.litWindow.isSome (.litWindowEnd (s.freeReading 0))
    ++ eventIf s.darkWindow.isSome
        (.darkWindowEnd (s.freeReading 0) (s.freeReading 1) (s.freeReading 2))
    ++ eventIf (s.attemptEnding .long 2000).isSome
        (.longCalibrationEnd (s.freeReadings 40 0) (s.freeReadings 40 40))
    ++ eventIf (s.attemptEnding .short 100).isSome
        (.shortCalibrationAttemptEnd (s.freeReadings 2 0) (s.freeReadings 2 2))

/-- The round's newly eligible circuit, when its eligibility changes the offer (R157): the first of all the eligible
ones, counted or not. -/
def State.roundEvents (s : State) : List Instr :=
  match s.roundOrder.find? s.eligible with
  | some c => eventIf (s.sup.roundOffer != some c) (.roundEligible (number c))
  | none => []

/-- The measurement events due now. -/
def State.measurementEvents (s : State) : List Instr :=
  s.readingEvents ++ eventIf s.shortDueNow .shortCalibrationDue
    ++ eventsOf 48 s.requestDue .provingRequestDue ++ eventsOf 48 s.dropDue .provingRequestDrop
    ++ eventIf s.settlingDue .settlingEnd ++ eventsOf 48 s.checkDue .watchCheckDue
    ++ eventsOf 48 s.lateDue .monitorLate ++ eventsOf 48 (fun c => s.ageReached c 4000) .watchAgeLimit
    ++ s.roundEvents

/-- Every event due now. -/
def State.dueEvents (s : State) : List Instr :=
  s.runningEvents ++ s.junctionEvents ++ s.measurementEvents

/-- One millisecond passes. -/
def State.pass (s : State) : State := { s with now := s.now + 1 }

/-- An event placed in the queue. -/
def State.place (s : State) (i : Instr) : State := { s.drawn with pending := [i] }

/-- The idle step: while RESET_N is held only time passes (R1); otherwise an event due now is placed, a free
one of several (log entry 4), and with none due one millisecond passes. -/
def State.tick (s : State) : State :=
  if s.resetHeld then s.pass
  else
    match s.pick s.dueEvents with
    | none => s.pass
    | some i => s.place i

end Sys2Proof.Machine
end

