-- ==== Sys2Proof/Machine/Dispatch.lean ====
section
/-! DEFINITION. Dispatch: one direct call of its meaning for each command. -/

namespace Sys2Proof.Machine

def exec (i : Instr) (s : State) : Host.Outcome State Fault Refusal :=
  match i with
  | .readRecord kind index view part => Sys2Proof.Machine.execReadRecord kind index view part s
  | .writeRecordGroup group fields => Sys2Proof.Machine.execWriteRecordGroup group fields s
  | .updateFieldsGroup group changes => Sys2Proof.Machine.execUpdateFieldsGroup group changes s
  | .retireRecordGroup group => Sys2Proof.Machine.execRetireRecordGroup group s
  | .writeRecordCircuit circuit technology heads residual => Sys2Proof.Machine.execWriteRecordCircuit circuit technology heads residual s
  | .updateFieldsCircuit circuit technology heads residual => Sys2Proof.Machine.execUpdateFieldsCircuit circuit technology heads residual s
  | .writeRecordConflict l g flag igLG igGL => Sys2Proof.Machine.execWriteRecordConflict l g flag igLG igGL s
  | .updateFieldsConflict l g flag igLG igGL => Sys2Proof.Machine.execUpdateFieldsConflict l g flag igLG igGL s
  | .writeRecordPlan plan fields => Sys2Proof.Machine.execWriteRecordPlan plan fields s
  | .updateFieldsPlan plan changes => Sys2Proof.Machine.execUpdateFieldsPlan plan changes s
  | .retireRecordPlan plan => Sys2Proof.Machine.execRetireRecordPlan plan s
  | .writeRecordPreemptEntry entry fields => Sys2Proof.Machine.execWriteRecordPreemptEntry entry fields s
  | .updateFieldsPreemptEntry entry changes => Sys2Proof.Machine.execUpdateFieldsPreemptEntry entry changes s
  | .retireRecordPreemptEntry entry => Sys2Proof.Machine.execRetireRecordPreemptEntry entry s
  | .writeRecordPreemptTable length => Sys2Proof.Machine.execWriteRecordPreemptTable length s
  | .writeRecordJunction startFlash startRed allRed namesMode => Sys2Proof.Machine.execWriteRecordJunction startFlash startRed allRed namesMode s
  | .updateFieldsJunction startFlash startRed allRed namesMode => Sys2Proof.Machine.execUpdateFieldsJunction startFlash startRed allRed namesMode s
  | .recordWriteUnsupported op kind => Sys2Proof.Machine.execRecordWriteUnsupported op kind s
  | .forgetCircuit circuit => Sys2Proof.Machine.execForgetCircuit circuit s
  | .insertSwitchpoint time plan dim => Sys2Proof.Machine.execInsertSwitchpoint time plan dim s
  | .deleteSwitchpoint time => Sys2Proof.Machine.execDeleteSwitchpoint time s
  | .validatePlan plan => Sys2Proof.Machine.execValidatePlan plan s
  | .learnLamp circuit level => Sys2Proof.Machine.execLearnLamp circuit level s
  | .learnLampAll level => Sys2Proof.Machine.execLearnLampAll level s
  | .learnCable circuit => Sys2Proof.Machine.execLearnCable circuit s
  | .learnCableAll => Sys2Proof.Machine.execLearnCableAll s
  | .ackCable circuit => Sys2Proof.Machine.execAckCable circuit s
  | .ackCableAll => Sys2Proof.Machine.execAckCableAll s
  | .recalibrate => Sys2Proof.Machine.execRecalibrate s
  | .dimOn => Sys2Proof.Machine.execDimOn s
  | .dimOff => Sys2Proof.Machine.execDimOff s
  | .readStatus => Sys2Proof.Machine.execReadStatus s
  | .readAttention => Sys2Proof.Machine.execReadAttention s
  | .setAttentionMask mask => Sys2Proof.Machine.execSetAttentionMask mask s
  | .lock level => Sys2Proof.Machine.execLock level s
  | .start => Sys2Proof.Machine.execStart s
  | .flash => Sys2Proof.Machine.execFlash s
  | .dark => Sys2Proof.Machine.execDark s
  | .lockout => Sys2Proof.Machine.execLockout s
  | .clearLockout => Sys2Proof.Machine.execClearLockout s
  | .softReset => Sys2Proof.Machine.execSoftReset s
  | .selectPlan plan hold => Sys2Proof.Machine.execSelectPlan plan hold s
  | .releaseToSchedule => Sys2Proof.Machine.execReleaseToSchedule s
  | .setModeFree => Sys2Proof.Machine.execSetModeFree s
  | .setModeSynced => Sys2Proof.Machine.execSetModeSynced s
  | .setModeStepped => Sys2Proof.Machine.execSetModeStepped s
  | .advance => Sys2Proof.Machine.execAdvance s
  | .preemptAssert entry => Sys2Proof.Machine.execPreemptAssert entry s
  | .preemptRelease entry => Sys2Proof.Machine.execPreemptRelease entry s
  | .setClock seconds => Sys2Proof.Machine.execSetClock seconds s
  | .requestRefused frame => Sys2Proof.Machine.execRequestRefused frame s
  | .chipSelectReleased => Sys2Proof.Machine.execChipSelectReleased s
  | .powerOnReset => Sys2Proof.Machine.execPowerOnReset s
  | .resetNAsserted => Sys2Proof.Machine.execResetNAsserted s
  | .lineReset => Sys2Proof.Machine.execLineReset s
  | .syncPulse => Sys2Proof.Machine.execSyncPulse s
  | .advanceLineActive => Sys2Proof.Machine.execAdvanceLineActive s
  | .prqLineChange line active => Sys2Proof.Machine.execPrqLineChange line active s
  | .prqAsserted line => Sys2Proof.Machine.execPrqAsserted line s
  | .prqReleased line => Sys2Proof.Machine.execPrqReleased line s
  | .redAmberBegin group => Sys2Proof.Machine.execRedAmberBegin group s
  | .greenStart group => Sys2Proof.Machine.execGreenStart group s
  | .amberEnd group => Sys2Proof.Machine.execAmberEnd group s
  | .flashHalf => Sys2Proof.Machine.execFlashHalf s
  | .stageEnd => Sys2Proof.Machine.execStageEnd s
  | .latchTaken => Sys2Proof.Machine.execLatchTaken s
  | .clearanceLose => Sys2Proof.Machine.execClearanceLose s
  | .truncationLose => Sys2Proof.Machine.execTruncationLose s
  | .dwellEnd => Sys2Proof.Machine.execDwellEnd s
  | .maxDwell => Sys2Proof.Machine.execMaxDwell s
  | .syncWatchExpiry => Sys2Proof.Machine.execSyncWatchExpiry s
  | .clockSecond => Sys2Proof.Machine.execClockSecond s
  | .startFlashEnd => Sys2Proof.Machine.execStartFlashEnd s
  | .startRedEnd => Sys2Proof.Machine.execStartRedEnd s
  | .allRedEnd => Sys2Proof.Machine.execAllRedEnd s
  | .litWindowEnd raw => Sys2Proof.Machine.execLitWindowEnd raw s
  | .darkWindowEnd rawVoltage rawLeakage rawCharge => Sys2Proof.Machine.execDarkWindowEnd rawVoltage rawLeakage rawCharge s
  | .longCalibrationEnd zero span => Sys2Proof.Machine.execLongCalibrationEnd zero span s
  | .shortCalibrationAttemptEnd zero span => Sys2Proof.Machine.execShortCalibrationAttemptEnd zero span s
  | .shortCalibrationDue => Sys2Proof.Machine.execShortCalibrationDue s
  | .provingRequestDue circuit => Sys2Proof.Machine.execProvingRequestDue circuit s
  | .provingRequestDrop circuit => Sys2Proof.Machine.execProvingRequestDrop circuit s
  | .settlingEnd => Sys2Proof.Machine.execSettlingEnd s
  | .watchCheckDue circuit => Sys2Proof.Machine.execWatchCheckDue circuit s
  | .monitorLate circuit => Sys2Proof.Machine.execMonitorLate circuit s
  | .watchAgeLimit circuit => Sys2Proof.Machine.execWatchAgeLimit circuit s
  | .roundEligible circuit => Sys2Proof.Machine.execRoundEligible circuit s

end Sys2Proof.Machine
end

