-- ==== Sys2Proof/Safety.lean ====
section
/-! DEFINITION. Safety: the laws the manual states of every state of the part (R17, R26, R36, R44, R54, R107,
R122, R165), as conditions on a state. -/

namespace Sys2Proof.Machine

/-- The junction states in which the junction is supplied (R165). -/
def JunctionState.supplied : JunctionState → Bool
  | .dark => false
  | .startFlash => true
  | .startRed => true
  | .running => true
  | .flash => true
  | .lockout => false

/-- SAFE_ENABLE is active exactly in the supplied states (R165). -/
def State.EnableLaw (s : State) : Prop := s.output.safeEnable = s.junction.state.supplied

/-- While SAFE_ENABLE is inactive every lamp drive is off (R17). -/
def State.DrivesLaw (s : State) : Prop :=
  s.output.safeEnable = false → ∀ c : CircuitIx, (s.circuit c).drive.on = false

/-- While SAFE_ENABLE is inactive no group shows an aspect or awaits a green start, and the guard holds no
request (R15, R16, R35). -/
def State.DarkLaw (s : State) : Prop :=
  s.output.safeEnable = false →
    s.guard = [] ∧ ∀ g : GroupIx, (s.group g).aspect = .dark ∧ (s.group g).awaited = none

/-- Of two conflicting groups at least one is clear: not GREEN, not RED_AMBER and awaiting no green start
(R32, R34). -/
def State.ClearLaw (s : State) : Prop :=
  ∀ l g : GroupIx, s.conflicting l g = true → (s.group l).clear = true ∨ (s.group g).clear = true

/-- An awaited green start lies at or after every conflicting group's green-off instant plus the intergreen from
it (R33, R36). -/
def State.AwaitLaw (s : State) : Prop :=
  ∀ (l g : GroupIx) (n : Nat) (a : Instant), s.intergreen l g = some n → (s.group g).awaited = some a →
    (s.group l).greenOff + 100 * n ≤ a

/-- An intergreen from a present VEHICLE group is at least its amber time; a group in AMBER is a VEHICLE one whose amber
began as its green went off; and no group is GREEN while a conflicting one is in AMBER (R12, R16, R26). -/
def State.AmberLaw (s : State) : Prop :=
  (∀ (l g : GroupIx) (k : GroupConfig) (v : VehicleFields) (n : Nat), (s.group l).config = some k →
    k.vehicle = some v → s.intergreen l g = some n → v.amberTime ≤ n)
  ∧ (∀ l : GroupIx, (s.group l).aspect = .amber → (s.group l).aspectEntry = (s.group l).greenOff
    ∧ ∃ k v, (s.group l).config = some k ∧ k.vehicle = some v)
  ∧ ∀ l g : GroupIx, s.conflicting l g = true → (s.group l).aspect = .amber → (s.group g).aspect ≠ .green

/-- An empty group is DARK and awaits no green start (R4, R5). -/
def State.EmptyLaw (s : State) : Prop :=
  ∀ g : GroupIx, (s.group g).config = none → (s.group g).aspect = .dark ∧ (s.group g).awaited = none

/-- No two conflicting groups are GREEN (R36). -/
def State.NoConflictingGreens (s : State) : Prop :=
  ∀ l g : GroupIx, s.conflicting l g = true → ¬((s.group l).aspect = .green ∧ (s.group g).aspect = .green)

/-- At most one plan is ACTIVE (R44). -/
def State.OneActive (s : State) : Prop :=
  ∀ p q : PlanIx, (s.plan p).phase = some .active → (s.plan q).phase = some .active → p = q

/-- The switch points stand in strictly ascending time, at most 24 of them (R107). -/
def State.PointsLaw (s : State) : Prop :=
  s.sched.points.Pairwise (fun x y => x.time < y.time) ∧ s.sched.points.length ≤ 24

/-- The channel has at most one measurement or calibration in progress, by its state (R122). -/
def State.ChannelLaw (s : State) : Prop :=
  match s.channel.state with
  | .calLong => s.channel.inFlight = none ∧ s.channel.calibration.isSome
  | .ready => s.channel.inFlight = none ∧ s.channel.calibration = none
  | .measuring => s.channel.inFlight.isSome ∧ s.channel.calibration = none
  | .calShort => s.channel.inFlight = none ∧ s.channel.calibration.isSome
  | .fault => s.channel.inFlight = none ∧ s.channel.calibration = none

/-- While the channel is READY no candidate stands: it has arbitrated (R122). -/
def State.ArbitratedLaw (s : State) : Prop :=
  s.channel.state = .ready → s.channel.shortPresented = false ∧ s.sup.roundOffer = none
    ∧ ∀ c : CircuitIx, (s.circuit c).schedule.presented = none ∧ (s.circuit c).cable.watchPresented = false

/-- A circuit has a lit period exactly while its drive is on, and a proving request only then (R133, R134);
a watch candidate stands only for a watched circuit (R153); and the measurement in flight is a lit one of a
circuit that is on, or a dark one of a circuit that is off, under SAFE_ENABLE (R119, R120, R124, R125). -/
def State.MeasureLaw (s : State) : Prop :=
  (∀ c : CircuitIx,
    (s.circuit c).schedule.litSince.isSome = (s.circuit c).drive.on
    ∧ ((s.circuit c).schedule.presented ≠ none → (s.circuit c).drive.on = true)
    ∧ ((s.circuit c).cable.watchPresented = true → s.watched c = true))
  ∧ ∀ w, s.channel.inFlight = some w →
    match w.kind with
    | .lit _ => (s.circuit w.circuit).drive.on = true
    | .dark _ _ => (s.circuit w.circuit).drive.on = false ∧ s.output.safeEnable = true

/-- A flash clearance runs only in START_RED and RUNNING (R169). -/
def State.ClearanceLaw (s : State) : Prop :=
  s.junction.clearance ≠ none → s.junction.state = .startRed ∨ s.junction.state = .running

/-- The sequencer is IDLE while the junction is in any state other than RUNNING (R61). -/
def State.SequencerLaw (s : State) : Prop := s.seq.state ≠ .idle → s.junction.state = .running

/-- The laws of the lamp supply (R17, R61, R165, R169). -/
def State.SupplyInv (s : State) : Prop :=
  s.EnableLaw ∧ s.ClearanceLaw ∧ s.SequencerLaw ∧ s.DrivesLaw

/-- The laws of the guard, with the laws of the supply they rest on (R15, R32, R34, R35). -/
def State.ConflictInv (s : State) : Prop :=
  s.SupplyInv ∧ s.DarkLaw ∧ s.EmptyLaw ∧ s.ClearLaw

/-- No present group names a circuit twice, and no circuit is named by two present groups (R2). -/
def State.UniqueLaw (s : State) : Prop :=
  ∀ (g : GroupIx) (k : GroupConfig), (s.group g).config = some k → k.circuits.Nodup ∧
    ∀ (h : GroupIx) (m : GroupConfig), (s.group h).config = some m → h ≠ g →
      ∀ c ∈ k.circuits, c ∉ m.circuits

/-- A drive of a present group's circuit is on only where the group's aspect lights the circuit, and a SPARE
circuit's drive is off (R6, R10, section 1.3). -/
def State.LitLaw (s : State) : Prop :=
  (∀ (g : GroupIx) (k : GroupConfig), (s.group g).config = some k → ∀ c ∈ k.circuits,
    (s.circuit c).drive.on = true → k.lights (s.group g).aspect s.flashOn c = true)
  ∧ ∀ c : CircuitIx, (s.circuit c).drive.on = true →
      ∃ (g : GroupIx) (k : GroupConfig), (s.group g).config = some k ∧ c ∈ k.circuits

/-- While SAFE_ENABLE is active every circuit that a present group's aspect lights is on, and the flash timebase runs
while a group flashes (R10, R14, R17, section 1.3). -/
def State.ShownLaw (s : State) : Prop :=
  s.output.safeEnable = true →
    (∀ (g : GroupIx) (k : GroupConfig), (s.group g).config = some k → ∀ c : CircuitIx,
      k.lights (s.group g).aspect s.flashOn c = true → (s.circuit c).drive.on = true)
    ∧ ((∃ g : GroupIx, (s.group g).aspect = .flashAmber) → s.output.flash ≠ none)

/-- From `s` to `t` a group that has left GREEN takes the instant as its green-off instant, and one whose aspect has
changed takes it as its aspect entry instant; neither moves otherwise, but for the green-off instants an all-off sets
(R10, R12, R14, R16). -/
def State.AspectTimes (s t : State) : Prop :=
  ∀ g : GroupIx,
    ((s.group g).aspect = .green → (t.group g).aspect ≠ .green → (t.group g).greenOff = s.now)
    ∧ ((t.group g).aspect ≠ (s.group g).aspect → (t.group g).aspectEntry = s.now)
    ∧ ((t.group g).greenOff ≠ (s.group g).greenOff → (t.group g).greenOff = s.now
        ∧ ((s.group g).aspect = .green ∨ t.output.safeEnable = false))
    ∧ ((t.group g).aspectEntry ≠ (s.group g).aspectEntry → (t.group g).aspectEntry = s.now)

/-- The laws of the guard's open requests: no group has two (R31), and none is answerable behind those before it: the
guard has judged (R32). They stand only while the sequencer runs a stage or an interstage, and a flash clearance runs
only while it does not (R35, R81). -/
def State.GuardLaw (s : State) : Prop :=
  (s.guard.map (·.group)).Nodup
    ∧ (∀ older r newer, s.guard = older ++ r :: newer → s.answerable older r = false)
    ∧ (s.guard ≠ [] → s.seq.state = .interstage ∨ s.seq.state = .stage)
    ∧ (s.junction.clearance ≠ none → s.seq.state ≠ .interstage ∧ s.seq.state ≠ .stage)

/-- The laws of the lamp outputs, with the laws of the supply. -/
def State.OutputInv (s : State) : Prop := s.SupplyInv ∧ s.UniqueLaw ∧ s.LitLaw

/-- The entries of the chain's preemption contexts and of the pending list. -/
def State.engaged (s : State) : List EntryIx :=
  s.pre.chain.filterMap (fun c => c.invoker.map (·.entry)) ++ s.pre.waiting.map (·.entry)

/-- The chain holds at most three contexts, no entry is engaged twice, and the pending list stands by
descending priority (R90, R92). -/
def State.PreemptLaw (s : State) : Prop :=
  s.pre.chain.length ≤ 3 ∧ s.engaged.Nodup ∧
    s.pre.waiting.Pairwise fun x y => y.priority ≤ x.priority

/-- A circuit has 1 to 4 heads and a residual of at most 8, 0 where it is INCANDESCENT; its references lie from 20
to 4000, its agreement count is 0 or 1, its cable count at most 3 and 0 without a counted condition, a training
holds fewer than four samples of an attempt of at most 3 (R7, R139, R143, R149, R151, R158, R160). -/
def Circuit.Law (k : Circuit) : Prop :=
  (1 ≤ k.heads ∧ k.heads ≤ 4 ∧ k.residual ≤ 8 ∧ (k.technology = .incandescent → k.residual = 0))
    ∧ (∀ r, k.lamp.fullRef = some r → 20 ≤ r ∧ r ≤ 4000) ∧ (∀ r, k.lamp.dimRef = some r → 20 ≤ r ∧ r ≤ 4000)
    ∧ k.lamp.agreement ≤ 1 ∧ k.cable.count ≤ 3 ∧ (k.cable.counted = none → k.cable.count = 0)
    ∧ (∀ t, k.lamp.training = some t → t.samples < 4 ∧ 1 ≤ t.attempt ∧ t.attempt ≤ 3)

/-- Every circuit record keeps its law. -/
def State.CircuitLaw (s : State) : Prop := ∀ c : CircuitIx, (s.circuit c).Law

/-! ## Frames: a state with what runs by itself left out -/

/-- A group record without its running fields: what it holds by a write. -/
def Group.still (r : Group) : Group :=
  { config := r.config, aspect := .dark, aspectEntry := 0, awaited := none, greenOff := 0 }

/-- A circuit record without its drive, its proving schedule and its watch candidate. -/
def Circuit.still (k : Circuit) : Circuit :=
  { k with
    drive := { on := false, lastSwitch := 0 }
    schedule := { litSince := none, nextDue := none, presented := none }
    cable := { k.cable with watchPresented := false } }

/-- A plan's fields and derived fields without the state it is used in. -/
def Plan.still : Plan → Plan
  | .free => .free
  | .draft b => .draft b
  | .valid _ b d => .valid .ready b d

/-- A preemption entry's configuration. -/
def Entry.still (r : Entry) : Entry := { r with stuck := false, asserted := false }

/-- The channel without its state, its short calibration and what is in progress. -/
def Channel.still (ch : Channel) : Channel :=
  { ch with
    state := .ready, shortDue := none, shortPresented := false, failFlag := false, owed := false,
    inFlight := none, calibration := none }

/-- What no change of an aspect, a stage, a preemption or a junction state, no lockout and no arbitration
moves: the state with the attention set, the groups' aspects and awaited greens, the drives and their
schedules, the guard, the plans' states, the sequencer, the chain, the pending list, the request states, the
owed selection, the channel's running items, the round and the junction state left out. -/
def State.still (s : State) : State :=
  { s with
    draws := 0
    link := { s.link with attention := 0 }
    groups := s.groups.map Group.still
    circuits := s.circuits.map Circuit.still
    output := { safeEnable := false, safeSince := 0, dim := s.output.dim, flash := none }
    guard := []
    plans := s.plans.map Plan.still
    seq := Sequencer.atReset 0
    pre := { s.pre with
      entries := s.pre.entries.map Entry.still, lastRefusal := none, chain := [], waiting := [] }
    sched := { s.sched with owed := false }
    channel := s.channel.still
    sup := { s.sup with roundPointer := 0, roundOffer := none }
    junction := { s.junction with state := .dark, entry := 0, clearance := none, lockout := none } }

/-- A circuit record without its two candidates for the channel. -/
def Circuit.unpresented (k : Circuit) : Circuit :=
  { k with
    schedule := { k.schedule with presented := none }
    cable := { k.cable with watchPresented := false } }

/-- What an arbitration (R122) and a renewal of the round offer (R157) do not move: the state with the
candidates, the round, and the channel's state and what it has in progress left out. -/
def State.unarbitrated (s : State) : State :=
  { s with
    circuits := s.circuits.map Circuit.unpresented
    channel := { s.channel with
      state := .ready, shortPresented := false, inFlight := none, calibration := none }
    sup := { s.sup with roundPointer := 0, roundOffer := none } }

/-- `t` is what the end of a step (log entry 6) makes of `u`: with no group found LOST, `u` with the round offer
renewed and the channel arbitrated (R122, R157), which move only their own items; and where red supervision hands a
cause, the lockout that follows keeps what is held. -/
def State.Ends (u t : State) : Prop :=
  t.still = u.still
    ∧ ((∀ g : GroupIx, u.redLost g = false) → t = u.renewOffer.arbitrate ∧ t.unarbitrated = u.unarbitrated)

/-! ## What a change of aspect does -/

/-- The channel after a void (R124, R131): READY with nothing in flight, or in the long calibration it owes. -/
def State.freedChannel (s : State) : Channel :=
  if s.channel.owed then s.channel.beginLong s.now else { s.channel with state := .ready, inFlight := none }

/-- The circuit switched at an instant (R17, R133): the drive; the lit period, opened with its next due instant a
settle time on, or closed; and the request withdrawn. The watch candidate is `presented`. -/
def Circuit.switchedAt (k : Circuit) (now : Instant) (on presented : Bool) : Circuit :=
  { k with
    drive := { on := on, lastSwitch := now }
    schedule := {
      litSince := if on then some now else none
      nextDue := if on then some (now + if k.technology = .led then 300 else 150) else none
      presented := none }
    cable := { k.cable with watchPresented := presented } }

/-- The circuit is among the named ones, and an order to the state given switches its drive: the state differs, and no
drive is switched on without SAFE_ENABLE (R17). -/
def State.Switches (s : State) (named : CircuitIx → Prop) (on : CircuitIx → Bool) (c : CircuitIx) : Prop :=
  named c ∧ (s.circuit c).drive.on ≠ on c ∧ (on c = true → s.output.safeEnable = true)

/-- `u` is `s` with each of the named drives ordered on or off (R17): a switch of the circuit whose measurement is in
flight voids it (R124), and a voided watch check is presented again where the circuit is still watched (R152); a
circuit switched on is withdrawn from the watch (R153); and nothing of another circuit or of the channel moves. -/
def State.Ordered (s u : State) (named : CircuitIx → Prop) (on : CircuitIx → Bool) : Prop :=
  (∀ c, s.Switches named on c → u.circuit c = (s.circuit c).switchedAt s.now (on c)
      ((s.watchInFlight c && u.watched c) || ((s.circuit c).cable.watchPresented && !on c)))
    ∧ (∀ c, ¬s.Switches named on c → u.circuit c = s.circuit c)
    ∧ (∀ w, s.channel.inFlight = some w → s.Switches named on w.circuit → u.channel = s.freedChannel)
    ∧ ((∀ w, s.channel.inFlight = some w → ¬s.Switches named on w.circuit) → u.channel = s.channel)

/-- `u` is `s` with SAFE_ENABLE fallen: every drive is off with its lit period closed (R17, R133), no circuit is
presented for the watch (R153), and the measurement in flight is voided, a dark one by the fall and a lit one by its
circuit's switch (R124, R125). -/
def State.PoweredOff (s u : State) : Prop :=
  u.output.safeEnable = false
    ∧ (∀ c : CircuitIx, u.circuit c =
        if (s.circuit c).drive.on = true then (s.circuit c).switchedAt s.now false false
        else { s.circuit c with cable := { (s.circuit c).cable with watchPresented := false } })
    ∧ (∀ w, s.channel.inFlight = some w →
        (∃ rq dark, w.kind = .dark rq dark) ∨ (s.circuit w.circuit).drive.on = true → u.channel = s.freedChannel)
    ∧ (s.channel.inFlight = none → u.channel = s.channel)

/-- `u` is `s` with group `g` in aspect `a` from now: the entry instant, the green-off instant of a green
left, and each of the group's drives ordered as the aspect asks, with what a switch does in the channel, the lamp
proving unit and the watch (R10, R16, R17, R124, R133, R153). Every other group keeps its aspect and every other
circuit its record. -/
def State.AspectChanged (s u : State) (g : GroupIx) (k : GroupConfig) (a : Aspect) : Prop :=
  (u.group g).aspect = a ∧ (u.group g).aspectEntry = s.now
    ∧ (u.group g).greenOff = (if (s.group g).aspect = .green ∧ a ≠ .green then s.now else (s.group g).greenOff)
    ∧ (∀ h : GroupIx, h ≠ g → (u.group h).aspect = (s.group h).aspect
        ∧ (u.group h).aspectEntry = (s.group h).aspectEntry ∧ (u.group h).greenOff = (s.group h).greenOff)
    ∧ s.Ordered u (· ∈ k.circuits) (k.lights a u.flashOn)
    ∧ u.output.safeEnable = s.output.safeEnable ∧ u.junction.state = s.junction.state
    ∧ u.still = s.still

/-! ## What a transition of stages does -/

/-- The min-green expiries that a condition's groups hold have all passed at an instant (R76, R95). -/
def State.ExpiredAt (s : State) (gs : GroupIx → Prop) (at_ : Instant) : Prop :=
  ∀ g, gs g → ∀ a, s.seq.greenStarts.get g = some a → a + 100 * s.minGreen g ≤ at_

/-- `u` is `s` with a truncation or a return begun now into a stage of a green set: the groups green and not in it
lose green at once, or together at the latest of their min-green expiries; those in it and not green are requested
or awaited; the others keep their aspect; and the stage begins when every group of it is green and every loser has
lost green (R95, R102). -/
def State.Transfers (s u : State) (stage : Nat) (target : List GroupIx) : Prop :=
  let loses := fun g => (s.group g).aspect = .green ∧ g ∉ target
  u.seq.stage = some stage ∧ u.seq.interStart = s.now
    ∧ u.seq.gaining = (target.filter fun g => (s.group g).aspect != .green)
    ∧ (∀ g, ¬loses g → (u.group g).aspect = (s.group g).aspect)
    ∧ (s.ExpiredAt loses s.now → u.seq.loseAt = none ∧ ∀ g k, loses g → (s.group g).config = some k →
        (u.group g).aspect = if k.vehicle.isSome then .amber else .red)
    ∧ (¬s.ExpiredAt loses s.now → u.groups.map (·.aspect) = s.groups.map (·.aspect)
        ∧ ∃ a, u.seq.loseAt = some a ∧ s.ExpiredAt loses a ∧ ∀ b, b < a → ¬s.ExpiredAt loses b)
    ∧ (∀ g ∈ target, (s.group g).config ≠ none →
        (s.group g).aspect = .red ∨ (s.group g).aspect = .redAmber ∨ (s.group g).aspect = .amber →
        (u.group g).awaited ≠ none ∨ ∃ r ∈ u.guard, r.group = g ∧ r.change = s.now)
    ∧ (u.seq.state = .interstage ∨ u.seq.state = .stage)
    ∧ (u.seq.state = .stage ↔ (∀ g ∈ target, (u.group g).aspect = .green)
        ∧ ∀ g, loses g → (u.group g).aspect ≠ .green)

/-! ## Preemption -/

/-- The condition on which each entry check fails (R90). -/
def State.EntryFails (s : State) (e : EntryIx) : PCode → Prop
  | .range => s.pre.length < number e
  | .absent => (s.entry e).config = none
  | .state => s.junction.state ≠ .running ∨ s.seq.state = .clearance
  | .plan => ∀ c, (s.entry e).config = some c → (s.plan c.plan).cls ≠ some .preempt
      ∨ ((s.plan c.plan).phase ≠ some .ready ∧ (s.plan c.plan).phase ≠ some .invoked)
  | .busy => ∃ c, (s.entry e).config = some c ∧ (s.plan c.plan).phase = some .invoked
  | .stuck => (s.entry e).stuck = true
  | .depth => 3 ≤ s.pre.chain.length

/-- The record of a context interrupted in its stage now (R94): the stage, the green elapsed and, in its dwell, the
dwell elapsed; and for the base context the cycle position, the excess and the slack stage's length. -/
def State.interrupted (s : State) (c : Context) : Context :=
  { c with
    stage := s.seq.stage.getD c.stage
    elapsed := tenths (s.now - s.seq.greenStart)
    slackLength := if c.invoker = none then s.seq.slackLength else none
    position := if c.invoker = none then s.seq.position.map fun p => p.reached s.now else none
    excess := if c.invoker = none then s.seq.excess else 0
    dwell := if c.inDwell then c.dwell + tenths (s.now - s.seq.greenStart) else c.dwell }

/-- `w` is `s` with stage `i` of the plan of the running context `c` begun now, at the end of the interstage into it. A
base stage (R65, R67, R68, R73): the cycle position is the stage's green start, or for a resumed stage the restored one
(R102), and absent where a preemption waits and it was absent (R78); the interstage's excess over the nominal joins the
account; a slack stage takes its portion of the remainder and pays the account within its floor, and its length is
fixed for the cycle; any other runs its effective split; a resumed stage runs what is left, and not before its min
greens (R102). In STEPPED mode no length is held (R76). A preemption stage runs its effective split or what is left of
it, and the last begins the dwell (R96). The rounding of the excess is free (log entry 7); the position of a resumed stage which runs already (log entry 23), and
the account and the slack length under a waiting preemption where the position was absent (log entry 35), are the
model's readings. -/
def State.StageBegun (s w : State) (c : Context) (b : PlanBody) (d : Derived) (i : Nat) : Prop :=
  w.plans = s.plans ∧ w.junction = s.junction ∧ w.guard.Sublist s.guard
    ∧ w.seq = { s.seq with
        state := .stage, greenStart := s.now, greenStarts := w.seq.greenStarts, position := w.seq.position,
        excess := w.seq.excess, remainder := w.seq.remainder, length := w.seq.length, loseAt := none,
        holdMinGreen := w.seq.holdMinGreen, slackLength := w.seq.slackLength, dwellOver := w.seq.dwellOver }
    ∧ (c.invoker = none → w.pre = s.pre)
    ∧ (c.invoker ≠ none → w.seq.length = some (d.split i - s.seq.resumed.getD 0)
        ∧ w.seq.holdMinGreen = s.seq.resumed.isSome ∧ w.seq.dwellOver = false
        ∧ w.seq.position = s.seq.position ∧ w.seq.remainder = s.seq.remainder
        ∧ (let r := if b.stages.length ≤ i then { c with inDwell := true } else c
          w.pre = { s.pre with chain := s.pre.chain.set s.seq.above r }))
    ∧ ∀ x, c.invoker = none → d.base = some x →
      let start := d.nominalStart x b.slackIndex i + d.interstage i
      let boundary := d.nominalStart x b.slackIndex (i + 1)
      let account := s.seq.excess + (tenths (s.now - s.seq.interStart) - d.interstage i)
      let portion : Nat × Nat := match s.seq.remainder with
        | none => (0, 0)
        | some ⟨.lengthen, a⟩ => (min (b.cycleTime / 8) a, 0)
        | some ⟨.shorten, a⟩ => (0, min (min (b.cycleTime / 8) (x.slackSplit - x.slackFloor)) a)
      let slack := max x.slackFloor (x.slackSplit + portion.1 - (portion.2 + account))
      (s.junction.mode = .stepped → w.seq.length = none ∧ w.seq.holdMinGreen = false
        ∧ w.seq.position = s.seq.position ∧ w.seq.excess = s.seq.excess
        ∧ w.seq.remainder = s.seq.remainder ∧ w.seq.slackLength = s.seq.slackLength)
      ∧ (s.junction.mode ≠ .stepped →
        (s.seq.resumed = none →
          w.seq.position = (if s.seq.above = 0 ∨ s.seq.position ≠ none then
              some { value := start, since := some s.now, limit := boundary } else none)
          ∧ w.seq.holdMinGreen = false
          ∧ (i = b.slackIndex → w.seq.length = some slack ∧ w.seq.slackLength = some slack
              ∧ w.seq.excess = 0 ∧ w.seq.remainder = match s.seq.remainder with
                | none => none
                | some r =>
                  if r.amount ≤ portion.1 + portion.2 then none
                  else some { r with amount := r.amount - (portion.1 + portion.2) })
          ∧ (i ≠ b.slackIndex → w.seq.length = some (d.split i) ∧ w.seq.excess = account
              ∧ w.seq.remainder = s.seq.remainder ∧ w.seq.slackLength = s.seq.slackLength))
        ∧ ∀ e, s.seq.resumed = some e →
          w.seq.length = some ((if i = b.slackIndex then s.seq.slackLength.getD (d.split i) else d.split i) - e)
          ∧ w.seq.holdMinGreen = true ∧ w.seq.excess = account ∧ w.seq.remainder = s.seq.remainder
          ∧ w.seq.slackLength = s.seq.slackLength
          ∧ (s.seq.position = none → w.seq.position = none)
          ∧ (∀ p, s.seq.position = some p → w.seq.position = some {
              value := if p.since = none then p.value else start, since := some s.now, limit := boundary }))

/-- `u` is `w`, in whose interstage's end a stage has just begun, with the truncation of the preemptions accepted over
that interstage begun now: the record of the context that ran holds the stage just begun, with green elapsed 0, and for
the base context the position, the account and the slack length of its green start; the other records stand; and the
top context's stage 1 is led to (R94, R95). -/
def State.TruncatesBegun (w u : State) : Prop :=
  ∀ (c y : Context) (b : PlanBody) (d : Derived), w.pre.chain[w.seq.above]? = some c →
    w.pre.chain.head? = some y → y.invoker ≠ none → w.planData y.plan = some (b, d) →
    w.Transfers u 1 (b.greens 1) ∧ u.seq.position = none ∧ u.seq.excess = 0 ∧ u.seq.above = 0
      ∧ u.pre.chain.head? = some (if u.seq.state = .stage ∧ b.stages.length ≤ 1 then { y with inDwell := true } else y)
      ∧ u.pre.chain.tail = (w.pre.chain.set w.seq.above
          { w.interrupted c with elapsed := 0, dwell := c.dwell }).tail
      ∧ u.pre = { w.pre with chain := u.pre.chain } ∧ u.plans = w.plans ∧ u.junction = w.junction
      ∧ u.still = w.still

/-- `u` is `w`, or, where preemptions have been accepted over the interstage of `s` and its stage begins in `w`, `w`
with their truncation begun (R94). -/
def State.EndsInterstage (s w u : State) : Prop :=
  let ended := s.seq.above ≠ 0 ∧ s.seq.state = .interstage ∧ w.seq.state = .stage
  (¬ended → u = w) ∧ (ended → w.TruncatesBegun u)

/-- `x` is `w` with the assertion of an entry judged, whose request state is ASSERTED already: refused with its
code, joined to the pending list behind its equals, or accepted, and then the truncation begun from a stage, or
left to the end of the interstage (R91, R92, R94, R95). The record pushed over is written, and none when another
acceptance in the same interstage has been before (R93, R94). The transaction and what an acceptance moves are left to
the fields named. -/
def State.AssertionJudged (w x : State) (e : EntryIx) : Prop :=
  let own : Waiting := { entry := e, priority := w.entryPriority e }
  x.still = { w.still with link := x.still.link } ∧ (x.entry e).asserted = true
    ∧ (∀ code, w.entryCheck e = some code → code ≠ .depth →
        x = { w with
          pre := { w.pre with lastRefusal := some (e, code) },
          link := { w.link with
            attention := w.link.attention ||| BitVec.twoPow 18 15, transaction := x.link.transaction } })
    ∧ (w.entryCheck e = some .depth ∨ (w.entryCheck e = none ∧ w.outranks own.priority = false) →
        x = { w with
          pre := { w.pre with waiting := x.pre.waiting },
          link := { w.link with transaction := x.link.transaction } }
        ∧ x.pre.waiting.Perm (own :: w.pre.waiting)
        ∧ (w.pre.waiting.Pairwise (fun y z => z.priority ≤ y.priority) → x.pre.waiting =
            (w.pre.waiting.filter fun y => own.priority ≤ y.priority)
              ++ own :: w.pre.waiting.filter fun y => y.priority < own.priority))
    ∧ (∀ c, w.entryCheck e = none → (w.entry e).config = some c → w.outranks c.priority = true →
        (∃ y rest, x.pre.chain = y :: rest ∧ y.plan = c.plan
          ∧ y.invoker = some { entry := e, priority := c.priority }
          ∧ rest.map (fun z => (z.plan, z.invoker)) = w.pre.chain.map fun z => (z.plan, z.invoker))
        ∧ (x.plan c.plan).phase = some .invoked ∧ x.holds .preemptStart = true
        ∧ x.seq.remainder = none ∧ x.seq.latch = false ∧ x.pre.waiting = w.pre.waiting
        ∧ x.seq.sync = (if w.seq.sync = .none ∨ w.seq.sync = .lost then w.seq.sync else .notHeld)
        ∧ (w.seq.state = .interstage → x.seq.state = .interstage ∧ x.seq.stage = w.seq.stage
            ∧ x.seq.above = w.seq.above + 1 ∧ x.groups = w.groups
            ∧ (w.seq.above ≠ 0 → x.pre.chain.tail = w.pre.chain)
            ∧ ∀ z rest, w.seq.above = 0 → w.pre.chain = z :: rest →
                x.pre.chain.tail = { w.interrupted z with elapsed := 0, dwell := z.dwell } :: rest)
        ∧ (∀ b d z rest, w.seq.state = .stage → w.seq.above = 0 → w.planData c.plan = some (b, d) →
            w.pre.chain = z :: rest → x.pre.chain.tail = w.interrupted z :: rest
              ∧ x.seq.excess = 0 ∧ w.Transfers x 1 (b.greens 1)))

/-- `x` is `w` with the assertions of a list of entries judged one after another, but for those in the chain or in
the pending list by then (R88). -/
def State.JudgedInTurn : List EntryIx → State → State → Prop
  | [], w, x => x = w
  | e :: l, w, x =>
    (e ∈ w.engaged → State.JudgedInTurn l w x)
      ∧ (e ∉ w.engaged → ∃ y : State, w.AssertionJudged y e ∧ y.link.transaction = w.link.transaction
          ∧ State.JudgedInTurn l y x)

/-- A try of the pending list drops its first elements, each above the running priority and failing a refusing
check, and comes to an element that does neither, or to the list's end (R100). -/
def State.Drops (s : State) (dropped stay : List Waiting) : Prop :=
  s.pre.waiting = dropped ++ stay
    ∧ (∀ w ∈ dropped, s.outranks w.priority = true
        ∧ ∃ code, s.entryCheck w.entry = some code ∧ code ≠ .depth)
    ∧ ∀ w later, stay = w :: later → s.outranks w.priority = false
        ∨ s.entryCheck w.entry = none ∨ s.entryCheck w.entry = some .depth

/-- The state after a try of the pending list has dropped what it drops: PREEMPT_REFUSED, and the last refusal that
of the last one dropped (R100). -/
def State.afterDrops (s : State) (dropped stay : List Waiting) : State :=
  { s with
    pre := { s.pre with
      waiting := stay
      lastRefusal := (dropped.getLast?.bind fun w =>
        (s.entryCheck w.entry).map fun code => (w.entry, code)).or s.pre.lastRefusal }
    link := if dropped.isEmpty then s.link else (s.raise .preemptRefused).link }

/-! ## What commands of one shape leave -/

/-- Every READY and SELECTED plan is DRAFT, a pending plan so demoted is no longer pending, and the sequencer
keeps all else (R30, R47). -/
def State.Demotes (s t : State) : Prop :=
  (∀ p : PlanIx, t.plan p = (s.plan p).demote)
    ∧ (∀ p : PlanIx, t.seq.pendingPlan = some p ↔
        s.seq.pendingPlan = some p ∧ (s.plan p).phase ≠ some .selected)
    ∧ t.seq = { s.seq with pendingPlan := t.seq.pendingPlan }

/-- The link differs in the standing reply alone. -/
def State.OnlyReplies (s t : State) (r : Reply) : Prop :=
  t.link = { s.link with transaction := .replying r }

/-- The reply of a command accepted without a payload. -/
def okReply : Reply := { status := .ok, payload := .empty }

/-- The port takes a request: RESET_N is not held, and no request has been taken since the chip select went
active, nor has a reset discarded the transaction (R1, R175). -/
abbrev State.Listens (s : State) : Prop := s.resetHeld = false ∧ s.link.transaction = .idle

/-! ## Selections and switch points -/

/-- SELECT_PLAN is refused STATE (R79). -/
abbrev State.Barred (s : State) : Prop :=
  s.junction.state = .startFlash ∨ s.junction.state = .startRed ∨ s.seq.state = .clearance

/-- The plan is one that SELECT_PLAN accepts past its STATE check (R79). -/
abbrev State.Acceptable (s : State) (p : PlanIx) : Prop :=
  (s.plan p).cls = some .base ∧ ((s.plan p).phase = some .ready
    ∨ (s.junction.state = .running ∧ ((s.plan p).phase = some .selected ∨ (s.plan p).phase = some .active)))

/-- `t` is `s` with an acceptable plan selected: current at once outside RUNNING; else a READY one SELECTED and
pending, a SELECTED one left, and for an ACTIVE one the pending plan withdrawn (R79, R80). -/
def State.PlanSelected (s t : State) (p : PlanIx) : Prop :=
  (s.junction.state ≠ .running → t.seq = { s.seq with current := some p } ∧ t.plans = s.plans
      ∧ t.holds .planChanged = (s.holds .planChanged || s.seq.current != some p))
    ∧ (s.junction.state = .running → t.holds .planChanged = s.holds .planChanged
      ∧ ((s.plan p).phase = some .ready → t.seq = { s.seq with pendingPlan := some p }
          ∧ t.plan p = (s.plan p).toPhase .selected
          ∧ ∀ q : PlanIx, q ≠ p → t.plan q =
              if (s.plan q).phase = some .selected then (s.plan q).toPhase .ready else s.plan q)
      ∧ ((s.plan p).phase = some .selected → t.seq = s.seq ∧ t.plans = s.plans)
      ∧ ((s.plan p).phase = some .active → t.seq = { s.seq with pendingPlan := none }
          ∧ ∀ q : PlanIx, t.plan q =
              if s.seq.pendingPlan = some q then (s.plan q).toPhase .ready else s.plan q))

/-- `t` is `s` with the schedule's selection of a plan carried out: none under a hold, owed while SELECT_PLAN is
barred, else as a SELECT_PLAN, or SCHEDULE_PLAN_INVALID (R112, R113). -/
def State.ScheduleSelected (s t : State) (p : PlanIx) : Prop :=
  (s.sched.hold = true ∨ s.Barred ∨ ¬s.Acceptable p → t.seq = s.seq ∧ t.plans = s.plans)
    ∧ (s.sched.hold = true → t.sched.owed = s.sched.owed)
    ∧ (s.sched.hold = false → (t.sched.owed = true ↔ s.Barred)
      ∧ (¬s.Barred → (s.Acceptable p → s.PlanSelected t p)
          ∧ (¬s.Acceptable p → t.holds .schedulePlanInvalid = true)))

/-- `t` is `s` with the DIM state set (R20, R136): at the level held nothing moves; a change begins the settling
interval, ends every pending result, and withdraws every presented request and every next due instant. No drive is
switched. -/
def State.DimSet (s t : State) (on : Bool) : Prop :=
  t.output = { s.output with dim := on }
    ∧ (s.output.dim = on → t.sup = s.sup ∧ ∀ c : CircuitIx, t.circuit c = s.circuit c)
    ∧ (s.output.dim ≠ on → t.sup = { s.sup with settlingEnd := some (s.now + 1000) }
        ∧ ∀ c : CircuitIx, t.circuit c = { s.circuit c with
            lamp := { (s.circuit c).lamp with pendingResult := none, agreement := 0 },
            schedule := { (s.circuit c).schedule with nextDue := none, presented := none } })

/-- `t` is `s` with a switch point applied: it is current, its dim action has the effect of the DIM command, and its
selection is carried out (R110 to R112). -/
def State.Applied (s t : State) (x : SwitchPoint) : Prop :=
  t.sched.current = some x.time
    ∧ s.DimSet t (match x.dim with | .on => true | .off => false | .keep => s.output.dim)
    ∧ s.ScheduleSelected t x.plan

/-- The current point: the latest at or before the present minute, or, with none there, the last (R110). -/
def Schedule.Current (d : Schedule) (x : SwitchPoint) : Prop :=
  d.clockSet = true ∧ x ∈ d.points
    ∧ ((x.time ≤ d.clock / 60 ∧ ∀ y ∈ d.points, y.time ≤ d.clock / 60 → y.time ≤ x.time)
      ∨ ∀ y ∈ d.points, d.clock / 60 < y.time ∧ y.time ≤ x.time)

/-- `t` is `s` with the current point judged at a SET_CLOCK, an insert or a delete: applied when it differs from
the one held or is the one at the time an insert has replaced (R110). -/
def State.CurrentJudged (s t : State) (replaced : Option Nat) : Prop :=
  (t.sched.clockSet = false ∨ t.sched.points = [] →
      t.sched.current = none ∧ t.sched.owed = false ∧ s.DimSet t s.output.dim ∧ t.seq = s.seq
        ∧ t.plans = s.plans)
    ∧ ∀ x, t.sched.Current x →
      (s.sched.current ≠ some x.time ∨ replaced = some x.time → s.Applied t x)
      ∧ (s.sched.current = some x.time → replaced ≠ some x.time →
          t.sched.current = s.sched.current ∧ t.sched.owed = s.sched.owed ∧ s.DimSet t s.output.dim
          ∧ t.seq = s.seq ∧ t.plans = s.plans)

/-- A group record stored or retired in DARK or LOCKOUT (R2, R4, R6, R47). -/
def State.GroupStored (s t : State) (g : GroupIx) (k : Option GroupConfig) : Prop :=
  t.group g = { s.group g with
      config := k, aspect := .dark, awaited := if k.isSome then (s.group g).awaited else none }
    ∧ (∀ h : GroupIx, h ≠ g → t.group h = s.group h)
    ∧ (∀ c : CircuitIx, t.circuit c =
        if s.assignment c = t.assignment c then s.circuit c
        else { s.circuit c with lamp := { (s.circuit c).lamp with
                 state := .unmeasured, pendingResult := none, agreement := 0, cause := none,
                 training := none } })
    ∧ s.Demotes t ∧ s.OnlyReplies t okReply
    ∧ t = { s with groups := t.groups, circuits := t.circuits, plans := t.plans, seq := t.seq,
                   link := t.link }

/-- The outputs off at `s.now` by an all-off (R15, R16, R17). -/
def State.AllOff (s t : State) : Prop :=
  t.output.safeEnable = false ∧ (∀ c : CircuitIx, (t.circuit c).drive.on = false)
    ∧ (∀ g : GroupIx, (t.group g).greenOff = s.now)
    ∧ (∀ g : GroupIx, (s.group g).config ≠ none →
        (t.group g).aspect = .dark ∧ (t.group g).awaited = none)
    ∧ t.guard = [] ∧ t.sup.roundOffer = none
    ∧ (∀ c : CircuitIx, (t.circuit c).cable.watchPresented = false)

/-- A plan that is returned to READY when RUNNING is left: the pending one, the current one, or that of a preemption
context (R82, R103). -/
def State.ReturnedAtExit (s : State) (p : PlanIx) : Prop :=
  s.seq.pendingPlan = some p ∨ s.seq.current = some p ∨ ∃ c ∈ s.pre.chain, c.invoker ≠ none ∧ c.plan = p

/-- What RUNNING leaves when it is left (R82, R103): the sequencer IDLE with its running items cleared and nothing
pending, the chain and the pending list empty, the plans in use READY. -/
def State.RunningLeft (s t : State) : Prop :=
  t.seq.state = .idle ∧ t.seq.stage = none ∧ t.seq.position = none ∧ t.seq.remainder = none
    ∧ t.seq.excess = 0 ∧ t.seq.latch = false ∧ t.seq.sync = .none ∧ t.seq.lastPulse = none
    ∧ t.seq.watchStart = none ∧ t.seq.greenStarts = Table.replicate 16 none ∧ t.seq.pendingPlan = none
    ∧ t.pre.chain = [] ∧ t.pre.waiting = []
    ∧ (∀ p, s.ReturnedAtExit p → t.plan p = (s.plan p).toPhase .ready)
    ∧ (∀ p, ¬s.ReturnedAtExit p → t.plan p = s.plan p)

/-- `t` is `w` with a selection the schedule owes carried out, where SELECT_PLAN's STATE check passes in `w`
(R113). -/
def State.OwedPaid (w t : State) : Prop :=
  (w.sched.owed = false → t.seq = w.seq ∧ t.plans = w.plans ∧ t.sched = w.sched)
    ∧ ∀ x : SwitchPoint, w.sched.owed = true → w.sched.hold = false → w.sched.current = some x.time →
        w.pointAt x.time = some x → w.ScheduleSelected t x.plan

/-- The junction has left `s` for the DARK, LOCKOUT or FLASH of `t`: RUNNING left, the current plan kept, and then an
owed selection paid, which makes its plan current at once (R82, R113). -/
def State.LeftAndPaid (s t : State) : Prop :=
  ∃ w : State, w.junction.state = t.junction.state ∧ w.sched = s.sched ∧ w.seq.current = s.seq.current
    ∧ w.holds .planChanged = s.holds .planChanged
    ∧ (s.junction.state = .running → s.RunningLeft w)
    ∧ (s.junction.state ≠ .running → w.plans = s.plans
        ∧ w.seq = { s.seq with greenStarts := w.seq.greenStarts })
    ∧ w.OwedPaid t ∧ t.plans = w.plans ∧ t.seq = { w.seq with current := t.seq.current }

/-- A power-on or line reset's values (the first reset columns; R1, R5, R9, R19, R21, R23, R49, R61, R84, R87,
R104, R105, R116, R132, R151, R165, R179, R181, R182), and the instants counted from `t.now`. The items the columns do
not give (log entry 17) are left out. -/
def State.AtReset (t : State) : Prop :=
  (t.link.lock = .openLevel ∧ t.link.attention = 0 ∧ ∀ k : Attention, t.link.mask.getLsbD k.bit = true)
    ∧ (∀ g : GroupIx, (t.group g).config = none ∧ (t.group g).aspect = .dark
        ∧ (t.group g).aspectEntry = t.now ∧ (t.group g).awaited = none ∧ (t.group g).greenOff = t.now)
    ∧ (∀ c : CircuitIx, (t.circuit c).technology = .incandescent ∧ (t.circuit c).heads = 1
        ∧ (t.circuit c).residual = 0 ∧ (t.circuit c).drive = { on := false, lastSwitch := t.now }
        ∧ (t.circuit c).schedule = { litSince := none, nextDue := none, presented := none }
        ∧ (t.circuit c).lamp = {
            fullRef := none, dimRef := none, state := .unmeasured, pendingResult := none, agreement := 0,
            lastCurrent := 0, lit := 0, cause := none, training := none }
        ∧ (t.circuit c).cable = { (t.circuit c).cable with
            baseline := none, lastVoltage := 0, lastLeakage := 0, lastCharge := 0, state := .noBaseline,
            count := 0, counted := none, acknowledged := false, learning := none, lastCheck := t.now,
            watchPresented := false })
    ∧ (t.output.safeEnable = false ∧ t.output.dim = false ∧ t.output.flash = none)
    ∧ (∀ l g : GroupIx, l ≠ g → t.intergreen l g = some 50) ∧ t.guard = []
    ∧ (∀ p : PlanIx, t.plan p = .free)
    ∧ t.seq = { t.seq with
        state := .idle, current := none, pendingPlan := none, stage := none, interStart := t.now,
        greenStart := t.now, greenStarts := Table.replicate 16 none, position := none, excess := 0,
        remainder := none, sync := .none, lastPulse := none, watchStart := none, latch := false }
    ∧ (t.pre.length = 0 ∧ t.pre.chain = [] ∧ t.pre.waiting = [] ∧ t.pre.lastRefusal = none
        ∧ (∀ e : EntryIx, t.entry e = { config := none, stuck := false, asserted := false })
        ∧ ∀ n : LineIx, (t.pre.lines.get n).asserted = false
          ∧ ((t.pre.lines.get n).active = true → (t.pre.lines.get n).since = t.now))
    ∧ (t.sched.clock = 0 ∧ t.sched.clockSet = false ∧ t.sched.nextSecond = t.now + 1000
        ∧ t.sched.points = [] ∧ t.sched.current = none ∧ t.sched.hold = false ∧ t.sched.owed = false)
    ∧ (t.channel.state = .calLong ∧ t.channel.offset = 0 ∧ t.channel.gain = 1024
        ∧ t.channel.shortDue = none ∧ t.channel.failFlag = false ∧ t.channel.owed = false
        ∧ t.channel.inFlight = none ∧ t.channel.lastRecord = none
        ∧ t.channel.calibration = some { kind := .long, start := t.now, attempt := 1 })
    ∧ (t.sup.settlingEnd = none ∧ t.sup.roundPointer = 0 ∧ t.sup.roundOffer = none)
    ∧ (t.junction.mode = .free ∧ t.junction.startFlash = 100 ∧ t.junction.startRed = 50
        ∧ t.junction.allRed = 30 ∧ t.junction.state = .dark ∧ t.junction.entry = t.now
        ∧ t.junction.clearance = none ∧ t.junction.lockout = none)

/-! ## The commands of the link -/

/-- The numbers stand one behind another in the bytes, with any bytes before, between and behind them: each whole, in
at least the width its range needs, its most significant byte first (R175); the code of one that may be negative is
open (log entry 50). -/
def InTurn : List WideNumber → List Byte → Prop
  | [], _ => True
  | x :: l, bytes => ∃ (before rest : List Byte) (width : Nat),
      bytes = before ++ x.bytes width ++ rest ∧ x.least ≤ width ∧ x.extent < 256 ^ width ∧ InTurn l rest

/-- The numbers stand in the bytes, in some order, each with its most significant byte first (R175). -/
def HoldsNumbers (bytes : List Byte) (numbers : List WideNumber) : Prop :=
  ∃ order, order.Perm numbers ∧ InTurn order bytes

/-- Whether a row is a request of the link, a command or one the port refuses, and not an event or a reset
(R175). -/
def isCommand (i : Instr) : Bool :=
  match i with
  | .requestRefused _ => true
  | _ => i.opcode.isSome

end Sys2Proof.Machine
end

