-- ==== Sys2Proof/WellFormed.lean ====
section
/-! DEFINITION. WellFormed: which operands a command can carry at the pins and lines. A number the
link carries is judged by the command's own RANGE check, not here; only what no link frame, line or
converter can deliver is ill-formed. -/

namespace Sys2Proof

/-- The converter's count (spec/07 section 7.2): a signed count from -512 to 4095. -/
def inConverterRange (r : Int) : Bool := decide (-512 ≤ r) && decide (r ≤ 4095)

/-- A calibration attempt's readings: `n` of each reference, each in the converter's range (R126). -/
def readingsOk (n : Nat) (zero span : List Int) : Bool :=
  zero.length == n && span.length == n && zero.all inConverterRange && span.all inConverterRange

/-- A number of a group, circuit or line from 1 to `n`. -/
def numbered (n k : Nat) : Bool := decide (1 ≤ k) && decide (k ≤ n)

/-- Whether the command's operands are ones its source can deliver. Events about a group, a circuit or
a PRQ line name one that exists; readings are converter counts; a request frame, begun or whole, is no longer than an
opcode, a length, 60 bytes of payload and a CRC. -/
def Instr.wellFormed : Instr → Bool
  | .litWindowEnd raw => inConverterRange raw
  | .darkWindowEnd v l q => inConverterRange v && inConverterRange l && inConverterRange q
  | .longCalibrationEnd zero span => readingsOk 40 zero span
  | .shortCalibrationAttemptEnd zero span => readingsOk 2 zero span
  | .prqLineChange line _ => numbered 4 line
  | .prqAsserted line => numbered 4 line
  | .prqReleased line => numbered 4 line
  | .redAmberBegin group => numbered 16 group
  | .greenStart group => numbered 16 group
  | .amberEnd group => numbered 16 group
  | .provingRequestDue circuit => numbered 48 circuit
  | .provingRequestDrop circuit => numbered 48 circuit
  | .watchCheckDue circuit => numbered 48 circuit
  | .monitorLate circuit => numbered 48 circuit
  | .watchAgeLimit circuit => numbered 48 circuit
  | .roundEligible circuit => numbered 48 circuit
  | .requestRefused frame => decide (frame.length ≤ 64)
  | .readRecord .. => true
  | .writeRecordGroup .. => true
  | .updateFieldsGroup .. => true
  | .retireRecordGroup .. => true
  | .writeRecordCircuit .. => true
  | .updateFieldsCircuit .. => true
  | .writeRecordConflict .. => true
  | .updateFieldsConflict .. => true
  | .writeRecordPlan .. => true
  | .updateFieldsPlan .. => true
  | .retireRecordPlan .. => true
  | .writeRecordPreemptEntry .. => true
  | .updateFieldsPreemptEntry .. => true
  | .retireRecordPreemptEntry .. => true
  | .writeRecordPreemptTable .. => true
  | .writeRecordJunction .. => true
  | .updateFieldsJunction .. => true
  | .recordWriteUnsupported .. => true
  | .forgetCircuit .. => true
  | .insertSwitchpoint .. => true
  | .deleteSwitchpoint .. => true
  | .validatePlan .. => true
  | .learnLamp .. => true
  | .learnLampAll .. => true
  | .learnCable .. => true
  | .learnCableAll => true
  | .ackCable .. => true
  | .ackCableAll => true
  | .recalibrate => true
  | .dimOn => true
  | .dimOff => true
  | .readStatus => true
  | .readAttention => true
  | .setAttentionMask .. => true
  | .lock .. => true
  | .start => true
  | .flash => true
  | .dark => true
  | .lockout => true
  | .clearLockout => true
  | .softReset => true
  | .selectPlan .. => true
  | .releaseToSchedule => true
  | .setModeFree => true
  | .setModeSynced => true
  | .setModeStepped => true
  | .advance => true
  | .preemptAssert .. => true
  | .preemptRelease .. => true
  | .setClock .. => true
  | .chipSelectReleased => true
  | .powerOnReset => true
  | .resetNAsserted => true
  | .lineReset => true
  | .syncPulse => true
  | .advanceLineActive => true
  | .flashHalf => true
  | .stageEnd => true
  | .latchTaken => true
  | .clearanceLose => true
  | .truncationLose => true
  | .dwellEnd => true
  | .maxDwell => true
  | .syncWatchExpiry => true
  | .clockSecond => true
  | .startFlashEnd => true
  | .startRedEnd => true
  | .allRedEnd => true
  | .shortCalibrationDue => true
  | .settlingEnd => true

end Sys2Proof
end

