-- ==== Sys2Proof/Certificates/Slice0/Obligations.lean ====
section
/-! DEFINITION. Obligations: the statements for the provers. -/

open Sys2Proof Sys2Proof.Machine

/-! ## The machine -/

/-- The command at the front of the queue is run on the state with the queue's rest. -/
def Obligations.StepRunsTheFrontCommand : Prop :=
  ∀ (i : Instr) (rest : List Instr) (s : State),
    step { s with pending := i :: rest } = exec i { s with pending := rest }

/-- The model's choice (log entries 2, 5): on an empty queue one millisecond passes, but that a due event, of
operands its source can deliver, is queued first, and while RESET_N is held only time passes; an event that
comes while its condition does not hold, or names no group, circuit or line, changes nothing; and every event
whose condition holds is among those due. -/
def Obligations.IdleStepsAndEvents : Prop :=
  (∀ s : State, s.pending = [] →
    (s.resetHeld = true ∨ s.dueEvents = [] → step s = .next { s with now := s.now + 1 }) ∧
    (s.resetHeld = false → s.dueEvents ≠ [] → ∃ i ∈ s.dueEvents, i.wellFormed = true ∧
      step s = .next { s with pending := [i], draws := s.draws + 1 }))
  ∧ (∀ (s : State) (g : GroupIx) (c : CircuitIx) (n : LineIx),
    (s.redAmberDue g = false → exec (.redAmberBegin (number g)) s = .next s)
    ∧ (s.greenDue g = false → exec (.greenStart (number g)) s = .next s)
    ∧ (s.amberDue g = false → exec (.amberEnd (number g)) s = .next s)
    ∧ (s.flashDue = false → exec .flashHalf s = .next s)
    ∧ (s.stageEndDue = false → exec .stageEnd s = .next s)
    ∧ (s.latchDue = false → exec .latchTaken s = .next s)
    ∧ (s.loseDue .clearance = false → exec .clearanceLose s = .next s)
    ∧ (s.loseDue .interstage = false → exec .truncationLose s = .next s)
    ∧ (s.dwellEndDue = false → exec .dwellEnd s = .next s)
    ∧ (s.maxDwellDue = false → exec .maxDwell s = .next s)
    ∧ (s.syncExpired = false → exec .syncWatchExpiry s = .next s)
    ∧ (s.now < s.sched.nextSecond → exec .clockSecond s = .next s)
    ∧ (s.startFlashEndDue = false → exec .startFlashEnd s = .next s)
    ∧ (s.startRedEndDue = false → exec .startRedEnd s = .next s)
    ∧ (s.allRedEndDue = false → exec .allRedEnd s = .next s)
    ∧ (s.prqAssertDue n = false → exec (.prqAsserted (number n)) s = .next s)
    ∧ (s.prqReleaseDue n = false → exec (.prqReleased (number n)) s = .next s)
    ∧ (s.shortDueNow = false → exec .shortCalibrationDue s = .next s)
    ∧ (s.requestDue c = false → exec (.provingRequestDue (number c)) s = .next s)
    ∧ (s.dropDue c = false → exec (.provingRequestDrop (number c)) s = .next s)
    ∧ (s.settlingDue = false → exec .settlingEnd s = .next s)
    ∧ (s.checkDue c = false → exec (.watchCheckDue (number c)) s = .next s)
    ∧ (s.lateDue c = false → exec (.monitorLate (number c)) s = .next s)
    ∧ (s.ageReached c 4000 = false → exec (.watchAgeLimit (number c)) s = .next s)
    ∧ (s.eligible c = false → exec (.roundEligible (number c)) s = .next s)
    ∧ (∀ raw, s.litWindow = none → exec (.litWindowEnd raw) s = .next s)
    ∧ (∀ v l q, s.darkWindow = none → exec (.darkWindowEnd v l q) s = .next s)
    ∧ (∀ z h, s.attemptEnding .long 2000 = none → exec (.longCalibrationEnd z h) s = .next s)
    ∧ (∀ z h, s.attemptEnding .short 100 = none → exec (.shortCalibrationAttemptEnd z h) s = .next s))
  ∧ (∀ (s : State) (n : Nat),
    (n = 0 ∨ 16 < n → exec (.redAmberBegin n) s = .next s ∧ exec (.greenStart n) s = .next s
      ∧ exec (.amberEnd n) s = .next s)
    ∧ (n = 0 ∨ 48 < n → exec (.provingRequestDue n) s = .next s ∧ exec (.provingRequestDrop n) s = .next s
      ∧ exec (.watchCheckDue n) s = .next s ∧ exec (.monitorLate n) s = .next s
      ∧ exec (.watchAgeLimit n) s = .next s ∧ exec (.roundEligible n) s = .next s)
    ∧ (n = 0 ∨ 4 < n → exec (.prqAsserted n) s = .next s ∧ exec (.prqReleased n) s = .next s
      ∧ ∀ a, exec (.prqLineChange n a) s = .next s))
  ∧ (∀ (s : State) (g : GroupIx) (c : CircuitIx) (n : LineIx),
    (s.redAmberDue g = true → .redAmberBegin (number g) ∈ s.dueEvents)
    ∧ (s.greenDue g = true → .greenStart (number g) ∈ s.dueEvents)
    ∧ (s.amberDue g = true → .amberEnd (number g) ∈ s.dueEvents)
    ∧ (s.flashDue = true → .flashHalf ∈ s.dueEvents)
    ∧ (s.stageEndDue = true → .stageEnd ∈ s.dueEvents)
    ∧ (s.latchDue = true → .latchTaken ∈ s.dueEvents)
    ∧ (s.loseDue .clearance = true → .clearanceLose ∈ s.dueEvents)
    ∧ (s.loseDue .interstage = true → .truncationLose ∈ s.dueEvents)
    ∧ (s.dwellEndDue = true → .dwellEnd ∈ s.dueEvents)
    ∧ (s.maxDwellDue = true → .maxDwell ∈ s.dueEvents)
    ∧ (s.syncExpired = true → .syncWatchExpiry ∈ s.dueEvents)
    ∧ (s.sched.nextSecond ≤ s.now → .clockSecond ∈ s.dueEvents)
    ∧ (s.startFlashEndDue = true → .startFlashEnd ∈ s.dueEvents)
    ∧ (s.startRedEndDue = true → .startRedEnd ∈ s.dueEvents)
    ∧ (s.allRedEndDue = true → .allRedEnd ∈ s.dueEvents)
    ∧ (s.prqAssertDue n = true → .prqAsserted (number n) ∈ s.dueEvents)
    ∧ (s.prqReleaseDue n = true → .prqReleased (number n) ∈ s.dueEvents)
    ∧ (s.shortDueNow = true → .shortCalibrationDue ∈ s.dueEvents)
    ∧ (s.requestDue c = true → .provingRequestDue (number c) ∈ s.dueEvents)
    ∧ (s.dropDue c = true → .provingRequestDrop (number c) ∈ s.dueEvents)
    ∧ (s.settlingDue = true → .settlingEnd ∈ s.dueEvents)
    ∧ (s.checkDue c = true → .watchCheckDue (number c) ∈ s.dueEvents)
    ∧ (s.lateDue c = true → .monitorLate (number c) ∈ s.dueEvents)
    ∧ (s.ageReached c 4000 = true → .watchAgeLimit (number c) ∈ s.dueEvents)
    ∧ (s.roundOrder.find? s.eligible = some c → s.sup.roundOffer ≠ some c →
        .roundEligible (number c) ∈ s.dueEvents)
    ∧ (s.litWindow ≠ none → ∃ raw, .litWindowEnd raw ∈ s.dueEvents)
    ∧ (s.darkWindow ≠ none → ∃ v l q, .darkWindowEnd v l q ∈ s.dueEvents)
    ∧ (s.attemptEnding .long 2000 ≠ none → ∃ z h, .longCalibrationEnd z h ∈ s.dueEvents)
    ∧ (s.attemptEnding .short 100 ≠ none → ∃ z h, .shortCalibrationAttemptEnd z h ∈ s.dueEvents))

/-- R1: RESET_N held. Nothing runs, no command is taken, and every output is inactive; only a reset, the
release of the chip select and a line's level still act (log entries 15, 16). A request clocked in meanwhile, like one
whose reply stands, is in a transaction that the line reset discards (R175; log entry 13). -/
def Obligations.NothingRunsWhileResetIsHeld : Prop :=
  ∀ s : State,
    exec .resetNAsserted s = .next { s with resetHeld := true }
    ∧ (s.resetHeld = true →
        (∀ i : Instr, isCommand i = false → i ≠ .resetNAsserted → i ≠ .lineReset → i ≠ .powerOnReset →
          i ≠ .chipSelectReleased → (∀ n a, i ≠ .prqLineChange n a) → exec i s = .next s)
        ∧ (∀ i : Instr, isCommand i = true →
            (s.link.transaction = .idle →
              exec i s = .next { s with link := { s.link with transaction := .discarded } })
            ∧ (s.link.transaction ≠ .idle → exec i s = .next s))
        ∧ (s.link.transaction ≠ .idle → ∃ t, exec .lineReset s = .next t ∧ t.link.transaction = .discarded)
        ∧ s.attnPin = false ∧ s.safeEnablePin = false ∧ s.dimPin = false
        ∧ ∀ c : CircuitIx, s.drivePin c = false)

/-- A power-on or line reset gives every block the values the spec states for it, from that instant, and
discards a transaction (R175); a PRQ line keeps its level, and the interval of an active one counts from the reset
(R87); the state after reset holds them, and in it RESET_N is not held (the model's
choice, log entry 17). -/
def Obligations.ResetsGiveTheFirstColumn : Prop :=
  (∀ s : State,
    let port := if s.link.transaction = .idle then Transaction.idle else .discarded
    let levels := fun t : State => ∀ n : LineIx, (t.pre.lines.get n).active = (s.pre.lines.get n).active
    (∃ t, exec .powerOnReset s = .next t ∧ t.AtReset ∧ t.junction.resetCause = .powerOn ∧ t.now = s.now
      ∧ levels t ∧ t.pending = s.pending ∧ t.reply = none ∧ t.link.transaction = port)
    ∧ (∃ t, exec .lineReset s = .next t ∧ t.AtReset ∧ t.junction.resetCause = .line ∧ t.now = s.now
      ∧ levels t ∧ t.pending = s.pending ∧ t.reply = none ∧ t.link.transaction = port ∧ t.resetHeld = false ∧ t.attnPin = false))
  ∧ (State.reset.AtReset ∧ State.reset.junction.resetCause = .powerOn ∧ State.reset.pending = []
    ∧ State.reset.resetHeld = false)

/-- SOFT_RESET (R183): DARK, what each block clears, and what each keeps (R5, R9, R15, R16, R49, R84, R116, R132, R151,
R165). A COMMAND entry is RELEASED, and a LINE entry follows its line's qualified state (R84). -/
def Obligations.SoftResetKeepsAndClears : Prop :=
  ∀ s : State, s.Listens → ∃ t, exec .softReset s = .next t
    ∧ t.link = { s.link with attention := 0, transaction := .replying okReply }
    ∧ t.junction = { s.junction with
        state := .dark, entry := s.now, clearance := none, lockout := none, resetCause := .soft }
    ∧ t.output.safeEnable = false ∧ t.output.dim = s.output.dim ∧ t.output.flash = none
    ∧ (∀ g : GroupIx, (t.group g).config = (s.group g).config
        ∧ (t.group g).aspect = .dark ∧ (t.group g).awaited = none
        ∧ (t.group g).greenOff = if s.output.safeEnable then s.now else (s.group g).greenOff)
    ∧ (∀ c : CircuitIx, (t.circuit c).technology = (s.circuit c).technology
        ∧ (t.circuit c).heads = (s.circuit c).heads ∧ (t.circuit c).residual = (s.circuit c).residual
        ∧ (t.circuit c).lamp = { (s.circuit c).lamp with
            state := .unmeasured, pendingResult := none, agreement := 0, cause := none, training := none }
        ∧ (t.circuit c).cable = { (s.circuit c).cable with watchPresented := false }
        ∧ (t.circuit c).schedule = { litSince := none, nextDue := none, presented := none }
        ∧ (s.output.safeEnable = true → (t.circuit c).drive.on = false))
    ∧ t.conflicts = s.conflicts ∧ t.guard = []
    ∧ (∀ p : PlanIx, t.plan p = (s.plan p).atSoftReset)
    ∧ t.seq = { Sequencer.atReset s.now with current := s.seq.current }
    ∧ t.pre.chain = [] ∧ t.pre.waiting = [] ∧ t.pre.lastRefusal = none ∧ t.pre.length = s.pre.length
    ∧ t.pre.lines = s.pre.lines
    ∧ (∀ e : EntryIx, (t.entry e).config = (s.entry e).config ∧ (t.entry e).stuck = false
        ∧ ∀ k, (s.entry e).config = some k → (t.entry e).asserted = (match k.source with
            | .command => false
            | .line => match s.pre.lines.list[e.val]? with
              | some n => n.asserted
              | none => false))
    ∧ t.sched = { s.sched with owed := false }
    ∧ t.channel = { s.channel with
        state := .calLong, shortDue := none, shortPresented := false, failFlag := false, owed := false,
        inFlight := none, calibration := some { kind := .long, start := s.now, attempt := 1 } }
    ∧ t.sup = { settlingEnd := none, roundPointer := 0, roundOffer := none }
    ∧ t.now = s.now ∧ t.pending = s.pending ∧ t.resetHeld = false

/-! ## The link -/

/-- READ_STATUS (R180): thirty bytes, each of the fields of the table at its place and by its values, and nothing
else changes. -/
def Obligations.StatusReplyShowsTheState : Prop :=
  ∀ s : State, s.Listens →
    exec .readStatus s = .next (s.accept (.bytes s.statusBytes))
    ∧ s.statusBytes.length = 30
    ∧ s.statusBytes[0]? = some (byte (match s.junction.state with
        | .dark => 0 | .startFlash => 1 | .startRed => 2 | .running => 3 | .flash => 4 | .lockout => 5))
    ∧ s.statusBytes[1]? = some (byte (match s.junction.clearance with
        | none => 0 | some .awaitingRed => 1 | some (.allRed _) => 2))
    ∧ s.statusBytes[2]? = some (byte (match s.junction.resetCause with | .powerOn => 0 | .line => 1 | .soft => 2))
    ∧ s.statusBytes[3]? = some (byte (match s.seq.state with
        | .idle => 0 | .interstage => 1 | .stage => 2 | .clearance => 3))
    ∧ s.statusBytes[4]? = some (byte (match s.stageShown with | none => 0 | some i => i))
    ∧ (s.statusBytes.drop 5).take 2 = (match s.positionShown with
        | none => [0xFF, 0xFF] | some p => [byte (p / 256), byte p])
    ∧ s.statusBytes[7]? = some (byte (match s.junction.mode with | .free => 0 | .synced => 1 | .stepped => 2))
    ∧ s.statusBytes[8]? = some (byte (match s.seq.sync with | .none => 0 | .held => 1 | .notHeld => 2 | .lost => 3))
    ∧ s.statusBytes[9]? = some (byte (match s.seq.current with | none => 0 | some p => number p))
    ∧ s.statusBytes[10]? = some (byte (match s.seq.pendingPlan with | none => 0 | some p => number p))
    ∧ (∃ flags : Byte, s.statusBytes[11]? = some flags ∧ flags.getLsbD 0 = s.seq.latch
        ∧ flags.getLsbD 1 = s.output.dim ∧ flags.getLsbD 2 = s.sched.clockSet ∧ flags.getLsbD 3 = false
        ∧ flags >>> 4 = byte (match s.link.lock with | .openLevel => 0 | .safety => 1 | .all => 2))
    ∧ s.statusBytes[12]? = some (byte s.pre.chain.length)
    ∧ (∀ (k : Nat) (c : Context), k < 3 → s.pre.chain.reverse[k]? = some c →
        let stage := if k + 1 = s.pre.chain.length then s.stageShown.getD c.stage else c.stage
        (s.statusBytes.drop (13 + 3 * k)).take 3 =
          [byte (number c.plan), byte (match c.invoker with | none => 0 | some i => number i.entry),
            byte (stage % 16) ||| if c.inDwell then 0x80 else 0])
    ∧ (∀ k, k < 3 → s.pre.chain.length ≤ k → (s.statusBytes.drop (13 + 3 * k)).take 3 = [0, 0, 0])
    ∧ s.statusBytes[22]? = some (byte s.pre.waiting.length)
    ∧ s.statusBytes[23]? = some (byte (match s.channel.state with
        | .calLong => 0 | .ready => 1 | .measuring => 2 | .calShort => 3 | .fault => 4))
    ∧ s.statusBytes.drop 24 = [byte (s.sched.clock / 65536), byte (s.sched.clock / 256),
        byte s.sched.clock] ++ attentionBytes s.link.attention

/-- READ_ATTENTION (R181): the reply's three bytes carry the set, bit k of the kind of bit k, and the set
becomes empty. SET_ATTENTION_MASK (R182): the mask is taken whole, and ATTN is active exactly while the set
holds an enabled kind. -/
def Obligations.AttentionReadAndMask : Prop :=
  (∀ s : State, s.Listens →
    exec .readAttention s = .next { s with link := { s.link with
      attention := 0,
      transaction := .replying { status := .ok, payload := .bytes (attentionBytes s.link.attention) } } }
    ∧ (attentionBytes s.link.attention).length = 3
    ∧ ∀ k : Attention,
        ((attentionBytes s.link.attention).foldl (fun (n : Nat) (b : Byte) => 256 * n + b.toNat) 0).testBit k.bit = s.holds k)
  ∧ (∀ (s : State) (m : BitVec 24), s.Listens → ∃ t, exec (.setAttentionMask m) s = .next t
    ∧ t = { s with link := { s.link with mask := m.setWidth 18, transaction := .replying okReply } }
    ∧ (t.attnPin = true ↔ ∃ k : Attention, s.holds k = true ∧ m.getLsbD k.bit = true))

/-- R179: under ALL every changing record-class command, LEARN_LAMP, LEARN_CABLE and SET_CLOCK is refused LOCKED
before any other check; under SAFETY every write that is always safety class is. LOCK sets the level under
every level, and another argument is refused RANGE. The release of the chip select ends the transaction
(R175). -/
def Obligations.LockLevelsRefuse : Prop :=
  (∀ s : State, s.Listens →
    (s.link.lock ≠ .openLevel →
      (∀ g f, exec (.writeRecordGroup g f) s = .next (s.refuse .locked))
      ∧ (∀ g u, exec (.updateFieldsGroup g u) s = .next (s.refuse .locked))
      ∧ (∀ g, exec (.retireRecordGroup g) s = .next (s.refuse .locked))
      ∧ (∀ l g f a b, exec (.writeRecordConflict l g f a b) s = .next (s.refuse .locked))
      ∧ (∀ l g f a b, exec (.updateFieldsConflict l g f a b) s = .next (s.refuse .locked))
      ∧ (∀ a b c m, exec (.writeRecordJunction a b c m) s = .next (s.refuse .locked))
      ∧ (∀ a b c m, exec (.updateFieldsJunction a b c m) s = .next (s.refuse .locked)))
    ∧ (s.link.lock = .all →
      (∀ c t n r, exec (.writeRecordCircuit c t n r) s = .next (s.refuse .locked))
      ∧ (∀ c t n r, exec (.updateFieldsCircuit c t n r) s = .next (s.refuse .locked))
      ∧ (∀ c, exec (.forgetCircuit c) s = .next (s.refuse .locked))
      ∧ (∀ p f, exec (.writeRecordPlan p f) s = .next (s.refuse .locked))
      ∧ (∀ p u, exec (.updateFieldsPlan p u) s = .next (s.refuse .locked))
      ∧ (∀ p, exec (.retireRecordPlan p) s = .next (s.refuse .locked))
      ∧ (∀ p, exec (.validatePlan p) s = .next (s.refuse .locked))
      ∧ (∀ e f, exec (.writeRecordPreemptEntry e f) s = .next (s.refuse .locked))
      ∧ (∀ e u, exec (.updateFieldsPreemptEntry e u) s = .next (s.refuse .locked))
      ∧ (∀ e, exec (.retireRecordPreemptEntry e) s = .next (s.refuse .locked))
      ∧ (∀ n, exec (.writeRecordPreemptTable n) s = .next (s.refuse .locked))
      ∧ (∀ m p d, exec (.insertSwitchpoint m p d) s = .next (s.refuse .locked))
      ∧ (∀ m, exec (.deleteSwitchpoint m) s = .next (s.refuse .locked))
      ∧ (∀ op kind, (recordKinds op).contains kind = false →
          exec (.recordWriteUnsupported op kind) s = .next (s.refuse .locked))
      ∧ (∀ c l, exec (.learnLamp c l) s = .next (s.refuse .locked))
      ∧ (∀ l, exec (.learnLampAll l) s = .next (s.refuse .locked))
      ∧ (∀ c, exec (.learnCable c) s = .next (s.refuse .locked))
      ∧ exec .learnCableAll s = .next (s.refuse .locked)
      ∧ (∀ n, exec (.setClock n) s = .next (s.refuse .locked))))
  ∧ (∀ s : State,
    (s.Listens → (∀ l : LockLevel, exec (.lock (.named l)) s =
        .next { s with link := { s.link with lock := l, transaction := .replying okReply } })
      ∧ exec (.lock .other) s = .next (s.refuse .range))
    ∧ exec .chipSelectReleased s = .next { s with link := { s.link with transaction := .idle } })

/-- The port's own checks in their order (R176): a request is refused FRAME for its length byte, then CRC, then
UNKNOWN, then FRAME for a payload on a command without one. A frame that passes is the command of its opcode (R179):
the eleven commands without an argument and SET_ATTENTION_MASK by their bytes, and any other a command of the frame's
opcode whose numbers of more than one byte stand in the payload with their most significant byte first (R175; where
they stand is free, log entry 12); REQUEST_REFUSED leaves it to that command's own row, but for an argument of DIM,
SET_MODE or PREEMPT that is none of the named ones, which is answered RANGE (the model's choice, log entry 12). A
reply's frame begins with its status code and its payload's length, of at most 60 bytes, and its last two bytes check
as a CRC over the rest (R175, R177). One request is taken in a transaction (R175): it leaves the reply standing, and
until the chip select is released no other has an effect. A request that has begun and not ended is not taken: it
leaves the transaction begun (log entry 13). -/
def Obligations.PortChecksInOrder : Prop :=
  let bare : List (Nat × Instr) := [(0x23, .recalibrate), (0x30, .readStatus), (0x31, .readAttention),
    (0x40, .start), (0x41, .flash), (0x42, .dark), (0x43, .lockout), (0x44, .clearLockout),
    (0x45, .softReset), (0x47, .releaseToSchedule), (0x49, .advance)]
  let begun := fun s : State => { s with link := { s.link with transaction := .receiving } }
  (∀ (s : State) (op len : Byte) (rest : List Byte), s.Listens →
    (60 < len.toNat → exec (.requestRefused (op :: len :: rest)) s = .next (s.refuse .frame))
    ∧ (len.toNat ≤ 60 → len.toNat + 2 ≤ rest.length →
        let frame := op :: len :: rest
        (crc (frame.take (len.toNat + 2)) ≠ crcAt frame (len.toNat + 2) →
          exec (.requestRefused frame) s = .next (s.refuse .crc))
        ∧ (crc (frame.take (len.toNat + 2)) = crcAt frame (len.toNat + 2) →
          (op.toNat ∉ opcodes → exec (.requestRefused frame) s = .next (s.refuse .unknown))
          ∧ ((∃ i, (op.toNat, i) ∈ bare) → 0 < len.toNat →
              exec (.requestRefused frame) s = .next (s.refuse .frame))
          ∧ (∀ i, commandOf frame = some i → exec (.requestRefused frame) s = .next s)
          ∧ (requestFailure op.toNat len.toNat frame = none → commandOf frame = none →
              op.toNat = 0x24 ∨ op.toNat = 0x48 ∨ op.toNat = 0x4A →
              exec (.requestRefused frame) s = .next (s.refuse .range))))
    ∧ (len.toNat ≤ 60 → rest.length < len.toNat + 2 →
        exec (.requestRefused (op :: len :: rest)) s = .next (begun s))
    ∧ ∀ frame : List Byte, frame.length < 2 → exec (.requestRefused frame) s = .next (begun s))
  ∧ ((∀ n i, (n, i) ∈ bare → i.opcode = some n ∧ commandOf (closeFrame [byte n, 0]) = some i)
    ∧ (∀ a b c : Byte, commandOf (closeFrame [0x32, 3, a, b, c]) = some (.setAttentionMask (a ++ b ++ c)))
    ∧ (∀ frame i, commandOf frame = some i → isCommand i = true ∧ ∃ op len rest, frame = op :: len :: rest
        ∧ i.opcode = some op.toNat ∧ HoldsNumbers (rest.take len.toNat) i.wideNumbers)
    ∧ (∀ a b c d : Nat, ∀ u v : Change Nat,
        (Instr.setClock a).wideNumbers = [.plain 3 a] ∧ (Instr.deleteSwitchpoint a).wideNumbers = [.plain 2 a]
        ∧ (∀ x, (Instr.insertSwitchpoint a b x).wideNumbers = [.plain 2 a])
        ∧ (∀ x, (Instr.writeRecordJunction a b c x).wideNumbers = [.plain 2 a]
          ∧ (Instr.updateFieldsJunction (.to a) u v x).wideNumbers = [.plain 2 a])
        ∧ (∀ f : GroupFields, (Instr.writeRecordGroup d { f with minGreen := some a }).wideNumbers = [.plain 2 a])
        ∧ (∀ f : GroupChanges, (Instr.updateFieldsGroup d { f with minGreen := .to a }).wideNumbers = [.plain 2 a])
        ∧ (∀ (f : PlanFields) (l : List StageFields), f.stages = some l → ∀ n : Nat,
            n ∈ l.map (·.split) ∨ some n ∈ [f.cycle, f.offset, f.minDwell, f.maxDwell] →
            WideNumber.plain 2 n ∈ (Instr.writeRecordPlan d f).wideNumbers)
        ∧ ∀ (f : PlanChanges) (n : Nat),
            (∃ e ∈ f.edits, e.split = .to n) ∨ (∃ l, f.stages = .to l ∧ n ∈ l.map (·.split))
              ∨ Change.to n ∈ [f.cycle, f.offset, f.minDwell, f.maxDwell] →
            WideNumber.plain 2 n ∈ (Instr.updateFieldsPlan d f).wideNumbers)
    ∧ ∀ n, n ∈ opcodes ↔ ∃ i : Instr, i.opcode = some n)
  ∧ (∀ r : Reply,
    let n := r.payload.toBytes.length
    r.frame.length = n + 4 ∧ r.frame[0]? = some (byte r.status.code) ∧ r.frame[1]? = some (byte n)
    ∧ (r.frame.drop 2).take n = r.payload.toBytes ∧ crc (r.frame.take (n + 2)) = crcAt r.frame (n + 2))
  ∧ ∀ (i : Instr) (s : State), isCommand i = true →
    (s.link.transaction ≠ .idle → exec i s = .next s)
    ∧ (s.Listens → ∀ t, exec i s = .next t → t = s ∨ t = begun s
        ∨ ∃ r, t.reply = some r ∧ r.payload.toBytes.length ≤ 60)

/-- A command answered with another status than OK and PREEMPT changes nothing but the standing reply and the
model's count of free values (R177; R91 gives a refused preemption its effects). -/
def Obligations.RefusedCommandsChangeNothing : Prop :=
  ∀ (i : Instr) (s t : State) (r : Reply), isCommand i = true → exec i s = .next t →
    t.reply = some r → r.status ≠ .ok → r.status ≠ .preempt →
    t = { s with link := { s.link with transaction := t.link.transaction }, draws := t.draws }

/-- READ_RECORD (R178): a kind and index outside the table are refused RANGE; else each part answers its number, the
count and its slice, the slices of all parts make the record whole, no slice exceeds 60 bytes alone or 56 of several,
and a part beyond the last is refused RANGE. Each number whose range takes more than one byte stands in the record with
its most significant byte first (R175; where it stands is free, log entry 11, and the code of a measured offset, which
may be negative, is open among four, log entry 50). What a SUMMARY and what a FULL read shows of each kind (R5, R9,
R27, R43, R86, R109, R117, R164, R172). The model's choice: index 0 of the single records (log entry 14), RANGE for a
view that is neither FULL nor SUMMARY (log entry 43), and the units and the rounding of the times shown: of a circuit's
last check (log entry 29), of the short calibration's (log entry 7) and of the last calibration's (log entry 39). -/
def Obligations.RecordReadsInParts : Prop :=
  (∀ (s : State) (kind index part : Nat) (v : ReadView), s.Listens →
    exec (.readRecord kind index .other part) s = .next (s.refuse .range)
    ∧ (s.view kind index v = none → exec (.readRecord kind index (.named v) part) s = .next (s.refuse .range))
    ∧ ∀ w, s.view kind index v = some w →
      let bytes := w.toBytes
      let parts := partsOf bytes.length
      (part < parts → exec (.readRecord kind index (.named v) part) s =
          .next (s.accept (.record w part parts (partOf bytes part))))
      ∧ (parts ≤ part → exec (.readRecord kind index (.named v) part) s = .next (s.refuse .range))
      ∧ (List.range parts).flatMap (partOf bytes) = bytes ∧ HoldsNumbers bytes w.wideNumbers
      ∧ ∀ q < parts, (partOf bytes q).length ≤ (if parts = 1 then 60 else 56))
  ∧ (let shows := fun (w : RecordView) (l : List Nat) => ∀ n ∈ l, WideNumber.plain 2 n ∈ w.wideNumbers
    (∀ a b c k, shows (.group a b c (some k)) [k.minGreen])
    ∧ (∀ a b c d e (k : LampPart) f g h i j l m n o,
        let w := RecordView.circuitFull a b c d e k f g h i j l m n o
        shows w (k.fullRef.toList ++ k.dimRef.toList ++ [k.lastCurrent])
        ∧ (∀ t, k.training = some t → shows w (t.min.toList ++ t.max.toList ++ [t.sum]))
        ∧ ∀ x, n = some x → shows w [x.leakageSum, x.chargeSum])
    ∧ (∀ a b c d n, shows (.planSummary a b c (some (d, n))) [n])
    ∧ (∀ (b : PlanBody) (p : Plan), (p = .draft b ∨ ∃ ph d, p = .valid ph b d) →
        shows (.planFull p) (b.stages.map (·.split) ++ match b.fields with
          | .base cycle offset _ => [cycle, offset]
          | .preempt lo hi => [lo, hi]))
    ∧ (∀ ph b (d : Derived), shows (.planFull (.valid ph b d)) (d.effective ++ [d.demand])
        ∧ ∀ x, d.base = some x → shows (.planFull (.valid ph b d)) [x.ceff, x.slackSplit, x.slackFloor])
    ∧ (∀ a b c d l, shows (.schedule a b c d (some l)) (b.toList ++ l.map (·.time)))
    ∧ (∀ a b (d : ChannelDetail), shows (.channel a b (some d)) (d.gain.toNat :: d.untilShortDue.toList)
        ∧ ∀ r, d.lastRecord = some r →
          WideNumber.signed 2 r.offset ∈ (RecordView.channel a b (some d)).wideNumbers
          ∧ ∀ g, r.gain = some g → WideNumber.plain 3 g.toNat ∈ (RecordView.channel a b (some d)).wideNumbers)
    ∧ (∀ a n b c, shows (.junction a n b c) [n])
    ∧ ∀ (r : LockoutRecord) (n : Nat), r.time = some n →
        WideNumber.plain 3 n ∈ (RecordView.lockout (some r)).wideNumbers)
  ∧ (∀ (s : State) (v : ReadView),
    (∀ g : GroupIx, s.view 1 (number g) .summary = some (.group (s.group g).config.isSome (s.group g).aspect
        (min 255 ((s.now - (s.group g).greenOff) / 100)) none)
      ∧ s.view 1 (number g) .full = some (.group (s.group g).config.isSome (s.group g).aspect
        (min 255 ((s.now - (s.group g).greenOff) / 100)) (s.group g).config))
    ∧ (∀ c : CircuitIx, s.view 2 (number c) .summary = some (.circuitSummary (s.assignment c)
        (s.circuit c).lamp.state (s.circuit c).lamp.lit (s.circuit c).lamp.cause (s.circuit c).cable.state)
      ∧ (let k := (s.circuit c).cable
        s.view 2 (number c) .full = some (.circuitFull (number c) (s.assignment c) (s.circuit c).technology
          (s.circuit c).heads (s.circuit c).residual (s.circuit c).lamp k.baseline k.lastVoltage k.lastLeakage
          k.lastCharge k.state k.count k.acknowledged k.learning (s.now - k.lastCheck))))
    ∧ (∀ l : GroupIx, s.view 3 (number l) .summary =
          some (.conflictRow ((List.finRange 16).map (s.conflicting l)) none)
      ∧ ∃ row, s.view 3 (number l) .full = some (.conflictRow ((List.finRange 16).map (s.conflicting l)) (some row))
        ∧ row.length = 16 ∧ ∀ g : GroupIx, (s.conflicting l g = false → row[g.val]? = some none)
          ∧ ∀ a b, s.intergreen l g = some a → s.intergreen g l = some b → row[g.val]? = some (some (a, b)))
    ∧ (∀ p : PlanIx, s.view 4 (number p) .full = some (.planFull (s.plan p))
      ∧ s.view 4 (number p) .summary = some (match s.plan p with
        | .free => .planSummary none none 0 none
        | .draft b => .planSummary (some none) (some b.cls) b.stages.length none
        | .valid ph b d => .planSummary (some (some ph)) (some b.cls) b.stages.length
            (d.base.map fun x => (x.stretched, x.ceff))))
    ∧ (∀ e : EntryIx, s.view 5 (number e) v = some (.entry (s.entry e).config.isSome (s.entry e).stuck
        (s.entry e).asserted (if v = .full then (s.entry e).config else none)))
    ∧ s.view 6 0 v = some (.preemptTable s.pre.length s.pre.lastRefusal s.pre.waiting)
    ∧ s.view 7 0 .full = some (.schedule s.sched.points.length s.sched.current s.sched.hold s.sched.owed
        (some s.sched.points))
    ∧ s.view 7 0 .summary = some (.schedule s.sched.points.length s.sched.current s.sched.hold s.sched.owed none)
    ∧ s.view 8 0 .summary = some (.channel s.channel.state (s.channel.inFlight.map (·.view)) none)
    ∧ s.view 8 0 .full = some (.channel s.channel.state (s.channel.inFlight.map (·.view)) (some {
        offset := s.channel.offset, gain := s.channel.gain,
        untilShortDue := s.channel.shortDue.map fun d => tenths (d - s.now),
        failFlag := s.channel.failFlag, owed := s.channel.owed,
        lastRecord := s.channel.lastRecord.map fun r => {
          kind := r.kind, pass := r.pass, offset := r.offset, gain := r.gain,
          since := min 255 ((s.now - r.ended) / 100) } }))
    ∧ s.view 9 0 v = some (.junction s.junction.mode s.junction.startFlash s.junction.startRed
        s.junction.allRed)
    ∧ s.view 10 0 v = some (.lockout s.junction.lockout)
    ∧ (∀ kind index, kind = 0 ∨ 10 < kind → s.view kind index v = none)
    ∧ (∀ index, index = 0 ∨ 16 < index →
        s.view 1 index v = none ∧ s.view 3 index v = none ∧ s.view 4 index v = none)
    ∧ (∀ index, index = 0 ∨ 48 < index → s.view 2 index v = none)
    ∧ (∀ index, index = 0 ∨ 8 < index → s.view 5 index v = none))

/-! ## The records -/

/-- WRITE_RECORD, UPDATE_FIELDS and RETIRE_RECORD of a group (R2, R3, R4) under OPEN with SAFE_ENABLE
inactive: a record in range that names no circuit twice or of another group, and whose amber fits its
intergreens, is stored; a present one is retired. -/
def Obligations.GroupWritesStore : Prop :=
  ∀ (s : State) (g : GroupIx), s.Listens → s.link.lock = .openLevel →
    s.output.safeEnable = false →
    (∀ k : GroupConfig, k.circuits.Nodup →
      (∀ (h : GroupIx) (m : GroupConfig), h ≠ g → (s.group h).config = some m →
        ∀ c ∈ k.circuits, c ∉ m.circuits) →
      (∀ v, k.vehicle = some v → ∀ (l : GroupIx) n, s.intergreen g l = some n → v.amberTime ≤ n) →
      ∃ t, s.GroupStored t g (some k)
        ∧ (∀ f, f.check = some k → exec (.writeRecordGroup (number g) f) s = .next t)
        ∧ ∀ u m, (s.group g).config = some m → (u.apply m.toFields).check = some k →
            exec (.updateFieldsGroup (number g) u) s = .next t)
    ∧ ((s.group g).config ≠ none →
      ∃ t, s.GroupStored t g none ∧ exec (.retireRecordGroup (number g)) s = .next t)

/-- The refusals of a group's writes past LOCKED, in the order of R2, R3 and R4: STATE, then RANGE for the
number, ABSENT, and, for the record as a write gives it or as an update would leave it, RANGE, TAKEN with a
circuit that is named twice or by another group, and RANGE for the amber check. Check 1 of R2 (section 1.1): a
record passes exactly when it is whole, of the named kind, and every field lies in its range; and it is held as
given. R2 and R3 give no status for a record left without its kind, green circuit or min green, as by an update that
names one as absent: that it fails check 1 is the model's choice (log entry 33). -/
def Obligations.GroupWritesRefuseInOrder : Prop :=
  (∀ (s : State) (n : Nat) (f : GroupFields) (u : GroupChanges), s.Listens → s.link.lock = .openLevel →
    (s.output.safeEnable = true → exec (.writeRecordGroup n f) s = .next (s.refuse .state)
      ∧ exec (.updateFieldsGroup n u) s = .next (s.refuse .state)
      ∧ exec (.retireRecordGroup n) s = .next (s.refuse .state))
    ∧ (s.output.safeEnable = false →
      (n = 0 ∨ 16 < n → exec (.writeRecordGroup n f) s = .next (s.refuse .range)
        ∧ exec (.updateFieldsGroup n u) s = .next (s.refuse .range)
        ∧ exec (.retireRecordGroup n) s = .next (s.refuse .range))
      ∧ ∀ g : GroupIx, number g = n →
        ((s.group g).config = none → exec (.updateFieldsGroup n u) s = .next (s.refuse .absent)
          ∧ exec (.retireRecordGroup n) s = .next (s.refuse .absent))
        ∧ ∀ i : Instr, (i = .writeRecordGroup n f ∨ ∃ m, (s.group g).config = some m
            ∧ i = .updateFieldsGroup n u ∧ f = u.apply m.toFields) →
          (f.check = none → exec i s = .next (s.refuse .range))
          ∧ ∀ k, f.check = some k →
            let taken := fun c : CircuitIx => 2 ≤ k.circuits.count c ∨ (c ∈ k.circuits
              ∧ ∃ (h : GroupIx) (m : GroupConfig), h ≠ g ∧ (s.group h).config = some m ∧ c ∈ m.circuits)
            ((∃ c, taken c) → ∃ t c, exec i s = .next t
              ∧ t.reply = some { status := .taken, payload := .taken c } ∧ taken c)
            ∧ ((∀ c, ¬taken c) → (∃ v l x, k.vehicle = some v ∧ s.intergreen g l = some x
                ∧ x < v.amberTime) → exec i s = .next (s.refuse .range))))
  ∧ (∀ (f : GroupFields) (k : GroupConfig), f.check = some k ↔
    (f = k.toFields ∧ 1 ≤ k.reds.length ∧ k.reds.length ≤ 2 ∧ 50 ≤ k.minGreen ∧ k.minGreen ≤ 300
      ∧ ∀ v, k.vehicle = some v → 30 ≤ v.amberTime ∧ v.amberTime ≤ 50
          ∧ (v.redAmber = 0 ∨ (10 ≤ v.redAmber ∧ v.redAmber ≤ 20))))

/-- WRITE_RECORD and UPDATE_FIELDS of a circuit (R7), a field not named keeping its value: a record in range is
stored, a changed one with its lamp state cleared; a change of technology needs OPEN and SAFE_ENABLE inactive,
drops a training and demotes plans. They are refused RANGE for the number, LOCKED and STATE for a change of
technology, and RANGE for a record out of range, in that order; a technology that is neither of the two, or is
named as absent, counts as a change of it, and a field that would be absent is out of range (the model's choice,
log entry 33). FORGET_CIRCUIT (R8): what was learnt of the circuit is gone, what is configured and last read is
kept, and CABLE_ALARM is raised for one in ALARM. A red circuit's group is judged at that instant (R143, R145): one
that shows red in START_RED or RUNNING and is LOST without the circuit locks the junction out with cause RED_LOST
naming the group and its lowest referenced red circuit, as the model's choice also where the circuit's own lamp state
has changed with its references (log entry 47). -/
def Obligations.CircuitWritesStore : Prop :=
  (∀ (s : State) (c : CircuitIx) (i : Instr) (tech : Option Technology) (n r : Option Nat), s.Listens →
    s.link.lock ≠ .all →
    (i = .writeRecordCircuit (number c) (match tech with | some x => .named x | none => .other)
          (n.getD 0) (r.getD 0) ∧ n ≠ none ∧ r ≠ none
      ∨ ∃ ut un ur, i = .updateFieldsCircuit (number c) ut un ur
        ∧ tech = (match ut with
            | .keep => some (s.circuit c).technology
            | .to (.named x) => some x
            | .to .other => none
            | .absent => none)
        ∧ n = un.apply (some (s.circuit c).heads) ∧ r = ur.apply (some (s.circuit c).residual)) →
    let changes := tech ≠ some (s.circuit c).technology
    let inRange := fun x y z => tech = some x ∧ n = some y ∧ r = some z ∧ 1 ≤ y ∧ y ≤ 4 ∧ z ≤ 8
      ∧ (x = .incandescent → z = 0)
    (changes → s.link.lock = .safety → exec i s = .next (s.refuse .locked))
    ∧ (changes → s.link.lock = .openLevel → s.output.safeEnable = true → exec i s = .next (s.refuse .state))
    ∧ ((changes → s.link.lock = .openLevel ∧ s.output.safeEnable = false) →
      ((∀ x y z, ¬inRange x y z) → exec i s = .next (s.refuse .range))
      ∧ ∀ x y z, inRange x y z → ∃ u t : State, u.Ends t ∧ exec i s = .next t
        ∧ (y = (s.circuit c).heads → z = (s.circuit c).residual → x = (s.circuit c).technology →
            u = s.accept .empty)
        ∧ (y ≠ (s.circuit c).heads ∨ z ≠ (s.circuit c).residual ∨ x ≠ (s.circuit c).technology →
            u.circuit c = { s.circuit c with
              technology := x, heads := y, residual := z,
              lamp := { (s.circuit c).lamp with
                state := .unmeasured, pendingResult := none, agreement := 0, lit := 0, cause := none,
                training := if x = (s.circuit c).technology then (s.circuit c).lamp.training else none } }
            ∧ (∀ d : CircuitIx, d ≠ c → u.circuit d = s.circuit d)
            ∧ (if x = (s.circuit c).technology then u.plans = s.plans ∧ u.seq = s.seq else s.Demotes u)
            ∧ s.OnlyReplies u okReply
            ∧ u = { s with circuits := u.circuits, plans := u.plans, seq := u.seq, link := u.link })))
  ∧ (∀ (s : State) (n : Nat), s.Listens → s.link.lock ≠ .all → n = 0 ∨ 48 < n →
    (∀ a x y, exec (.writeRecordCircuit n a x y) s = .next (s.refuse .range))
    ∧ (∀ a x y, exec (.updateFieldsCircuit n a x y) s = .next (s.refuse .range))
    ∧ exec (.forgetCircuit n) s = .next (s.refuse .range))
  ∧ (∀ (s : State) (c : CircuitIx), s.Listens → s.link.lock ≠ .all →
    ∃ u t : State, u.Ends t ∧ exec (.forgetCircuit (number c)) s = .next t
      ∧ u.circuit c = { s.circuit c with
          lamp := { (s.circuit c).lamp with
            fullRef := none, dimRef := none, state := .unmeasured, pendingResult := none, agreement := 0,
            lit := 0, cause := none, training := none },
          cable := { (s.circuit c).cable with
            baseline := none, state := .noBaseline, count := 0, counted := none, acknowledged := false,
            learning := none } }
      ∧ (∀ d : CircuitIx, d ≠ c → u.circuit d = s.circuit d)
      ∧ (∀ k : Attention, u.holds k = (s.holds k || (k == .cableAlarm && (s.circuit c).cable.state.isAlarm)))
      ∧ u.reply = some okReply
      ∧ u = { s with
          circuits := u.circuits, link := { s.link with
            attention := u.link.attention, transaction := u.link.transaction } }
      ∧ ∀ (g : GroupIx) (k : GroupConfig), s.assignment c = some { group := g, aspect := .red } →
          (s.group g).config = some k →
          (s.circuit c).lamp.state ≠ .unmeasured ∨ (s.circuit c).lamp.fullRef ≠ none
            ∨ (s.circuit c).lamp.dimRef ≠ none →
          s.output.safeEnable = true → u.redLost g = true →
          u.AllOff t ∧ t.holds .lockout = true ∧ t.holds .junctionState = true ∧ t.reply = some okReply
          ∧ t.junction = { s.junction with
              state := .lockout, entry := s.now, clearance := none,
              lockout := some {
                cause := .redLost, group := some g,
                circuit := ((List.finRange 48).filter fun d => k.reds.contains d && u.referenced d).head?,
                time := if s.sched.clockSet then some s.sched.clock else none,
                further := false, cleared := false } })

/-- WRITE_RECORD and UPDATE_FIELDS of a conflict pair (R24, R25, R26), a field not named keeping its value: the
pair in either naming order holds what is written, every other pair is as it was, and plans are demoted. RANGE
refuses a number outside 1 to 16, two equal ones, a conflicting pair without two intergreens of 0 to 150 or with
one below the amber time of its losing group, and a pair that does not conflict with one; a flag named as absent
too (the model's choice, log entry 33). -/
def Obligations.ConflictWritesStore : Prop :=
  (∀ (s : State) (l g : GroupIx) (i : Instr) (f : Bool) (a b : Option Nat), s.Listens →
    s.link.lock = .openLevel → s.output.safeEnable = false → l ≠ g →
    (i = .writeRecordConflict (number l) (number g) f a b ∨ i = .writeRecordConflict (number g) (number l) f b a
      ∨ ∃ uf ua ub, i = .updateFieldsConflict (number l) (number g) uf ua ub
        ∧ uf.apply (some (s.conflicting l g)) = some f
        ∧ a = ua.apply (s.intergreen l g) ∧ b = ub.apply (s.intergreen g l)) →
    let bound := fun (h : GroupIx) (x : Option Nat) => ∃ n, x = some n ∧ n ≤ 150
      ∧ ∀ k w, (s.group h).config = some k → k.vehicle = some w → w.amberTime ≤ n
    let fits := if f then bound l a ∧ bound g b else a = none ∧ b = none
    (fits → ∃ t, exec i s = .next t
      ∧ t.conflicting l g = f ∧ t.intergreen l g = a ∧ t.intergreen g l = b
      ∧ (∀ x y : GroupIx, (x, y) ≠ (l, g) → (x, y) ≠ (g, l) → t.intergreen x y = s.intergreen x y)
      ∧ s.Demotes t ∧ s.OnlyReplies t okReply
      ∧ t = { s with conflicts := t.conflicts, plans := t.plans, seq := t.seq, link := t.link })
    ∧ (¬fits → exec i s = .next (s.refuse .range)))
  ∧ (∀ (s : State) (l g : Nat), s.Listens → s.link.lock = .openLevel →
    let refused := fun st => (∀ f a b, exec (.writeRecordConflict l g f a b) s = .next (s.refuse st))
      ∧ ∀ f a b, exec (.updateFieldsConflict l g f a b) s = .next (s.refuse st)
    (s.output.safeEnable = true → refused .state)
    ∧ (s.output.safeEnable = false → l = 0 ∨ 16 < l ∨ g = 0 ∨ 16 < g ∨ l = g → refused .range)
    ∧ (s.output.safeEnable = false →
        ∀ a b, exec (.updateFieldsConflict l g .absent a b) s = .next (s.refuse .range)))

/-- WRITE_RECORD and UPDATE_FIELDS of the junction record (R164), a time not named keeping its value: values in
range are stored and plans demoted, a value out of range, named as absent (the model's choice, log entry 33), or a
named mode is refused RANGE, and both commands STATE while SAFE_ENABLE is active; and a write, update or
retirement of a kind that does not allow it is refused RANGE (R178). -/
def Obligations.JunctionWritesStore : Prop :=
  (∀ (s : State) (i : Instr) (x y z : Option Nat) (mode : Bool), s.Listens → s.link.lock = .openLevel →
    (i = .writeRecordJunction (x.getD 0) (y.getD 0) (z.getD 0) mode ∧ x ≠ none ∧ y ≠ none ∧ z ≠ none
      ∨ ∃ ux uy uz, i = .updateFieldsJunction ux uy uz mode ∧ x = ux.apply (some s.junction.startFlash)
        ∧ y = uy.apply (some s.junction.startRed) ∧ z = uz.apply (some s.junction.allRed)) →
    let fits := fun a b c => x = some a ∧ y = some b ∧ z = some c ∧ 50 ≤ a ∧ a ≤ 300 ∧ 30 ≤ b ∧ b ≤ 100
      ∧ 30 ≤ c ∧ c ≤ 100 ∧ mode = false
    (s.output.safeEnable = true → exec i s = .next (s.refuse .state))
    ∧ (s.output.safeEnable = false →
      (∀ a b c, fits a b c → ∃ t, exec i s = .next t
        ∧ t.junction = { s.junction with startFlash := a, startRed := b, allRed := c }
        ∧ s.Demotes t ∧ s.OnlyReplies t okReply
        ∧ t = { s with junction := t.junction, plans := t.plans, seq := t.seq, link := t.link })
      ∧ ((∀ a b c, ¬fits a b c) → exec i s = .next (s.refuse .range))))
  ∧ ∀ (s : State) (op : RecordOp) (kind : Nat), s.Listens → s.link.lock ≠ .all →
    (recordKinds op).contains kind = false →
    exec (.recordWriteUnsupported op kind) s = .next (s.refuse .range)

/-- WRITE_RECORD, UPDATE_FIELDS and RETIRE_RECORD of a plan (R40, R41, R42): a plan that is not in use takes the record
as DRAFT, or becomes FREE; one in use is refused BUSY; a number outside 1 to 16, an update of a stage beyond the list
and a record out of range are refused RANGE, and a retirement of a FREE plan ABSENT. Check 4 of R40: a record passes
exactly when it holds at most 8 stages of groups 1 to 16 and splits of 50 to 1200, every field of its class in its
range and none of the other class. R40 and R41 give no status for a class that is neither BASE nor PREEMPT: that such a
record fails the check, and so is refused RANGE by the clause for a failing check, is the model's choice (log entry
44). So is RANGE for an update that names a stage's green set or split as absent (log entry 33). R41 gives no outcome
for an update whose single stage lies in the list held and beyond a shorter new list that it names too, nor for one
that names an item twice: that the clause for a passing record stores these is the model's choice (log entries 21, 34),
and which of the list and the single stages stands is free (log entry 21). -/
def Obligations.PlanWritesMakeDraft : Prop :=
  (∀ (s : State) (p : PlanIx), s.Listens → s.link.lock ≠ .all →
    (s.planBusy p = false →
      (∀ f b, f.check = some b → exec (.writeRecordPlan (number p) f) s =
        .next ((s.setPlan p (.draft b)).accept .empty))
      ∧ (∀ f, f.check = none → exec (.writeRecordPlan (number p) f) s = .next (s.refuse .range))
      ∧ (∀ u b, u.indicesHeld (s.plan p).toFields = true → (u.apply (s.plan p).toFields).check = some b →
          exec (.updateFieldsPlan (number p) u) s = .next ((s.setPlan p (.draft b)).accept .empty))
      ∧ (∀ u : PlanChanges, (∃ e ∈ u.edits, e.index = 0 ∨ ((s.plan p).toFields.stages.getD []).length < e.index)
          ∨ (∃ e ∈ u.edits, e.green = .absent ∨ e.split = .absent)
          ∨ (u.apply (s.plan p).toFields).check = none →
          exec (.updateFieldsPlan (number p) u) s = .next (s.refuse .range))
      ∧ (s.plan p ≠ .free →
          exec (.retireRecordPlan (number p)) s = .next ((s.setPlan p .free).accept .empty)))
    ∧ (s.plan p = .free → exec (.retireRecordPlan (number p)) s = .next (s.refuse .absent))
    ∧ ((s.plan p).phase = some .selected ∨ (s.plan p).phase = some .active
        ∨ (s.plan p).phase = some .invoked
        ∨ ((s.junction.state = .startFlash ∨ s.junction.state = .startRed) ∧ s.seq.current = some p) →
      (∀ f, exec (.writeRecordPlan (number p) f) s = .next (s.refuse .busy))
      ∧ (∀ u, exec (.updateFieldsPlan (number p) u) s = .next (s.refuse .busy))
      ∧ (s.plan p ≠ .free → exec (.retireRecordPlan (number p)) s = .next (s.refuse .busy)))
    ∧ (∀ n, n = 0 ∨ 16 < n → (∀ f, exec (.writeRecordPlan n f) s = .next (s.refuse .range))
        ∧ (∀ u, exec (.updateFieldsPlan n u) s = .next (s.refuse .range))
        ∧ exec (.retireRecordPlan n) s = .next (s.refuse .range)
        ∧ exec (.validatePlan n) s = .next (s.refuse .range))
    ∧ ∀ q : PlanIx, q ≠ p → ∀ r, (s.setPlan p r).plan q = s.plan q)
  ∧ ∀ (f : PlanFields) (b : PlanBody), f.check = some b ↔
    ((∃ l, f.stages = some l ∧ l.length ≤ 8 ∧ List.Forall₂ (fun (x : StageFields) (t : Stage) =>
        (∀ n ∈ x.green, 1 ≤ n ∧ n ≤ 16) ∧ 50 ≤ x.split ∧ x.split ≤ 1200 ∧ t.split = x.split
          ∧ t.green.Pairwise (· < ·) ∧ ∀ g : GroupIx, g ∈ t.green ↔ number g ∈ x.green) l b.stages)
      ∧ match b.fields with
        | .base c o k => f.cls = some (.named .base) ∧ f.cycle = some c ∧ 300 ≤ c ∧ c ≤ 2400
            ∧ f.offset = some o ∧ o ≤ 2399 ∧ f.slack = some k ∧ 1 ≤ k ∧ k ≤ 8
            ∧ f.minDwell = none ∧ f.maxDwell = none
        | .preempt lo hi => f.cls = some (.named .preempt) ∧ f.minDwell = some lo ∧ 50 ≤ lo ∧ lo ≤ 600
            ∧ f.maxDwell = some hi ∧ 100 ≤ hi ∧ hi ≤ 3000
            ∧ f.cycle = none ∧ f.offset = none ∧ f.slack = none)

/-- VALIDATE_PLAN (R50): a FREE plan is refused ABSENT, a plan that holds derived fields passes unchanged, a
DRAFT that fails a check is INVALID and unchanged, and one that passes is READY with its derived fields. A
plan passes exactly when its class's stage counts, its green sets, its slack stage and its class ranges are
as R51 to R53 ask. The failure answered is the first in the order of R50: V_STAGES with the stage count; V_GROUP
with the first stage that names a group not present and the lowest such group; V_CONFLICT with the first stage that
holds a conflicting pair and the first such pair, by the lower number and then the higher; V_SLACK with the index
and the count; V_RANGE naming the offset or the dwells. -/
def Obligations.ValidationMakesReady : Prop :=
  (∀ (s : State) (p : PlanIx), s.Listens → s.link.lock ≠ .all →
    (s.plan p = .free → exec (.validatePlan (number p)) s = .next (s.refuse .absent))
    ∧ (∀ ph b d, s.plan p = .valid ph b d →
        exec (.validatePlan (number p)) s = .next (s.accept (passPayload b d)))
    ∧ ∀ b, s.plan p = .draft b →
      (∀ x, s.validationFailure b = some x → exec (.validatePlan (number p)) s =
          .next (s.answer { status := .invalid, payload := .invalid x }))
      ∧ (s.validationFailure b = none → exec (.validatePlan (number p)) s =
          .next ((s.setPlan p (.valid .ready b (s.derive b))).accept (passPayload b (s.derive b)))))
  ∧ (∀ (s : State) (b : PlanBody), s.validationFailure b = none ↔
    (1 ≤ b.stages.length ∧ b.stages.length ≤ (match b.fields with | .base .. => 8 | .preempt .. => 4)
      ∧ (∀ x ∈ b.stages, ∀ g ∈ x.green, (s.group g).config ≠ none)
      ∧ (∀ x ∈ b.stages, x.green.Pairwise fun g h => s.conflicting g h = false)
      ∧ match b.fields with
        | .base c o k => k ≤ b.stages.length ∧ o < c
        | .preempt lo hi => lo ≤ hi))
  ∧ (∀ (s : State) (b : PlanBody), (∀ x ∈ b.stages, x.green.Pairwise (· < ·)) →
    let m := b.stages.length
    let counted := 1 ≤ m ∧ m ≤ (match b.fields with | .base .. => 8 | .preempt .. => 4)
    let names := fun (i : Nat) (g : GroupIx) => ∃ x, b.stages[i]? = some x ∧ g ∈ x.green
    let missing := fun (i : Nat) (g : GroupIx) => names i g ∧ (s.group g).config = none
    let clash := fun (i : Nat) (g h : GroupIx) => names i g ∧ names i h ∧ g < h ∧ s.conflicting g h = true
    (¬counted → s.validationFailure b = some (.vStages m))
    ∧ (counted →
      (∀ i g, missing i g → (∀ j h, missing j h → i < j ∨ (i = j ∧ g ≤ h)) →
        s.validationFailure b = some (.vGroup (i + 1) (number g)))
      ∧ ((∀ i g, ¬missing i g) →
        (∀ i g h, clash i g h → (∀ j x y, clash j x y → i < j ∨ (i = j ∧ (g < x ∨ (g = x ∧ h ≤ y)))) →
          s.validationFailure b = some (.vConflict (i + 1) (number g) (number h)))
        ∧ ((∀ i g h, ¬clash i g h) → match b.fields with
          | .base c o k => (m < k → s.validationFailure b = some (.vSlack k m))
              ∧ (k ≤ m → c ≤ o → s.validationFailure b = some (.vRange false))
          | .preempt lo hi => hi < lo → s.validationFailure b = some (.vRange true)))))

/-- The derived fields of a plan (R55 to R59): the nominal interstage of each transition is the largest of the
gaining groups' red-amber times and the intergreens to them from the losing groups, 0 with none gaining; each
effective split is the largest of the split and the min greens of the groups gaining. The cycle of a validated BASE
plan closes (R58, R59, R65): D is the sum of the interstages and the effective splits, Ceff the larger of C and D,
the slack stage takes what C leaves over D, its floor is the larger of 50 and the min greens gaining in it, and the
nominal position after the last stage's green is Ceff. The slack stage's portion (R68, R72, R73): it never exceeds
the remainder, an eighth of the cycle, or the shortening capacity; what is left with it makes up the remainder;
and the stage's length stays at the floor or above. -/
def Obligations.CycleArithmetic : Prop :=
  (∀ (s : State) (b : PlanBody) (i : Nat) (h : i < b.stages.length),
    let before := if i = 0 then (match b.fields with
        | .base .. => b.greens b.stages.length
        | .preempt .. => []) else b.greens i
    let gains := fun g => g ∈ b.greens (i + 1) ∧ g ∉ before
    let loses := fun g => g ∈ before ∧ g ∉ b.greens (i + 1)
    let inter := (s.derive b).interstage (i + 1)
    let split := (s.derive b).split (i + 1)
    (∀ g, gains g → s.redAmber g ≤ inter ∧ ∀ l n, loses l → s.intergreen l g = some n → n ≤ inter)
    ∧ (inter = 0 ∨ ∃ g, gains g ∧ (inter = s.redAmber g ∨ ∃ l, loses l ∧ s.intergreen l g = some inter))
    ∧ (b.stages[i]).split ≤ split ∧ (∀ g, gains g → s.minGreen g ≤ split)
    ∧ (split = (b.stages[i]).split ∨ ∃ g, gains g ∧ split = s.minGreen g)
    ∧ ∀ c o x, b.fields = .base c o (i + 1) → (s.derive b).base = some x →
        x.slackSplit = split + (c - (s.derive b).demand) ∧ 50 ≤ x.slackFloor
        ∧ (50 ≤ (b.stages[i]).split → x.slackFloor ≤ x.slackSplit)
        ∧ (∀ g, gains g → s.minGreen g ≤ x.slackFloor)
        ∧ (x.slackFloor = 50 ∨ ∃ g, gains g ∧ x.slackFloor = s.minGreen g))
  ∧ (∀ (s : State) (b : PlanBody) (c o k : Nat) (x : BaseDerived), b.fields = .base c o k → 1 ≤ k →
    k ≤ b.stages.length → (s.derive b).base = some x →
    (s.derive b).demand = (s.derive b).interstages.sum + (s.derive b).effective.sum
    ∧ x.ceff = max c (s.derive b).demand ∧ (x.stretched = true ↔ c < (s.derive b).demand)
    ∧ (s.derive b).nominalStart x k (b.stages.length + 1) = x.ceff)
  ∧ (∀ (c excess : Nat) (x : BaseDerived) (r : Remainder),
    let portion := slackPortion c x (some r)
    let taken := portion.1 + portion.2
    taken ≤ r.amount ∧ taken ≤ c / 8
    ∧ (match r.direction with
        | .lengthen => portion.2 = 0
        | .shorten => portion.1 = 0 ∧ taken ≤ x.slackSplit - x.slackFloor)
    ∧ (match remainderAfter taken (some r) with
        | none => taken = r.amount
        | some q => q.direction = r.direction ∧ q.amount + taken = r.amount ∧ 0 < q.amount)
    ∧ x.slackFloor ≤ slackLengthFor x portion.1 portion.2 excess)

/-- The writes of the preemption table (R85). Past LOCKED: a number outside 1 to 8, or a length over 8, is refused
RANGE; an update or a retirement of an entry that is not present ABSENT; a write, update or retirement of an engaged
entry, or a length that would leave one out, BUSY; and a record out of range RANGE. An entry that is not engaged takes
its fields, its request state by its source's change; a retired one, and one written with present no, is empty
(log entry 20). A record passes check 5 exactly when each field given lies in its range, also in one to be not
present (log entry 20): the plan 1 to 16, the priority 1 to 4, the source LINE only for entries 1 to 4; and one to
be present gives all three. R85 gives no status for a source that is neither LINE nor COMMAND nor for a present
entry without one of the three: RANGE is the model's choice (log entry 45), and so it is for an update that names
the present flag as absent (log entry 33). -/
def Obligations.EntryWritesStore : Prop :=
  (∀ (s : State) (e : EntryIx), s.Listens → s.link.lock ≠ .all →
    let write := fun f => Instr.writeRecordPreemptEntry (number e) f
    let update := fun u => Instr.updateFieldsPreemptEntry (number e) u
    let retire := Instr.retireRecordPreemptEntry (number e)
    let emptied := (s.setEntry e { config := none, stuck := false, asserted := false }).accept .empty
    (e ∉ s.engaged →
      (∀ f c, f.check e = some (some c) → ∃ t, exec (write f) s = .next t
        ∧ (∀ u d, (s.entry e).config = some d → u.apply d.toFields = some f → exec (update u) s = .next t)
        ∧ (t.entry e).config = some c ∧ (t.entry e).stuck = (s.entry e).stuck
        ∧ (t.entry e).asserted = (match (s.entry e).config.map (·.source), c.source with
            | some .line, .line => (s.entry e).asserted
            | _, .line => s.lineAsserted e
            | some .line, .command => false
            | _, .command => (s.entry e).asserted)
        ∧ (∀ i : EntryIx, i ≠ e → t.entry i = s.entry i) ∧ s.OnlyReplies t okReply
        ∧ t = { s with pre := { s.pre with entries := t.pre.entries }, link := t.link })
      ∧ (∀ f, f.check e = some none → exec (write f) s = .next emptied
        ∧ ∀ u d, (s.entry e).config = some d → u.apply d.toFields = some f → exec (update u) s = .next emptied)
      ∧ (∀ f, f.check e = none → exec (write f) s = .next (s.refuse .range)
        ∧ ∀ u d, (s.entry e).config = some d → u.apply d.toFields = some f →
            exec (update u) s = .next (s.refuse .range))
      ∧ (∀ u : EntryChanges, (s.entry e).config ≠ none → u.present = .absent →
          exec (update u) s = .next (s.refuse .range))
      ∧ ((s.entry e).config ≠ none → exec retire s = .next emptied))
    ∧ ((s.entry e).config = none → (∀ u, exec (update u) s = .next (s.refuse .absent))
        ∧ exec retire s = .next (s.refuse .absent))
    ∧ (e ∈ s.engaged → (∀ f, exec (write f) s = .next (s.refuse .busy))
        ∧ ((s.entry e).config ≠ none → (∀ u, exec (update u) s = .next (s.refuse .busy))
          ∧ exec retire s = .next (s.refuse .busy))
        ∧ ∀ n, n ≤ 8 → n < number e → exec (.writeRecordPreemptTable n) s = .next (s.refuse .busy))
    ∧ (∀ n, n ≤ 8 → (∀ i ∈ s.engaged, number i ≤ n) → exec (.writeRecordPreemptTable n) s =
        .next ((s.setPre { s.pre with length := n }).accept .empty))
    ∧ (∀ n, 8 < n → exec (.writeRecordPreemptTable n) s = .next (s.refuse .range))
    ∧ ∀ n, n = 0 ∨ 8 < n → (∀ f, exec (.writeRecordPreemptEntry n f) s = .next (s.refuse .range))
        ∧ (∀ u, exec (.updateFieldsPreemptEntry n u) s = .next (s.refuse .range))
        ∧ exec (.retireRecordPreemptEntry n) s = .next (s.refuse .range))
  ∧ ∀ (e : EntryIx) (f : EntryFields) (r : Option EntryConfig), f.check e = some r ↔
    ((∀ p, f.plan = some p → 1 ≤ p ∧ p ≤ 16) ∧ (∀ n, f.priority = some n → 1 ≤ n ∧ n ≤ 4)
      ∧ (∀ a, f.source = some a → a = .named .command ∨ (a = .named .line ∧ number e ≤ 4))
      ∧ match r with
        | some c => f.present = true ∧ f.plan = some (number c.plan) ∧ f.priority = some c.priority
            ∧ f.source = some (.named c.source)
        | none => f.present = false)

/-- INSERT_SWITCHPOINT, DELETE_SWITCHPOINT and SET_CLOCK (R106, R108, R109): the points after a write are those
before but the one at the time, with the new one; a clock set reads the value and counts its second from
now; and each judges the current point: it is applied where it differs from the one held or replaces it (R110).
The clock's second (R105, R110, R111, R112): the clock advances, from 86399 to 0, and reaching a minute at which a
point stands applies it: it is current, its dim action has the effect of the DIM command (R20, R136), and its selection
is carried out. The RANGE checks (R106, R108, R109). -/
def Obligations.SchedulePointsAndClock : Prop :=
  (∀ s : State, s.Listens → s.link.lock ≠ .all → s.PointsLaw →
    (∀ (m : Nat) (p : PlanIx) (d : DimAction), m ≤ 1439 →
      (s.sched.points.length < 24 ∨ ∃ x ∈ s.sched.points, x.time = m) →
      ∃ u t, u.Ends t ∧ exec (.insertSwitchpoint m (number p) (.named d)) s = .next t
        ∧ t.reply = some okReply
        ∧ (∀ x, x ∈ u.sched.points ↔
            x = { time := m, plan := p, dim := d } ∨ (x ∈ s.sched.points ∧ x.time ≠ m))
        ∧ u.sched.points.Pairwise (fun x y => x.time < y.time)
        ∧ u.sched.clock = s.sched.clock ∧ u.sched.clockSet = s.sched.clockSet
        ∧ ((∃ x ∈ s.sched.points, x.time = m) → s.CurrentJudged u (some m))
        ∧ ((∀ x ∈ s.sched.points, x.time ≠ m) → s.CurrentJudged u none))
    ∧ (∀ m, m ≤ 1439 → (∃ x ∈ s.sched.points, x.time = m) →
      ∃ u t, u.Ends t ∧ exec (.deleteSwitchpoint m) s = .next t ∧ t.reply = some okReply
        ∧ u.sched.points = (s.sched.points.filter fun x => x.time != m)
        ∧ u.sched.clock = s.sched.clock ∧ u.sched.clockSet = s.sched.clockSet ∧ s.CurrentJudged u none)
    ∧ (∀ m, m ≤ 1439 → (∀ x ∈ s.sched.points, x.time ≠ m) →
        exec (.deleteSwitchpoint m) s = .next (s.refuse .absent)
        ∧ (24 ≤ s.sched.points.length → ∀ (p : PlanIx) (d : DimAction),
            exec (.insertSwitchpoint m (number p) (.named d)) s = .next (s.refuse .full)))
    ∧ (∀ m n d, 1439 < m ∨ n = 0 ∨ 16 < n ∨ d = .other →
        exec (.insertSwitchpoint m n d) s = .next (s.refuse .range))
    ∧ (∀ m, 1439 < m → exec (.deleteSwitchpoint m) s = .next (s.refuse .range))
    ∧ (∀ n, 86399 < n → exec (.setClock n) s = .next (s.refuse .range))
    ∧ (∀ n, n ≤ 86399 → ∃ u t, u.Ends t ∧ exec (.setClock n) s = .next t ∧ t.reply = some okReply
        ∧ u.sched.clock = n ∧ u.sched.clockSet = true ∧ u.sched.nextSecond = s.now + 1000
        ∧ u.sched.points = s.sched.points ∧ s.CurrentJudged u none))
  ∧ (∀ s : State, s.resetHeld = false → s.sched.nextSecond ≤ s.now →
    ∃ u t, u.Ends t ∧ exec .clockSecond s = .next t
      ∧ u.sched.clock = (if s.sched.clock = 86399 then 0 else (s.sched.clock + 1) % 86400)
      ∧ u.sched.nextSecond = s.sched.nextSecond + 1000 ∧ u.sched.points = s.sched.points
      ∧ u.sched.clockSet = s.sched.clockSet ∧ u.sched.hold = s.sched.hold
      ∧ (∀ x : SwitchPoint, s.sched.clockSet = true → u.sched.clock % 60 = 0 →
          s.pointAt (u.sched.clock / 60) = some x → s.Applied u x)
      ∧ (s.sched.clockSet = false ∨ u.sched.clock % 60 ≠ 0 ∨ s.pointAt (u.sched.clock / 60) = none →
          u = { s with sched := { s.sched with
            clock := u.sched.clock, nextSecond := u.sched.nextSecond } }))

/-! ## Supervision -/

/-- LEARN_LAMP and LEARN_LAMP ALL (R147): a fresh training of attempt 1 at the level on each assigned circuit
concerned, with the count in the reply; a SPARE circuit, or none assigned, is refused STATE. LEARN_CABLE and
LEARN_CABLE ALL (R162): a fresh learning on each assigned circuit concerned that is not in ALARM, with the
count in the reply; else STATE. Both are refused LOCKED under ALL and RANGE for a number or level outside. -/
def Obligations.LearningBegins : Prop :=
  (∀ (s : State) (l : DimLevel), s.Listens → s.link.lock ≠ .all →
    let begun : Training := { level := l, attempt := 1, samples := 0, min := none, max := none, sum := 0 }
    (∀ c : CircuitIx, s.assigned c = true → exec (.learnLamp (number c) (.named l)) s =
        .next ((s.setLamp c { (s.circuit c).lamp with training := some begun }).accept (.word 1)))
    ∧ (∀ c : CircuitIx, s.assigned c = false →
        exec (.learnLamp (number c) (.named l)) s = .next (s.refuse .state))
    ∧ ((∃ c : CircuitIx, s.assigned c = true) → ∃ t, exec (.learnLampAll (.named l)) s = .next t
        ∧ t.reply = some { status := .ok, payload := .word ((List.finRange 48).countP s.assigned) }
        ∧ (∀ c : CircuitIx, t.circuit c =
            if s.assigned c then
              { s.circuit c with lamp := { (s.circuit c).lamp with training := some begun } }
            else s.circuit c)
        ∧ t = { s with circuits := t.circuits, link := { s.link with transaction := t.link.transaction } })
    ∧ ((∀ c : CircuitIx, s.assigned c = false) →
        exec (.learnLampAll (.named l)) s = .next (s.refuse .state)))
  ∧ (∀ s : State, s.Listens → s.link.lock ≠ .all →
    let begun : CableLearning := { samples := 0, leakageSum := 0, chargeSum := 0 }
    let ready := fun c : CircuitIx => s.assigned c && !(s.circuit c).cable.state.isAlarm
    (∀ c : CircuitIx, ready c = true → exec (.learnCable (number c)) s =
        .next ((s.setCable c { (s.circuit c).cable with learning := some begun }).accept (.word 1)))
    ∧ (∀ c : CircuitIx, ready c = false → exec (.learnCable (number c)) s = .next (s.refuse .state))
    ∧ ((∃ c : CircuitIx, ready c = true) → ∃ t, exec .learnCableAll s = .next t
        ∧ t.reply = some { status := .ok, payload := .word ((List.finRange 48).countP ready) }
        ∧ (∀ c : CircuitIx, t.circuit c =
            if ready c then
              { s.circuit c with cable := { (s.circuit c).cable with learning := some begun } }
            else s.circuit c)
        ∧ t = { s with circuits := t.circuits, link := { s.link with transaction := t.link.transaction } })
    ∧ ((∀ c : CircuitIx, ready c = false) → exec .learnCableAll s = .next (s.refuse .state)))
  ∧ (∀ (s : State) (n : Nat) (l : Arg DimLevel), s.Listens →
    (s.link.lock = .all → exec (.learnLamp n l) s = .next (s.refuse .locked)
      ∧ exec (.learnLampAll l) s = .next (s.refuse .locked)
      ∧ exec (.learnCable n) s = .next (s.refuse .locked)
      ∧ exec .learnCableAll s = .next (s.refuse .locked))
    ∧ (s.link.lock ≠ .all →
      (n = 0 ∨ 48 < n → exec (.learnLamp n l) s = .next (s.refuse .range)
        ∧ exec (.learnCable n) s = .next (s.refuse .range))
      ∧ exec (.learnLamp n .other) s = .next (s.refuse .range)
      ∧ exec (.learnLampAll .other) s = .next (s.refuse .range)))

/-- ACK_CABLE and ACK_CABLE ALL (R160, R161): a record in ALARM is acknowledged, and leaves ALARM when its
clear run stands at 3, which raises CABLE_ALARM and no other kind; the count tells the flags changed; one not in ALARM
is refused STATE. -/
def Obligations.AcknowledgementLeavesAlarm : Prop :=
  ∀ s : State, s.Listens →
    let after := fun k : CablePart =>
      if k.state.isAlarm && !k.acknowledged then
        if k.count = 3 then
          { k with
            state := if k.baseline.isSome then .normal else .noBaseline,
            acknowledged := false, count := 0, counted := none }
        else { k with acknowledged := true }
      else k
    (∀ n, n = 0 ∨ 48 < n → exec (.ackCable n) s = .next (s.refuse .range))
    ∧ (∀ c : CircuitIx, (s.circuit c).cable.state.isAlarm = true → ∃ t,
        exec (.ackCable (number c)) s = .next t ∧ t.reply = some okReply
        ∧ t.circuit c = { s.circuit c with cable := after (s.circuit c).cable }
        ∧ (∀ d : CircuitIx, d ≠ c → t.circuit d = s.circuit d)
        ∧ t.holds .cableAlarm = (s.holds .cableAlarm ||
            ((s.circuit c).cable.count == 3 && !(s.circuit c).cable.acknowledged))
        ∧ (∀ a : Attention, a ≠ .cableAlarm → t.holds a = s.holds a)
        ∧ t = { s with circuits := t.circuits, link := { s.link with
                  attention := t.link.attention, transaction := t.link.transaction } })
    ∧ (∀ c : CircuitIx, (s.circuit c).cable.state.isAlarm = false →
        exec (.ackCable (number c)) s = .next (s.refuse .state))
    ∧ ∃ t, exec .ackCableAll s = .next t
        ∧ t.reply = some { status := .ok, payload := .word ((List.finRange 48).countP fun c =>
            (s.circuit c).cable.state.isAlarm && !(s.circuit c).cable.acknowledged) }
        ∧ (∀ c : CircuitIx, t.circuit c = { s.circuit c with cable := after (s.circuit c).cable })
        ∧ t.holds .cableAlarm = (s.holds .cableAlarm || (List.finRange 48).any fun c =>
            (s.circuit c).cable.state.isAlarm && !(s.circuit c).cable.acknowledged && (s.circuit c).cable.count == 3)
        ∧ (∀ a : Attention, a ≠ .cableAlarm → t.holds a = s.holds a)
        ∧ t = { s with circuits := t.circuits, link := { s.link with
                  attention := t.link.attention, transaction := t.link.transaction } }

/-- RECALIBRATE (R130): the table of channel states, effects and replies. -/
def Obligations.RecalibrateByChannelState : Prop :=
  ∀ s : State, s.Listens →
    let long := { s.channel with
      state := .calLong, shortDue := none, shortPresented := false, failFlag := false, owed := false,
      inFlight := none, calibration := some { kind := .long, start := s.now, attempt := 1 } }
    (s.channel.state = .ready ∨ s.channel.state = .fault ∨ s.channel.state = .calShort →
        exec .recalibrate s = .next { s with
          channel := long, link := { s.link with transaction := .replying ⟨.ok, .word 0⟩ } })
    ∧ (s.channel.state = .measuring → exec .recalibrate s = .next { s with
          channel := { s.channel with owed := true },
          link := { s.link with transaction := .replying ⟨.ok, .word 1⟩ } })
    ∧ (s.channel.state = .calLong → exec .recalibrate s =
          .next { s with link := { s.link with transaction := .replying ⟨.ok, .word 2⟩ } })

/-- DIM (R20, R136): naming the state held changes nothing; a change sets the state, ends every pending result
and withdraws every presented request, and begins the settling interval of 1.0 s; no drive is switched by the change
itself, which the end of the step follows. -/
def Obligations.DimChangesTheLevel : Prop :=
  ∀ (s : State) (on : Bool), s.Listens →
    let command := if on then Instr.dimOn else Instr.dimOff
    (s.output.dim = on → exec command s = .next (s.accept .empty))
    ∧ (s.output.dim ≠ on → ∃ u t : State, u.Ends t ∧ exec command s = .next t
        ∧ s.DimSet u on ∧ u.dimPin = on
        ∧ (∀ c : CircuitIx, (t.circuit c).schedule.presented = none)
        ∧ s.OnlyReplies u okReply
        ∧ u = { s with circuits := u.circuits, output := u.output, sup := u.sup, link := u.link })

/-! ## The junction's commands -/

/-- START (R166): refused STATE, MONITOR_FAULT and NO_PLAN in that order; accepted in DARK it makes
SAFE_ENABLE active, flashes the vehicle groups and enters START_FLASH; accepted in FLASH it shows every
group red, clears the red circuits' lamp states (R146) and enters START_RED. -/
def Obligations.StartBeginsTheSequence : Prop :=
  ∀ s : State, s.Listens →
    let planReady := ∃ p, s.seq.current = some p ∧ (s.plan p).phase = some .ready ∧ (s.plan p).isBase = true
    (((s.junction.state ≠ .dark ∧ s.junction.state ≠ .flash) ∨ ∀ g : GroupIx, (s.group g).config = none) →
        exec .start s = .next (s.refuse .state))
    ∧ ((s.junction.state = .dark ∨ s.junction.state = .flash) → (∃ g : GroupIx, (s.group g).config ≠ none) →
        (s.channel.state = .fault → exec .start s = .next (s.refuse .monitorFault))
        ∧ (s.channel.state ≠ .fault → ¬planReady → exec .start s = .next (s.refuse .noPlan))
        ∧ (s.channel.state ≠ .fault → planReady → ∃ u t : State, u.Ends t ∧ exec .start s = .next t
          ∧ u.reply = some okReply ∧ u.holds .junctionState = true ∧ u.junction.entry = s.now
          ∧ u.junction.clearance = none ∧ u.output.safeEnable = (s.output.safeEnable || s.junction.state == .dark)
          ∧ u.plans = s.plans ∧ u.pre = s.pre ∧ u.sched = s.sched ∧ u.conflicts = s.conflicts
          ∧ u.seq = { s.seq with greenStarts := u.seq.greenStarts }
          ∧ (s.junction.state = .dark → u.junction.state = .startFlash ∧ u.output.safeSince = s.now
              ∧ (∀ (g : GroupIx) k, (s.group g).config = some k → (u.group g).awaited = none
                  ∧ (u.group g).aspect = if k.vehicle.isSome then .flashAmber else .dark)
              ∧ ∀ c : CircuitIx, (u.circuit c).lamp = (s.circuit c).lamp)
          ∧ (s.junction.state = .flash → u.junction.state = .startRed
              ∧ (∀ g : GroupIx, (s.group g).config ≠ none →
                  (s.group g).aspect = .dark ∨ (s.group g).aspect = .flashAmber →
                  (u.group g).aspect = .red)
              ∧ ∀ c : CircuitIx, (u.circuit c).lamp =
                  if s.isRed c then { (s.circuit c).lamp with
                    state := .unmeasured, pendingResult := none, agreement := 0, cause := none }
                  else (s.circuit c).lamp)))

/-- FLASH (R81, R103, R169): in RUNNING the clearance begins, with the preemptions, the requests, the awaited
greens and the pending plan gone and the correction cleared; the plans of the preemptions and the pending plan are
READY again; and every green is ended at once where all min greens have passed, or else together at the latest of
their expiries. In START_RED its all-red begins at once; a clearance running, and FLASH, change nothing; elsewhere
STATE. -/
def Obligations.FlashBeginsTheClearance : Prop :=
  ∀ s : State, s.Listens →
    let green := fun g : GroupIx => (s.group g).aspect = .green
    let returned := fun p : PlanIx => s.seq.pendingPlan = some p
      ∨ ∃ c ∈ s.pre.chain, c.invoker ≠ none ∧ c.plan = p
    (s.junction.state = .running → s.junction.clearance = none → ∃ u t : State, u.Ends t
      ∧ exec .flash s = .next t ∧ u.reply = some okReply ∧ u.junction.state = .running
      ∧ u.junction.clearance ≠ none ∧ u.output.safeEnable = s.output.safeEnable
      ∧ u.seq.state = .clearance ∧ u.seq.remainder = none ∧ u.seq.excess = 0 ∧ u.seq.latch = false
      ∧ u.seq.sync = .none ∧ u.seq.watchStart = none ∧ u.seq.pendingPlan = none
      ∧ u.seq.current = s.seq.current ∧ u.guard = [] ∧ u.pre.waiting = []
      ∧ (∀ c ∈ u.pre.chain, c.invoker = none)
      ∧ (∀ g : GroupIx, (s.group g).config ≠ none →
          (s.group g).aspect = .red ∨ (s.group g).aspect = .redAmber ∨ (s.group g).aspect = .amber →
          (u.group g).awaited = none ∧ (u.group g).aspect ≠ .redAmber ∧ (u.group g).aspect ≠ .green)
      ∧ (s.preempted = true → u.holds .preemptEnd = true)
      ∧ (∀ p, returned p → u.plan p = (s.plan p).toPhase .ready) ∧ (∀ p, ¬returned p → u.plan p = s.plan p)
      ∧ (s.ExpiredAt green s.now → u.seq.loseAt = none ∧ ∀ (g : GroupIx) k, green g →
          (s.group g).config = some k → (u.group g).aspect = if k.vehicle.isSome then .amber else .red)
      ∧ (¬s.ExpiredAt green s.now → (∀ g, green g → (u.group g).aspect = .green)
          ∧ ∃ a, u.seq.loseAt = some a ∧ s.ExpiredAt green a ∧ ∀ b, b < a → ¬s.ExpiredAt green b))
    ∧ (s.junction.state = .startRed → s.junction.clearance = none → exec .flash s = .next { s with
        junction := { s.junction with clearance := some (.allRed s.now) },
        link := { s.link with transaction := .replying okReply } })
    ∧ (s.junction.state = .flash
        ∨ ((s.junction.state = .running ∨ s.junction.state = .startRed) ∧ s.junction.clearance ≠ none) →
        exec .flash s = .next (s.accept .empty))
    ∧ (s.junction.state = .dark ∨ s.junction.state = .startFlash ∨ s.junction.state = .lockout →
        exec .flash s = .next (s.refuse .state))

/-- DARK (R170): from a supplied state the junction enters DARK with every output off and RUNNING left, and an owed
selection is paid (R113); the fall of SAFE_ENABLE closes the lit periods and voids the measurement in flight, which
leaves the channel READY, or in the long calibration it owes (R17, R124, R125, R131, R133); in DARK nothing changes; in
LOCKOUT it is refused STATE. -/
def Obligations.DarkTurnsTheOutputsOff : Prop :=
  ∀ s : State, s.Listens →
    (s.junction.state.supplied = true → ∃ u t : State, u.Ends t ∧ s.PoweredOff u ∧ exec .dark s = .next t
      ∧ t.reply = some okReply
      ∧ t.junction = { s.junction with state := .dark, entry := s.now, clearance := none }
      ∧ t.holds .junctionState = true ∧ s.AllOff t
      ∧ (s.junction.state = .running → s.RunningLeft t) ∧ s.LeftAndPaid t)
    ∧ (s.junction.state = .dark → exec .dark s = .next (s.accept .empty))
    ∧ (s.junction.state = .lockout → exec .dark s = .next (s.refuse .state))

/-- LOCKOUT and CLEAR_LOCKOUT (R171, R172, R173): under SAFE_ENABLE the junction enters LOCKOUT with every
output off, a new record and an owed selection paid (R113), and the fall of SAFE_ENABLE voids the measurement in flight
(R124, R125); from DARK it enters LOCKOUT and moves no drive; in
LOCKOUT the further-causes flag is set; the clear enters DARK with the record cleared, and is refused STATE
elsewhere. That LOCKOUT in DARK raises the LOCKOUT kind is the model's choice (log entry 42). -/
def Obligations.LockoutIsTakenAndCleared : Prop :=
  ∀ s : State, s.Listens →
    let record : LockoutRecord := {
      cause := .forced, group := none, circuit := none,
      time := if s.sched.clockSet then some s.sched.clock else none, further := false, cleared := false }
    (s.output.safeEnable = true → s.junction.state ≠ .dark → ∃ u t : State, u.Ends t ∧ s.PoweredOff u
      ∧ exec .lockout s = .next t
      ∧ t.reply = some okReply ∧ t.holds .lockout = true ∧ t.holds .junctionState = true ∧ s.AllOff t
      ∧ t.junction = { s.junction with
          state := .lockout, entry := s.now, clearance := none, lockout := some record }
      ∧ (s.junction.state = .running → s.RunningLeft t) ∧ s.LeftAndPaid t)
    ∧ (s.junction.state = .dark → ∃ t, exec .lockout s = .next t ∧ t.reply = some okReply
      ∧ t.holds .lockout = true ∧ t.holds .junctionState = true
      ∧ t.junction = { s.junction with
          state := .lockout, entry := s.now, clearance := none, lockout := some record }
      ∧ t.output = s.output ∧ t.groups = s.groups
      ∧ ∀ c : CircuitIx, (t.circuit c).drive = (s.circuit c).drive)
    ∧ (s.junction.state = .lockout → s.output.safeEnable = false → ∃ t, exec .lockout s = .next t
      ∧ t.reply = some okReply ∧ t.link.attention = s.link.attention
      ∧ t.junction = { s.junction with
          lockout := s.junction.lockout.map fun r => { r with further := true } })
    ∧ (s.junction.state = .lockout → ∃ t, exec .clearLockout s = .next t ∧ t.reply = some okReply
      ∧ t.holds .junctionState = true
      ∧ t.junction = { s.junction with
          state := .dark, entry := s.now, clearance := none,
          lockout := s.junction.lockout.map fun r => { r with cleared := true } }
      ∧ t = { s with junction := t.junction, link := { s.link with
                attention := t.link.attention, transaction := t.link.transaction } })
    ∧ (s.junction.state ≠ .lockout → exec .clearLockout s = .next (s.refuse .state))

/-! ## Plans selected -/

/-- SELECT_PLAN (R79, R80): refused RANGE, STATE in a start sequence and in CLEARANCE, and NO_PLAN for a plan that
is not BASE or in no state it accepts, in that order; else outside RUNNING the plan is current at once, and in
RUNNING a READY one is SELECTED and pending and any other SELECTED plan READY, a SELECTED one changes nothing, and
an ACTIVE one drops the pending plan; HOLD sets the hold flag and drops an owed selection. RELEASE_TO_SCHEDULE
(R112, R113, R114): it clears the hold flag and selects the current entry's plan as a switch point does, with its
outcome as the reply's word. -/
def Obligations.SelectionMakesCurrentOrPending : Prop :=
  ∀ (s : State) (p : PlanIx) (h : HoldArg), s.Listens →
    let held := fun d : Schedule => match h with
      | .hold => { d with hold := true, owed := false }
      | .noHold => d
    (∀ n a, n = 0 ∨ 16 < n ∨ a = .other → exec (.selectPlan n a) s = .next (s.refuse .range))
    ∧ (s.Barred → exec (.selectPlan (number p) (.named h)) s = .next (s.refuse .state))
    ∧ (¬s.Barred → ¬s.Acceptable p → exec (.selectPlan (number p) (.named h)) s = .next (s.refuse .noPlan))
    ∧ (¬s.Barred → s.Acceptable p → ∃ t, exec (.selectPlan (number p) (.named h)) s = .next t
        ∧ t.reply = some okReply ∧ s.PlanSelected t p ∧ t.sched = held s.sched
        ∧ t = { s with plans := t.plans, seq := t.seq, sched := t.sched, link := t.link })
    ∧ ∃ t, exec .releaseToSchedule s = .next t ∧ t.sched.hold = false ∧ t.sched.points = s.sched.points
        ∧ t.sched.current = s.sched.current ∧ t.output = s.output
        ∧ t = { s with plans := t.plans, seq := t.seq, sched := t.sched, link := t.link }
        ∧ (s.sched.current = none → t = { s with
            sched := { s.sched with hold := false },
            link := { s.link with transaction := .replying ⟨.ok, .word 0⟩ } })
        ∧ (∀ x : SwitchPoint, s.sched.current = some x.time → s.pointAt x.time = some x →
            (s.setSched { s.sched with hold := false }).ScheduleSelected t x.plan
            ∧ (s.Barred → t.reply = some ⟨.ok, .word 2⟩)
            ∧ (¬s.Barred → t.reply = some ⟨.ok, .word (if s.Acceptable x.plan then 1 else 3)⟩))

/-! ## Modes, pulses and advances -/

/-- SET_MODE (R69): a mode held already has no effect; outside a running sequence the field alone is set; in
RUNNING a change to STEPPED drops the cycle, the correction, the watch and the latch, a change to SYNCED starts
the watch now, and a change from SYNCED to FREE drops the watch and the remainder. A change from STEPPED (R78): the
latch, the excess and the remainder are gone, the watch starts on the way to SYNCED alone, and with the base
context on top the cycle is re-established: in an interstage from its nominal start, in a stage from its nominal
green start, with the effective split as its length, and where that has already passed ended at once, or held for
its min greens. That a stage whose split passes at the change itself ends then is the model's reading (log entry 23),
and that a change to STEPPED makes the last accepted pulse absent is its choice (log entry 36). -/
def Obligations.SetModeActsByTheChange : Prop :=
  ∀ (s : State) (m : Mode), s.Listens →
    let command := match m with
      | .free => Instr.setModeFree
      | .synced => Instr.setModeSynced
      | .stepped => Instr.setModeStepped
    (s.junction.mode = m → exec command s = .next (s.accept .empty))
    ∧ (s.junction.mode ≠ m → ∃ u t : State, u.Ends t ∧ exec command s = .next t ∧ u.reply = some okReply
      ∧ u.junction = { s.junction with mode := m }
      ∧ ((s.seq.state = .idle ∨ s.seq.state = .clearance) →
          u = { s with junction := u.junction, link := { s.link with transaction := u.link.transaction } })
      ∧ ((s.seq.state = .stage ∨ s.seq.state = .interstage) →
          (m = .stepped → u.seq.remainder = none ∧ u.seq.excess = 0 ∧ u.seq.position = none
            ∧ u.seq.watchStart = none ∧ u.seq.lastPulse = none ∧ u.seq.sync = .none ∧ u.seq.latch = false
            ∧ u.seq.state = s.seq.state ∧ u.seq.stage = s.seq.stage
            ∧ (s.topPreemption = none → u.seq.length = none))
          ∧ (m = .synced → s.junction.mode = .free → u.seq = { s.seq with
              remainder := none, lastPulse := none, watchStart := some s.now, sync := s.syncWithin })
          ∧ (m = .free → s.junction.mode = .synced → u.seq = { s.seq with
              remainder := none, lastPulse := none, watchStart := none, sync := .none })
          ∧ (s.junction.mode = .stepped → u.seq.latch = false ∧ u.seq.remainder = none
            ∧ (m = .synced → u.seq.watchStart = some s.now)
            ∧ let q := { s.seq with
                latch := false, excess := 0, remainder := none, lastPulse := none,
                watchStart := if m = .synced then some s.now else none,
                sync := if m = .synced then s.syncWithin else .none }
              (s.topPreemption ≠ none → s.stageEndDue = false → u.seq = q ∧ u.pre = s.pre)
              ∧ ∀ b d x i, s.topPreemption = none → s.baseData = some (b, d, x) → s.seq.stage = some i →
                let start := d.nominalStart x b.slackIndex i
                let green := start + d.interstage i
                let stageEnd := s.seq.greenStart + 100 * d.split i
                let passed := stageEnd ≤ s.now
                  ∧ (stageEnd < s.now → ∀ g ∈ s.seq.gaining, ∀ a, s.seq.greenStarts.get g = some a →
                      a + 100 * s.minGreen g ≤ s.now)
                let staged := { q with
                  length := some (d.split i), holdMinGreen := decide (stageEnd < s.now),
                  position := some { value := green, since := some s.seq.greenStart,
                                     limit := d.nominalStart x b.slackIndex (i + 1) } }
                (s.seq.state = .interstage → u.seq = { q with
                  position := some { value := start, since := some s.seq.interStart, limit := green } })
                ∧ (s.seq.state = .stage → ¬passed → u.seq = staged)
                ∧ (s.seq.state = .stage → passed → u =
                    State.accept ({ s with junction := u.junction, seq := staged } : State).endStage
                      .empty))))

/-- ADVANCE and the ADVANCE line (R76, R77): the first row of the table ends the stage, the second sets the
latch, the third discards, and elsewhere the command is refused STATE and the line changes nothing; a latch
whose instant has come is taken and ends the stage alike. -/
def Obligations.AdvancesEndOrLatch : Prop :=
  ∀ s : State, s.resetHeld = false →
    let stepping := s.junction.mode = .stepped ∧ (s.seq.state = .stage ∨ s.seq.state = .interstage)
      ∧ s.topPreemption = none
    let passed := s.seq.state = .stage ∧ ∀ g ∈ s.seq.gaining, ∀ a, s.seq.greenStarts.get g = some a →
      a + 100 * s.minGreen g ≤ s.now
    (s.link.transaction = .idle →
      (stepping → s.seq.latch = false → passed →
          exec .advance s = .next (s.settle (s.endStage.accept (.word 0))))
      ∧ (stepping → s.seq.latch = false → ¬passed →
          exec .advance s = .next ((s.setSeq { s.seq with latch := true }).accept (.word 1)))
      ∧ (stepping → s.seq.latch = true → exec .advance s = .next (s.accept (.word 2)))
      ∧ (¬stepping → exec .advance s = .next (s.refuse .state)))
    ∧ (stepping → s.seq.latch = false → passed → exec .advanceLineActive s = .next (s.settle s.endStage))
    ∧ (stepping → s.seq.latch = false → ¬passed →
        exec .advanceLineActive s = .next (s.setSeq { s.seq with latch := true }))
    ∧ (stepping → s.seq.latch = true → exec .advanceLineActive s = .next s)
    ∧ (¬stepping → exec .advanceLineActive s = .next s)
    ∧ (stepping → s.seq.latch = true → passed →
        exec .latchTaken s = .next (s.settle (s.setSeq { s.seq with latch := false }).endStage))

/-- A SYNC pulse (R70, R71, R72): ignored outside a running SYNCED sequence and as noise; else accepted, with the
watch restarted, the status re-derived, a loss regained, and the remainder the correction from the cycle position, or
absent while stretched or preempted. The status within the watch is NOT_HELD under a stretched current plan or a
preemption, else HELD (R74). The sync watch expires (R75) at the watch start plus 2 Ceff + 50: the status is LOST, the
remainder gone and SYNC_LOST raised. -/
def Obligations.PulsesAndTheSyncWatch : Prop :=
  (∀ (s : State) (b : PlanBody) (d : Derived) (x : BaseDerived), s.resetHeld = false →
    (s.junction.mode ≠ .synced ∨ s.seq.state = .idle ∨ s.seq.state = .clearance →
        exec .syncPulse s = .next s)
    ∧ (s.baseData = some (b, d, x) → (∃ a, s.seq.lastPulse = some a ∧
        2 * (s.now - a) < 100 * b.cycleTime) → exec .syncPulse s = .next s)
    ∧ (s.junction.mode = .synced → (s.seq.state = .stage ∨ s.seq.state = .interstage) →
        s.baseData = some (b, d, x) →
        (∀ a, s.seq.lastPulse = some a → 100 * b.cycleTime ≤ 2 * (s.now - a)) →
        ∃ t, exec .syncPulse s = .next t
          ∧ t.seq = { s.seq with
              lastPulse := some s.now, watchStart := some s.now, remainder := t.seq.remainder,
              sync := s.syncWithin }
          ∧ ((x.stretched = true ∨ s.preempted = true) → t.seq.remainder = none)
          ∧ (x.stretched = false → s.preempted = false → ∀ p, s.positionNow = some p →
              t.seq.remainder = correction b.cycleTime b.offsetTime x p)
          ∧ t.holds .syncRegained = (s.holds .syncRegained || s.seq.sync == .lost)
          ∧ t = { s with seq := t.seq, draws := t.draws, link := { s.link with attention := t.link.attention } }))
  ∧ (∀ (s : State) (b : PlanBody) (d : Derived) (x : BaseDerived) (w : Instant), s.resetHeld = false →
    s.junction.mode = .synced → (s.seq.state = .stage ∨ s.seq.state = .interstage) → s.seq.sync ≠ .lost →
    s.seq.watchStart = some w → s.baseData = some (b, d, x) →
    (w + 100 * (2 * x.ceff + 50) ≤ s.now → exec .syncWatchExpiry s = .next { s with
        seq := { s.seq with sync := .lost, remainder := none },
        link := { s.link with attention := s.link.attention ||| BitVec.twoPow 18 9 } })
    ∧ (s.now < w + 100 * (2 * x.ceff + 50) → exec .syncWatchExpiry s = .next s))
  ∧ ∀ s : State,
    let strained := (∃ c ∈ s.pre.chain, c.invoker ≠ none)
      ∨ ∃ p ph b d x, s.seq.current = some p ∧ s.plan p = .valid ph b d ∧ d.base = some x
          ∧ x.stretched = true
    (strained → s.syncWithin = .notHeld) ∧ (¬strained → s.syncWithin = .held)

/-- The correction (R71): with e the error of the position over the desired one, none within 2 of it, then
LENGTHEN by e up to half the cycle, then SHORTEN by C - e, or LENGTHEN by e where nothing can be shortened. -/
def Obligations.CorrectionByTheError : Prop :=
  ∀ (c o p : Nat) (x : BaseDerived), 4 < c → o < c → p < c →
    let desired := (c - o) % c
    let e := (p + c - desired) % c
    (desired + e) % c = p ∧ e < c
    ∧ (e ≤ 2 ∨ c - 2 ≤ e → correction c o x p = none)
    ∧ (2 < e → e < c - 2 → e ≤ c / 2 → correction c o x p = some { direction := .lengthen, amount := e })
    ∧ (c / 2 < e → e < c - 2 → 0 < min (c / 8) (x.slackSplit - x.slackFloor) →
        correction c o x p = some { direction := .shorten, amount := c - e })
    ∧ (c / 2 < e → 2 < e → e < c - 2 → min (c / 8) (x.slackSplit - x.slackFloor) = 0 →
        correction c o x p = some { direction := .lengthen, amount := e })

/-! ## Preemption -/

/-- PREEMPT (R88, R89): refused RANGE for the number and STATE for a LINE entry in the table; an entry served
already is answered SERVED; one whose context is in the chain or pending although its request was released has the
request ASSERTED again, and its chain and pending list stand (R88, R97): which of the three words of R177 answers it is
free (log entry 32); a release beyond the length or of an empty entry is refused with its code, one of
an asserted entry clears the request, the stuck flag and the pending element, and one of a released entry
changes nothing. -/
def Obligations.PreemptCommandsAnswer : Prop :=
  ∀ (s : State) (e : EntryIx), s.Listens →
    (∀ n, n = 0 ∨ 8 < n → exec (.preemptAssert n) s = .next (s.refuse .range)
        ∧ exec (.preemptRelease n) s = .next (s.refuse .range))
    ∧ (s.lineEntryInTable e = true → exec (.preemptAssert (number e)) s = .next (s.refuse .state)
        ∧ exec (.preemptRelease (number e)) s = .next (s.refuse .state))
    ∧ (s.lineEntryInTable e = false →
      (e ∈ s.engaged → (s.entry e).asserted = true →
          exec (.preemptAssert (number e)) s = .next (s.accept (.word 2)))
      ∧ (e ∈ s.engaged → (s.entry e).asserted = false → ∃ t w, exec (.preemptAssert (number e)) s = .next t
          ∧ w ≤ 2 ∧ t.reply = some { status := .ok, payload := .word w }
          ∧ t.entry e = { s.entry e with asserted := true }
          ∧ (∀ i : EntryIx, i ≠ e → t.entry i = s.entry i)
          ∧ t = { s with
              pre := { s.pre with entries := t.pre.entries }, draws := s.draws + 1,
              link := { s.link with transaction := t.link.transaction } })
      ∧ (s.pre.length < number e → exec (.preemptRelease (number e)) s =
          .next (s.answer { status := .preempt, payload := .preempt .range (number e) }))
      ∧ (number e ≤ s.pre.length → (s.entry e).config = none → exec (.preemptRelease (number e)) s =
          .next (s.answer { status := .preempt, payload := .preempt .absent (number e) }))
      ∧ (number e ≤ s.pre.length → (s.entry e).config ≠ none →
          ((s.entry e).asserted = false → exec (.preemptRelease (number e)) s = .next (s.accept .empty))
          ∧ ((s.entry e).asserted = true → ∃ t, exec (.preemptRelease (number e)) s = .next t
            ∧ t.entry e = { s.entry e with asserted := false, stuck := false }
            ∧ (∀ i : EntryIx, i ≠ e → t.entry i = s.entry i)
            ∧ t.pre.waiting = (s.pre.waiting.filter fun w => w.entry != e)
            ∧ s.OnlyReplies t okReply
            ∧ t = { s with
                pre := { s.pre with entries := t.pre.entries, waiting := t.pre.waiting }, link := t.link })))

/-- The entry checks (R90): a code is given exactly when its condition holds and that of no code before it. An
assertion judged (R88, R91, R92, R94, R95), by PREEMPT or by a line qualified ASSERTED (R87), of an entry
not engaged: refused with its code, joined to the pending list by its priority behind its equals, or accepted, with
the running context's record written, the new context pushed, its plan INVOKED, PREEMPT_START raised, and the
remainder and the latch dropped; from a stage the truncation into stage 1 begins at once, and from an interstage it
waits. A second acceptance in one interstage leaves every record beneath it as it was (R93, R94). A PREEMPT command is
answered PREEMPT with the code, PENDING or ACCEPTED (R89, R91). -/
def Obligations.AssertionsAreJudged : Prop :=
  (∀ (s : State) (e : EntryIx) (code : PCode), s.entryCheck e = some code ↔
    (s.EntryFails e code ∧ ∀ x : PCode, x.code < code.code → ¬s.EntryFails e x))
  ∧ (∀ (s : State) (n : Nat), s.outranks n = true ↔
      ∀ c k, s.pre.chain.head? = some c → c.invoker = some k → k.priority < n)
  ∧ ∀ (s v : State) (e : EntryIx) (i : Instr), s.resetHeld = false → e ∉ s.engaged →
    ((i = .preemptAssert (number e) ∧ s.link.transaction = .idle ∧ s.lineEntryInTable e = false ∧ v = s)
      ∨ ∃ n : LineIx, i = .prqAsserted (number n) ∧ number n = number e ∧ s.prqAssertDue n = true
          ∧ s.lineBound n = true ∧ v = s.setLine n { s.pre.lines.get n with asserted := true }) →
    let w := v.setEntry e { s.entry e with asserted := true }
    ∃ x t : State, x.Ends t ∧ exec i s = .next t ∧ w.AssertionJudged x e
      ∧ (∀ n, i = .prqAsserted n → x.link.transaction = s.link.transaction)
      ∧ (∀ n, i = .preemptAssert n → x.reply = some (match w.entryCheck e with
          | some .depth => { status := .ok, payload := .word 1 }
          | some code => { status := .preempt, payload := .preempt code (number e) }
          | none => { status := .ok, payload := .word (if w.outranks (w.entryPriority e) then 0 else 1) }))

/-- The request lines (R87): a change restarts the interval; a line qualifies ASSERTED after 0.2 s active and RELEASED
after 1.0 s inactive, and an unbound line moves nothing else; a bound one whose entry is in the chain or pending
asserts the entry again, and nothing more (R88, R97); a bound one released clears its entry's request and element.
That a level is followed, and its interval restarted, while RESET_N is held is the model's choice (log entry 16). -/
def Obligations.RequestLinesQualify : Prop :=
  ∀ (s : State) (n : LineIx) (a : Bool),
    let line := s.pre.lines.get n
    (line.active ≠ a → exec (.prqLineChange (number n) a) s =
        .next (s.setLine n { line with active := a, since := s.now }))
    ∧ (line.active = a → exec (.prqLineChange (number n) a) s = .next s)
    ∧ (s.resetHeld = false →
      (line.asserted = false → line.active = true → line.since + 200 ≤ s.now → s.lineBound n = false →
        ∃ t, exec (.prqAsserted (number n)) s = .next t
          ∧ (s.setLine n { line with asserted := true }).Ends t)
      ∧ (line.asserted = false → line.active = true → line.since + 200 ≤ s.now → s.lineBound n = true →
        lineEntry n ∈ s.engaged → exec (.prqAsserted (number n)) s = .next (((s.setLine n { line with
          asserted := true }).setEntry (lineEntry n) { s.entry (lineEntry n) with
            asserted := true }).renewOffer.arbitrate))
      ∧ (line.asserted = true → line.active = false → line.since + 1000 ≤ s.now →
        ∃ t, exec (.prqReleased (number n)) s = .next t
          ∧ t.pre.lines.get n = { line with asserted := false }
          ∧ (∀ m : LineIx, m ≠ n → t.pre.lines.get m = s.pre.lines.get m)
          ∧ (s.lineBound n = true → (t.entry (lineEntry n)).asserted = false
              ∧ (t.entry (lineEntry n)).stuck = false
              ∧ t.pre.waiting = s.pre.waiting.filter fun w => w.entry != lineEntry n)
          ∧ (s.lineBound n = false → t.pre.entries = s.pre.entries ∧ t.pre.waiting = s.pre.waiting)
          ∧ t = { s with pre := { s.pre with
                    lines := t.pre.lines, entries := t.pre.entries, waiting := t.pre.waiting } }))

/-- The end of a preemption (R97, R99): the dwell ends when its min greens have passed and either max dwell has, or
the request is released, min dwell has passed and its green length has; the top context is popped, its plan is
READY and PREEMPT_END is raised, and the return follows. A try of the pending list (R100): elements above the
running priority that fail a refusing check are dropped, one that passes is accepted and truncates, and else the
list stands. A preemption context then on top that is released, in its dwell and past its min dwell is popped
through (R101), and any other context is resumed: its saved stage runs again, and the base's cycle position and
excess are restored (R102). Max dwell (R98): the entry is stuck and PREEMPT_STUCK raised; with its min greens still
running the dwell goes on, and ends with them; that a dwell already past it when its entry is asserted again is
stuck at once is the model's choice (log entry 38). -/
def Obligations.DwellsEndAndStick : Prop :=
  (∀ (s : State) (c base : Context) (b : PlanBody) (d : Derived), s.resetHeld = false →
    s.dwellEndDue = true → s.pre.chain = [c, base] → base.invoker = none → c.plan ≠ base.plan →
    s.pre.waiting = [] → s.planData base.plan = some (b, d) →
    ∃ x t : State, x.Ends t ∧ exec .dwellEnd s = .next t ∧ x.still = s.still
      ∧ x.pre.waiting = [] ∧ x.holds .preemptEnd = true
      ∧ (x.plan c.plan) = (s.plan c.plan).toPhase .ready
      ∧ (∀ p : PlanIx, p ≠ c.plan → x.plan p = s.plan p)
      ∧ x.pre.chain.map (fun z => (z.plan, z.invoker)) = [(base.plan, none)]
      ∧ s.Transfers x base.stage (b.greens base.stage))
  ∧ (∀ (s : State) (c : Context) (k : Invoker) (b : PlanBody) (d : Derived) (rest : List Context),
    s.resetHeld = false → s.seq.state = .stage → s.pre.chain = c :: rest → c.invoker = some k →
    c.inDwell = true → s.planData c.plan = some (b, d) →
    let dwelt := 100 * c.dwell + (s.now - s.seq.greenStart)
    let passed := s.ExpiredAt (· ∈ s.seq.gaining) s.now
    let popped := fun v : State => returnThrough rest
      (((v.setPre { v.pre with chain := rest }).returnReady c.plan).raise .preemptEnd)
    (passed → (s.seq.dwellOver = true ∨ ((s.entry k.entry).asserted = false ∧ 100 * b.dwells.1 ≤ dwelt
        ∧ s.seq.greenStart + 100 * s.seq.length.getD 0 ≤ s.now)) →
      exec .dwellEnd s = .next (s.settle (popped s)))
    ∧ (¬(passed ∧ (s.seq.dwellOver = true ∨ ((s.entry k.entry).asserted = false
        ∧ 100 * b.dwells.1 ≤ dwelt ∧ s.seq.greenStart + 100 * s.seq.length.getD 0 ≤ s.now))) →
      exec .dwellEnd s = .next s)
    ∧ ((s.entry k.entry).asserted = true → s.seq.dwellOver = false → 100 * b.dwells.2 ≤ dwelt →
      let stuck := (s.setEntry k.entry { s.entry k.entry with stuck := true }).raise .preemptStuck
      let spent := stuck.setSeq { stuck.seq with dwellOver := true }
      exec .maxDwell s = .next (s.settle (if s.expired s.seq.gaining then popped spent else spent))
      ∧ (s.expired s.seq.gaining = true ↔ passed)
      ∧ ((popped spent).entry k.entry).stuck = true ∧ (popped spent).holds .preemptStuck = true
      ∧ (popped spent).holds .preemptEnd = true))
  ∧ ∀ (v : State) (c : Context) (rest : List Context) (b : PlanBody) (d : Derived) (dropped stay : List Waiting),
    v.pre.chain = c :: rest → v.planData c.plan = some (b, d) → v.Drops dropped stay →
    let x := returnThrough (c :: rest) v
    let left := v.afterDrops dropped stay
    (∀ w later k, stay = w :: later → v.outranks w.priority = true → v.entryCheck w.entry = none →
      (v.entry w.entry).config = some k →
      (∃ y, x.pre.chain = y :: c :: rest ∧ y.plan = k.plan
        ∧ y.invoker = some { entry := w.entry, priority := k.priority })
      ∧ x.pre.waiting = later ∧ x.pre.lastRefusal = left.pre.lastRefusal
      ∧ (x.plan k.plan).phase = some .invoked ∧ x.holds .preemptStart = true
      ∧ x.holds .preemptRefused = left.holds .preemptRefused ∧ x.seq.remainder = none ∧ x.seq.latch = false
      ∧ x.still = v.still ∧ ∀ b' d', v.planData k.plan = some (b', d') → v.Transfers x 1 (b'.greens 1))
    ∧ ((∀ w later, stay = w :: later → v.outranks w.priority = false ∨ v.entryCheck w.entry ≠ none) →
      let through := c.inDwell = true ∧ b.dwells.1 ≤ c.dwell
        ∧ ∃ k, c.invoker = some k ∧ (v.entry k.entry).asserted = false
      (through → x = returnThrough rest
        (((left.setPre { left.pre with chain := rest }).returnReady c.plan).raise .preemptEnd))
      ∧ (¬through → x.pre.waiting = stay ∧ x.pre.lastRefusal = left.pre.lastRefusal
        ∧ x.link = left.link ∧ x.plans = v.plans ∧ x.still = v.still
        ∧ x.pre.chain.map (fun z => (z.plan, z.invoker)) = v.pre.chain.map (fun z => (z.plan, z.invoker))
        ∧ v.Transfers x c.stage (b.greens c.stage)
        ∧ x.seq.resumed = some c.elapsed
        ∧ (x.seq.state = .interstage → x.seq.slackLength = c.slackLength ∧ x.seq.excess = c.excess
            ∧ x.seq.position = c.position.map fun p => { value := p, since := none, limit := p })))

/-! ## Groups and the guard -/

/-- The guard's answer (R33): the green start is the latest of the change instant plus the red-amber time, every
conflicting number's green-off instant plus its intergreen, and the instant of the answer. A request is answerable
when every conflicting group is clear and no older one conflicts with it (R32). A judgement (R32, R34): a request
left open is not answerable behind those before it; one that leaves the list was answered, so that its group, where
it takes a GAIN, awaits the green start fixed for it; an awaited green start that was not held before is that of an
open request whose conflicting groups were all clear; and nothing else changes. Every step leaves the guard judged: no
open request is answerable behind those before it, and no group has two (R31, R32). -/
def Obligations.GuardAnswers : Prop :=
  (∀ (s : State) (r : GuardRequest),
    let tg := s.greenStartFor r
    r.change + 100 * s.redAmber r.group ≤ tg ∧ s.now ≤ tg
    ∧ (∀ (l : GroupIx) (n : Nat), s.intergreen l r.group = some n → (s.group l).greenOff + 100 * n ≤ tg)
    ∧ (tg = r.change + 100 * s.redAmber r.group ∨ tg = s.now
        ∨ ∃ (l : GroupIx) (n : Nat), s.intergreen l r.group = some n
            ∧ tg = (s.group l).greenOff + 100 * n))
  ∧ (∀ (s : State) (older : List GuardRequest) (r : GuardRequest), s.answerable older r = true ↔
    (∀ l : GroupIx, s.conflicting l r.group = true → (s.group l).aspect ≠ .green
        ∧ (s.group l).aspect ≠ .redAmber ∧ (s.group l).awaited = none)
      ∧ ∀ o ∈ older, s.conflicting o.group r.group = false)
  ∧ (∀ s : State,
    let t := s.guardJudge
    t.guard.Sublist s.guard
    ∧ (∀ older r newer, t.guard = older ++ r :: newer → t.answerable older r = false)
    ∧ (∀ r ∈ s.guard, (s.guard.map (·.group)).Nodup → r ∉ t.guard → (s.group r.group).config ≠ none →
        (s.group r.group).aspect = .red ∨ (s.group r.group).aspect = .redAmber
          ∨ (s.group r.group).aspect = .amber →
        (t.group r.group).awaited = some (s.greenStartFor r))
    ∧ (∀ g : GroupIx, (t.group g).awaited ≠ (s.group g).awaited →
        (∃ r ∈ s.guard, r.group = g ∧ (t.group g).awaited = some (s.greenStartFor r))
        ∧ ∀ l : GroupIx, s.conflicting l g = true → (s.group l).clear = true)
    ∧ (∀ g : GroupIx, t.group g = { s.group g with awaited := (t.group g).awaited })
    ∧ t = { s with groups := t.groups, guard := t.guard })
  ∧ ∀ s t : State, s.ConflictInv → s.GuardLaw → step s = .next t → t.GuardLaw

/-- RED_AMBER, GREEN and RED reached in time (R10, R11, R12, R16): a group in RED with a red-amber time begins it that
long before its awaited green start, its green comes at that instant and not before the red-amber has run, and AMBER
lasts its amber time; a green waits while a conflicting group shows AMBER, and under the laws of awaited greens and of
the amber check that is an AMBER whose end is due at the instant too (R26); each event whose instant has come changes
the aspect and the drives as the table of section 1.3 asks, and a green begun is recorded and no longer awaited; where
it ends an interstage over which preemptions have been accepted, their truncation begins (R94, R95). The flash timebase
(R14): at its instant the half changes, the next half is 0.5 s on, and exactly the flashing groups' amber drives
follow. A drive switched on opens its circuit's lit period, of which the first request is due a settle time later, and
one switched off closes it (R133); a switch of the circuit whose window is in flight voids it (R124): the channel is
READY, or begins the long calibration it owes (R131), and a watch check is presented again where the circuit is still
watched (R152). -/
def Obligations.AspectsFollowInTime : Prop :=
  (∀ (s : State) (g : GroupIx) (k : GroupConfig), (s.group g).config = some k →
    (s.AwaitLaw → s.AmberLaw → ∀ (l : GroupIx) (a : Instant), (s.group g).awaited = some a →
      a ≤ s.now → s.conflicting l g = true → (s.group l).aspect = .amber → s.amberDue l = true)
    ∧ (s.redAmberDue g = true ↔ (s.group g).aspect = .red
      ∧ ∃ v a, k.vehicle = some v ∧ (s.group g).awaited = some a ∧ v.redAmber ≠ 0 ∧ a ≤ s.now + 100 * v.redAmber)
    ∧ (s.greenDue g = true ↔ (∀ l : GroupIx, s.conflicting l g = true → (s.group l).aspect ≠ .amber)
      ∧ ∃ a, (s.group g).awaited = some a ∧ a ≤ s.now
      ∧ (((s.group g).aspect = .red ∧ ∀ v, k.vehicle = some v → v.redAmber = 0)
        ∨ ((s.group g).aspect = .redAmber ∧ (s.group g).aspectEntry ≤ s.now
          ∧ ∀ v, k.vehicle = some v → (s.group g).aspectEntry + 100 * v.redAmber ≤ s.now)))
    ∧ (s.amberDue g = true ↔ (s.group g).aspect = .amber
      ∧ ∃ v, k.vehicle = some v ∧ (s.group g).aspectEntry + 100 * v.amberTime ≤ s.now))
  ∧ (∀ (s : State) (g : GroupIx) (k : GroupConfig), s.resetHeld = false → (s.group g).config = some k →
    (s.redAmberDue g = true → ∃ u t : State, u.Ends t ∧ exec (.redAmberBegin (number g)) s = .next t
      ∧ s.AspectChanged u g k .redAmber
      ∧ ((∀ r ∈ s.guard, r.group ≠ g) → (u.group g).awaited = (s.group g).awaited)
      ∧ u.junction = s.junction ∧ u.pre = s.pre ∧ u.plans = s.plans)
    ∧ (s.greenDue g = true → ∃ w u t : State, u.Ends t ∧ exec (.greenStart (number g)) s = .next t
      ∧ s.AspectChanged w g k .green ∧ (w.group g).awaited = none
      ∧ w.seq.greenStarts.get g = some s.now
      ∧ (s.seq.state ≠ .interstage → w.seq.state = s.seq.state)
      ∧ (s.seq.state = .interstage →
          (w.seq.state = .stage ↔ s.seq.loseAt = none
            ∧ (∀ l ∈ s.seq.losing, l ≠ g ∧ (s.group l).aspect ≠ .green)
            ∧ ∀ h ∈ s.seq.gaining, h = g ∨ (s.group h).aspect = .green))
      ∧ s.EndsInterstage w u)
    ∧ (s.amberDue g = true → ∃ u t : State, u.Ends t ∧ exec (.amberEnd (number g)) s = .next t
      ∧ s.AspectChanged u g k .red
      ∧ u.junction = { s.junction with
          clearance := if s.junction.clearance = some .awaitingRed
              ∧ (∀ h : GroupIx, (s.group h).config ≠ none → h = g ∨ (s.group h).aspect = .red)
            then some (.allRed s.now) else s.junction.clearance }))
  ∧ (∀ (s : State) (f : FlashBase), s.resetHeld = false → s.UniqueLaw → s.output.safeEnable = true →
    s.output.flash = some f → f.next ≤ s.now → ∃ u t : State, u.Ends t
      ∧ exec .flashHalf s = .next t
      ∧ u.output = { s.output with flash := some { on := !f.on, next := f.next + 500 } }
      ∧ (∀ (g : GroupIx) k v, (s.group g).config = some k → k.vehicle = some v →
          (s.group g).aspect = .flashAmber → (u.circuit v.amber).drive.on = !f.on)
      ∧ (∀ c : CircuitIx, (∀ (g : GroupIx) k, (s.group g).config = some k →
            (s.group g).aspect = .flashAmber → c ∉ k.circuits) → (u.circuit c).drive = (s.circuit c).drive)
      ∧ s.Ordered u
          (fun c => ∃ (g : GroupIx) (k : GroupConfig), (s.group g).config = some k
            ∧ (s.group g).aspect = .flashAmber ∧ c ∈ k.circuits)
          (fun c => !f.on && (List.finRange 16).any fun g => (s.group g).aspect == .flashAmber
            && (s.group g).config.any fun k => k.vehicle.any fun v => v.amber == c)
      ∧ u.groups = s.groups ∧ u.seq = s.seq ∧ u.pre = s.pre ∧ u.junction = s.junction ∧ u.still = s.still)

/-! ## The sequencer -/

/-- The end of a base stage (R63, R64, R65): the next stage's interstage begins now at its nominal position, that of
stage 1 after the last where no plan switch falls there (R66); every losing group has lost green, every other group
keeps its aspect, each gaining group is requested or awaited, and with none gaining the stage begins at once. The cycle
boundary (R66, R80): at the end of stage m with a pending plan and only the base context in the chain, the pending plan
is ACTIVE and current, the old one READY, PLAN_CHANGED raised, and stage 1 of the new plan begins its interstage. A
preemption plan's stage ends into its next alike (R96). The green that ends an interstage begins the stage (R64), of
the base plan (R65, R67, R68, R73, R76, R102) or of a preemption plan (R96), as `StageBegun` says; that the position of
a resumed stage which runs already, re-established by a change of mode (R78), takes its green start (log entry 23), and
that the account and the slack length under a waiting preemption are those of the mode in force (log entry 35), are the
model's readings, and the rounding of the excess is free (log entry 7). Where preemptions have been accepted over the
interstage, the record of the context that ran holds the stage just begun, and the truncation into stage 1 of the top
plan begins at once (R94, R95). -/
def Obligations.StageEndsIntoTheNext : Prop :=
  (∀ (s : State) (c : Context) (b : PlanBody) (d : Derived) (i : Nat),
    s.resetHeld = false → s.stageEndDue = true → s.pre.chain.head? = some c → s.planData c.plan = some (b, d) →
    s.seq.stage = some i → 1 ≤ i → (∀ g ∈ b.greens i, (s.group g).config ≠ none) →
    (c.invoker = none → s.seq.current = some c.plan ∧ d.base ≠ none ∧ (i < b.stages.length
      ∨ s.seq.pendingPlan = none ∨ ∃ z ∈ s.pre.chain, z.invoker ≠ none)) →
    (c.invoker ≠ none → i < b.stages.length) →
    let next := if i < b.stages.length then i + 1 else 1
    ∃ u t : State, u.Ends t ∧ exec .stageEnd s = .next t ∧ u.still = s.still
      ∧ u.seq.stage = some next ∧ u.seq.interStart = s.now
      ∧ (∀ g ∈ b.greens i, g ∉ b.greens next → (u.group g).aspect ≠ .green)
      ∧ (∀ g : GroupIx, (g ∉ b.greens i ∨ g ∈ b.greens next) → (u.group g).aspect = (s.group g).aspect)
      ∧ (∀ g ∈ b.greens next, g ∉ b.greens i → (s.group g).config ≠ none →
          ((s.group g).aspect = .red ∨ (s.group g).aspect = .redAmber ∨ (s.group g).aspect = .amber) →
          (u.group g).awaited ≠ none ∨ ∃ r ∈ u.guard, r.group = g ∧ r.change = s.now)
      ∧ ((∀ g ∈ b.greens next, g ∈ b.greens i) → u.seq.state = .stage ∧ u.seq.greenStart = s.now)
      ∧ (∀ x, c.invoker = none → d.base = some x → u.seq.state = .interstage → s.junction.mode ≠ .stepped →
          u.seq.position = some {
            value := d.nominalStart x b.slackIndex next, since := some s.now,
            limit := d.nominalStart x b.slackIndex next + d.interstage next })
      ∧ (c.invoker = none → u.pre = s.pre)
      ∧ (c.invoker ≠ none → u.pre = { s.pre with chain :=
          (if u.seq.state = .stage ∧ b.stages.length ≤ i + 1 then { c with inDwell := true } else c)
            :: s.pre.chain.tail })
      ∧ u.junction = s.junction ∧ u.plans = s.plans)
  ∧ (∀ (s : State) (c : Context) (p q : PlanIx) (b b' : PlanBody) (d d' : Derived) (x x' : BaseDerived),
    s.resetHeld = false → s.stageEndDue = true → s.pre.chain = [c] → c.invoker = none → c.plan = p →
    s.seq.current = some p → s.plan p = .valid .active b d → d.base = some x →
    s.seq.stage = some b.stages.length → s.seq.pendingPlan = some q → p ≠ q →
    s.plan q = .valid .selected b' d' → b'.cls = .base → d'.base = some x' →
    ∃ u t : State, u.Ends t ∧ exec .stageEnd s = .next t
      ∧ u.seq.current = some q ∧ u.seq.pendingPlan = none ∧ u.seq.remainder = none
      ∧ u.plan q = .valid .active b' d' ∧ u.plan p = .valid .ready b d
      ∧ u.holds .planChanged = true ∧ (x'.stretched = true → u.holds .cycleStretched = true)
      ∧ u.seq.stage = some 1 ∧ u.seq.interStart = s.now
      ∧ u.pre.chain.map (fun z => (z.plan, z.invoker)) = [(q, none)] ∧ u.still = s.still)
  ∧ ∀ (s : State) (g : GroupIx) (k : GroupConfig) (c : Context) (b : PlanBody) (d : Derived) (i : Nat),
    s.resetHeld = false → (s.group g).config = some k → s.greenDue g = true → s.seq.state = .interstage →
    s.seq.loseAt = none → (∀ h ∈ s.seq.gaining, h = g ∨ (s.group h).aspect = .green) →
    (∀ l ∈ s.seq.losing, l ≠ g ∧ (s.group l).aspect ≠ .green) →
    s.pre.chain[s.seq.above]? = some c → s.planData c.plan = some (b, d) → s.seq.stage = some i →
    (c.invoker = none → d.base ≠ none) →
    ∃ w u t : State, u.Ends t ∧ exec (.greenStart (number g)) s = .next t
      ∧ s.AspectChanged w g k .green ∧ s.StageBegun w c b d i ∧ s.EndsInterstage w u

/-- The greens ended late (R81, R95, R102): in CLEARANCE every green, and in a truncation or return every losing group,
is given LOSE when its instant has come; a vehicle group turns amber and a pedestrian group red, and a clearance with
every group red passes to its all-red. Where the loses end the interstage the stage begins (R64, R65, R67, R68, R96),
and where preemptions have been accepted over it their truncation with it (R94). The stage begins as `StageBegun` says:
that the position of a resumed stage which runs already, re-established by a change of mode (R78), takes its green
start (log entry 23), and that the account and the slack length under a waiting preemption are those of the mode in
force (log entry 35), are the model's readings, and the rounding of the excess is free (log entry 7). -/
def Obligations.DelayedLosesEndTheGreens : Prop :=
  ∀ (s : State) (a : Instant), s.resetHeld = false → s.seq.loseAt = some a → a ≤ s.now →
    (s.seq.state = .clearance → ∃ u t : State, u.Ends t ∧ exec .clearanceLose s = .next t
      ∧ u.still = s.still ∧ u.seq.loseAt = none ∧ u.seq.state = .clearance
      ∧ (∀ (g : GroupIx) k, (s.group g).config = some k → (u.group g).aspect =
          if (s.group g).aspect = .green then (if k.vehicle.isSome then .amber else .red)
          else (s.group g).aspect)
      ∧ (s.junction.clearance = some .awaitingRed →
          (∀ g : GroupIx, (s.group g).config ≠ none → (u.group g).aspect = .red) →
          u.junction.clearance = some (.allRed s.now)))
    ∧ (s.seq.state = .interstage → s.seq.losing.Nodup →
      ∃ w u t : State, u.Ends t ∧ exec .truncationLose s = .next t
      ∧ w.still = s.still ∧ w.seq.loseAt = none
      ∧ (∀ (g : GroupIx) k, (s.group g).config = some k → (w.group g).aspect =
          if g ∈ s.seq.losing ∧ (s.group g).aspect = .green then
            (if k.vehicle.isSome then .amber else .red)
          else if g ∈ s.seq.losing ∧ (s.group g).aspect = .redAmber then .red
          else (s.group g).aspect)
      ∧ (w.seq.state = .stage ↔ ((∀ g ∈ s.seq.gaining, (w.group g).aspect = .green)
          ∧ ∀ g ∈ s.seq.losing, (w.group g).aspect ≠ .green))
      ∧ (∀ c b d i, s.pre.chain[s.seq.above]? = some c → s.planData c.plan = some (b, d) → s.seq.stage = some i →
          (c.invoker = none → d.base ≠ none) → w.seq.state = .stage → s.StageBegun w c b d i)
      ∧ s.EndsInterstage w u)

/-! ## The junction's own events -/

/-- START_FLASH, START_RED and the all-red before flash end when their conditions hold (R62, R146, R167, R168,
R169): the reds are shown and their lamp states cleared; the current plan is ACTIVE and starts at stage 1; the
groups flash, RUNNING is left and an owed selection is paid (R113). At the entry to RUNNING, with the sequencer
started, the asserted entries within the table are judged one after another by descending priority and ascending
number (R88), and then an owed selection is carried out (R113). -/
def Obligations.JunctionStatesEnd : Prop :=
  ∀ s : State, s.resetHeld = false →
    (s.junction.state = .startFlash → s.junction.entry + 100 * s.junction.startFlash ≤ s.now →
      s.channel.state = .ready ∨ s.channel.state = .measuring ∨ s.channel.state = .calShort →
      (∀ (g : GroupIx) k, (s.group g).config = some k → s.junction.entry ≤ (s.circuit k.green).cable.lastCheck) →
      ∃ u t : State, u.Ends t ∧ exec .startFlashEnd s = .next t
        ∧ u.junction = { s.junction with state := .startRed, entry := s.now, clearance := none }
        ∧ u.holds .junctionState = true
        ∧ (∀ g : GroupIx, (s.group g).config ≠ none →
            (s.group g).aspect = .dark ∨ (s.group g).aspect = .flashAmber → (u.group g).aspect = .red)
        ∧ (∀ c : CircuitIx, (u.circuit c).lamp =
            if s.isRed c then { (s.circuit c).lamp with
              state := .unmeasured, pendingResult := none, agreement := 0, cause := none }
            else (s.circuit c).lamp)
        ∧ u.plans = s.plans ∧ u.pre = s.pre ∧ u.seq.state = s.seq.state ∧ u.sched = s.sched)
    ∧ (∀ p b d x, s.junction.state = .startRed → s.junction.clearance = none →
      s.junction.entry + 100 * s.junction.startRed ≤ s.now →
      (∀ g : GroupIx, (s.group g).config ≠ none → s.redStatus g = .lit ∨ s.redStatus g = .unsupervised) →
      s.seq.current = some p → s.plan p = .valid .ready b d → b.cls = .base → d.base = some x →
      ∃ (v w u t : State) (l : List EntryIx), u.Ends t ∧ exec .startRedEnd s = .next t ∧ v.still = s.still
        ∧ v.junction = { s.junction with state := .running, entry := s.now }
        ∧ v.holds .junctionState = true ∧ v.plan p = .valid .active b d
        ∧ v.pre = { s.pre with chain := v.pre.chain } ∧ v.sched = s.sched ∧ v.output = s.output
        ∧ v.pre.chain.map (fun z => (z.plan, z.invoker)) = [(p, none)]
        ∧ v.seq.stage = some 1 ∧ v.seq.interStart = s.now ∧ v.seq.latch = false ∧ v.seq.remainder = none
        ∧ (v.seq.state = .interstage ∨ v.seq.state = .stage)
        ∧ v.seq.sync = (if s.junction.mode = .synced then
            if x.stretched then .notHeld else .held else .none)
        ∧ (s.junction.mode = .synced → v.seq.watchStart = some s.now)
        ∧ (∀ g : GroupIx, (v.group g).aspect = (s.group g).aspect)
        ∧ (∀ e : EntryIx, e ∈ l ↔ number e ≤ s.pre.length ∧ (s.entry e).asserted = true
            ∧ ∃ k, (s.entry e).config = some k ∧ 1 ≤ k.priority ∧ k.priority ≤ 4)
        ∧ l.Pairwise (fun e f => s.entryPriority f < s.entryPriority e
            ∨ (s.entryPriority f = s.entryPriority e ∧ e < f))
        ∧ State.JudgedInTurn l v w ∧ w.sched = s.sched
        ∧ (s.sched.owed = false → u = w) ∧ w.OwedPaid u
        ∧ u = { w with plans := u.plans, seq := u.seq, sched := u.sched, link := u.link })
    ∧ (∀ a, s.junction.clearance = some (.allRed a) → a + 100 * s.junction.allRed ≤ s.now →
      ∃ u t : State, u.Ends t ∧ exec .allRedEnd s = .next t ∧ u.still = s.still
        ∧ u.junction = { s.junction with state := .flash, entry := s.now, clearance := none }
        ∧ u.holds .junctionState = true ∧ u.output.safeEnable = s.output.safeEnable
        ∧ (∀ (g : GroupIx) k, (s.group g).config = some k → (u.group g).awaited = none
            ∧ (u.group g).aspect = if k.vehicle.isSome then .flashAmber else .dark)
        ∧ (s.junction.state = .running → s.RunningLeft u) ∧ s.LeftAndPaid u)

/-! ## Measurement -/

/-- The classification of a current (R137, R138). -/
def Obligations.CurrentsAreClassified : Prop :=
  ∀ (l : LampPart) (cable : CableState) (n r i : Nat) (ref : Option Nat), r ≤ 8 →
    let res := classify n r ref i
    let m := l.measured cable i res
    m.lastCurrent = i
    ∧ (ref = none → res.1 = .unproven ∧ m.lit = l.lit)
    ∧ ∀ iref, ref = some iref → 0 < iref →
      (i = 4095 ∨ 3 * iref ≤ 2 * i → res.1 = .overcurrent ∧ m.lit = l.lit)
      ∧ (i ≠ 4095 → 2 * i < 3 * iref →
        let N : Int := 16 * n * i - n * r * iref
        let D : Int := (16 - r) * iref
        let k : Int := if N ≤ 0 then 0 else min n ((2 * N + D) / (2 * D))
        (m.lit : Int) = k
        ∧ (k = n → res.1 = .proven) ∧ (k ≠ n → k = 0 → res.1 = .out) ∧ (k ≠ n → k ≠ 0 → res.1 = .partialOut))

/-- The end of a lit window (R118, R119, R135, R136, R139 to R142): the channel is free, or begins an owed long
calibration; a settling interval discards the result; else the lamp state is taken at once from UNMEASURED or
UNPROVEN or by a second agreeing result, and LAMP_ALARM is raised at a change to or from a fault. A red circuit's
change of state that leaves its red-showing group LOST locks the junction out with cause RED_LOST naming the group
and that circuit (R145). A training at the level takes the current as a sample; its fourth sample gives the
reference with TRAIN_DONE, a new attempt, or TRAIN_FAIL at the third (R148, R149). -/
def Obligations.LitWindowsProveLamps : Prop :=
  ∀ (s : State) (raw : Int) (c : CircuitIx) (level : DimLevel) (start : Instant), s.resetHeld = false →
    s.UniqueLaw → s.channel.inFlight = some { circuit := c, kind := .lit level, start := start } →
    start + 20 ≤ s.now →
    let freed := s.setChannel (if s.channel.owed then s.channel.beginLong s.now
      else { s.channel with state := .ready, inFlight := none })
    ((∃ e, s.sup.settlingEnd = some e ∧ start < e) →
        exec (.litWindowEnd raw) s = .next freed.renewOffer.arbitrate)
    ∧ ((∀ e, s.sup.settlingEnd = some e → e ≤ start) →
      let i := s.channel.corrected raw
      let old := (s.circuit c).lamp
      let res := (classify (s.circuit c).heads (s.circuit c).residual (old.refFor level) i).1
      ∃ m u t : State, exec (.litWindowEnd raw) s = .next t
        ∧ (m.circuit c).lamp.lastCurrent = i
        ∧ (old.state = .unmeasured ∨ old.state = .unproven ∨ res = .unproven
            ∨ old.pendingResult = some res ∨ res = old.state →
            (m.circuit c).lamp.state = res)
        ∧ (old.state ≠ .unmeasured → old.state ≠ .unproven → res ≠ .unproven → res ≠ old.state →
            old.pendingResult ≠ some res → (m.circuit c).lamp.state = old.state
              ∧ (m.circuit c).lamp.pendingResult = some res ∧ (m.circuit c).lamp.agreement = 1)
        ∧ ((m.circuit c).lamp.state = .out → old.state ≠ .out → (m.circuit c).lamp.cause =
            if (s.circuit c).cable.state = .alarm .openCable then some .cableOpen else none)
        ∧ m.circuit c = { s.circuit c with lamp := { (m.circuit c).lamp with
            fullRef := old.fullRef, dimRef := old.dimRef, training := old.training } }
        ∧ (∀ d : CircuitIx, d ≠ c → m.circuit d = s.circuit d)
        ∧ m.holds .lampAlarm = (s.holds .lampAlarm
            || raisesLampAlarm old.state (m.circuit c).lamp.state)
        ∧ m = { freed with circuits := m.circuits, link := { s.link with attention := m.link.attention } }
        ∧ (let lost := fun v : State => ∃ g, s.assignment c = some { group := g, aspect := .red }
              ∧ v.redLost g = true
           let locked := fun (v : State) (named : Option CircuitIx) => s.output.safeEnable = true →
             v.AllOff t ∧ t.holds .lockout = true ∧ t.holds .junctionState = true
             ∧ (∃ x : State, x.channel = freed.channel ∧ t = x.renewOffer.arbitrate) ∧ ∃ g,
               s.assignment c = some { group := g, aspect := .red } ∧ t.junction = { s.junction with
                 state := .lockout, entry := s.now, clearance := none,
                 lockout := some {
                   cause := .redLost, group := some g, circuit := named,
                   time := if s.sched.clockSet then some s.sched.clock else none,
                   further := false, cleared := false } }
           let lowest := ((List.finRange 48).filter fun d => s.isRed d
             && (s.assignment d).map (·.group) == (s.assignment c).map (·.group) && u.referenced d).head?
           (lost m → (m.circuit c).lamp.state ≠ old.state → locked m (some c))
           ∧ (¬(lost m ∧ (m.circuit c).lamp.state ≠ old.state) →
              ((∀ r, old.training = some r → r.level ≠ level) → u = m ∧ t = u.renewOffer.arbitrate)
              ∧ ∀ r, old.training = some r → r.level = level →
                let least := match r.min with | some a => Nat.min a i | none => i
                let most := match r.max with | some a => Nat.max a i | none => i
                let sum := r.sum + i
                let passes := (most - least) * 32 ≤ sum ∧ 20 ≤ (sum + 2) / 4 ∧ (sum + 2) / 4 ≤ 4000
                let lamp := (m.circuit c).lamp
                let after := fun (l : LampPart) (raised : State → State) =>
                  u = raised (m.setCircuit c { m.circuit c with lamp := l }) ∧ t = u.renewOffer.arbitrate
                (r.samples + 1 < 4 → after { lamp with training := some { r with
                    samples := r.samples + 1, min := some least, max := some most, sum := sum } } id)
                ∧ (4 ≤ r.samples + 1 → passes →
                    u = State.raise (m.setCircuit c { m.circuit c with lamp := { lamp with
                      fullRef := if level = .full then some ((sum + 2) / 4) else lamp.fullRef
                      dimRef := if level = .dim then some ((sum + 2) / 4) else lamp.dimRef
                      pendingResult := none, agreement := 0, training := none } }) .trainDone
                    ∧ (lost u → locked u lowest ∧ t.holds .trainDone = true)
                    ∧ (¬lost u → t = u.renewOffer.arbitrate))
                ∧ (4 ≤ r.samples + 1 → ¬passes → r.attempt < 3 → after { lamp with training := some {
                    level := level, attempt := r.attempt + 1, samples := 0, min := none, max := none,
                    sum := 0 } } id)
                ∧ (4 ≤ r.samples + 1 → ¬passes → 3 ≤ r.attempt →
                    after { lamp with training := none } fun v => v.raise .trainFail))))

/-- The end of a dark window (R118, R120, R152, R154): darkness under 200 ms records nothing; a valid voltage is
recorded with its instant, and leakage and charge from 1.0 s; the record is then judged by section 9.5 with
CABLE_ALARM at an entry to or a leaving of ALARM. A full measurement is then a sample of a learning (R163): the
judgement's entry to ALARM removes it, and the fourth sample gives the baselines, the count cleared and
CABLE_LEARNED. A green circuit with V at least 50 is in ALARM of kind FOREIGN_VOLTAGE at once, with CABLE_ALARM
unless it was, and, under SAFE_ENABLE, locks the junction out with every output off. The model's choices: that a
voltage-only measurement's entry to ALARM keeps the learning (log entry 41), and that a fourth sample in ALARM leaves
it standing (log entry 24). -/
def Obligations.DarkWindowsCheckCables : Prop :=
  ∀ (s : State) (v l q : Int) (c : CircuitIx) (rq : DarkRequester) (dark : Nat) (start : Instant),
    s.resetHeld = false →
    s.channel.inFlight = some { circuit := c, kind := .dark rq dark, start := start } → start + 20 ≤ s.now →
    let freed := s.setChannel (if s.channel.owed then s.channel.beginLong s.now
      else { s.channel with state := .ready, inFlight := none })
    let x : DarkValues := {
      voltage := min 100 (s.channel.corrected v / 40), leakage := s.channel.corrected l / 16,
      charge := s.channel.corrected q / 16 }
    let old := (s.circuit c).cable
    let full := decide (1000 ≤ dark)
    let judged := ({ old with
      lastVoltage := x.voltage, lastCheck := s.now
      lastLeakage := if 1000 ≤ dark then x.leakage else old.lastLeakage
      lastCharge := if 1000 ≤ dark then x.charge else old.lastCharge } : CablePart).judged
        ((s.assignment c).any fun a => a.aspect != .green) full x
    let foreign := fun g : GroupIx => s.assignment c = some { group := g, aspect := .green } ∧ 50 ≤ x.voltage
    (dark < 200 → exec (.darkWindowEnd v l q) s = .next freed.renewOffer.arbitrate)
    ∧ (200 ≤ dark → ∃ u t : State, exec (.darkWindowEnd v l q) s = .next t
      ∧ (let k := (u.circuit c).cable
         (full = false ∨ old.learning = none → k = judged.1)
         ∧ (∀ r, full = true → old.learning = some r →
            (judged.2 = .entered → k = { judged.1 with learning := none })
            ∧ (judged.2 ≠ .entered → r.samples + 1 < 4 → k = { judged.1 with learning := some {
                samples := r.samples + 1, leakageSum := r.leakageSum + x.leakage,
                chargeSum := r.chargeSum + x.charge } })
            ∧ (judged.2 ≠ .entered → 4 ≤ r.samples + 1 → k = { judged.1 with
                baseline := some {
                  leakage := (r.leakageSum + x.leakage + 2) / 4, charge := (r.chargeSum + x.charge + 2) / 4 }
                learning := none, count := 0, counted := none
                state := if judged.1.state.isAlarm then judged.1.state else .normal }))
         ∧ u.circuit c = { s.circuit c with cable := k })
      ∧ (∀ d : CircuitIx, d ≠ c → u.circuit d = s.circuit d)
      ∧ u.holds .cableAlarm = (s.holds .cableAlarm || judged.2 != .unchanged)
      ∧ u.holds .cableLearned = (s.holds .cableLearned || (full && judged.2 != .entered
          && old.learning.any fun r => decide (4 ≤ r.samples + 1)))
      ∧ u = { freed with circuits := u.circuits, link := { s.link with attention := u.link.attention } }
      ∧ ((∀ g, ¬foreign g) → t = u.renewOffer.arbitrate)
      ∧ ∀ g, foreign g →
        (∃ y : State, y.channel = freed.channel ∧ t = y.renewOffer.arbitrate) ∧
        (∀ d : CircuitIx, (t.circuit d).still =
          if d = c then ({ u.circuit c with cable := { (u.circuit c).cable with
            state := .alarm .foreignVoltage, acknowledged := false, count := 0, counted := none } } : Circuit).still
          else (u.circuit d).still)
        ∧ t.holds .cableAlarm = (u.holds .cableAlarm || old.state != .alarm .foreignVoltage)
        ∧ (s.output.safeEnable = true → s.AllOff t
          ∧ t.junction = { s.junction with
              state := .lockout, entry := s.now, clearance := none,
              lockout := some {
                cause := .foreignGreen, group := some g, circuit := some c,
                time := if s.sched.clockSet then some s.sched.clock else none,
                further := false, cleared := false } }
          ∧ t.holds .lockout = true ∧ t.holds .junctionState = true))

/-- The cable judgement (R158, R159, R160). A measurement's condition outside ALARM is FOREIGN by its voltage, else
OPEN by its charge, else LEAK by its leakage, the latter two in a full measurement against baselines. A run of 2
FOREIGN or 3 OPEN or LEAK brings ALARM of its kind with the count cleared, and a full measurement without a condition
ends a run; a full measurement then makes a record with baselines SUSPECT or NORMAL by its leakage. In ALARM the kind
stays; a clear measurement counts, to at most 3, one that is not clears the count, but that a harmless voltage alone
moves nothing of a record with baselines; and the third clear one leaves ALARM where it is acknowledged. -/
def Obligations.CableRunsAlarmAndClear : Prop :=
  ∀ (k : CablePart) (redOrAmber full : Bool) (x : DarkValues),
    let m := (k.judged redOrAmber full x).1
    let change := (k.judged redOrAmber full x).2
    let foreign := redOrAmber = true ∧ 50 ≤ x.voltage
    let openRun := full = true ∧ ∃ b, k.baseline = some b ∧ x.charge * 2 < b.charge
    let leakRun := full = true ∧ ∃ b, k.baseline = some b ∧ b.leakage + 50 < x.leakage
    let meets := fun y : CableCondition => match y with
      | .foreign => foreign
      | .openCable => ¬foreign ∧ openRun
      | .leak => ¬foreign ∧ ¬openRun ∧ leakRun
      | .clear => False
    let clear := x.voltage < 50 ∧ ∀ b, k.baseline = some b →
      full = true ∧ b.charge ≤ x.charge * 2 ∧ x.leakage ≤ b.leakage + 20
    let supposed : CableState := match k.baseline with
      | some b =>
        if full && k.state != .noBaseline then (if b.leakage + 20 < x.leakage then .suspect else .normal)
        else k.state
      | none => k.state
    (k.state.isAlarm = false →
      (∀ y, meets y →
        let n := if k.counted = some y then k.count + 1 else 1
        let run := if y = .foreign then 2 else 3
        (run ≤ n → change = .entered ∧ m = { k with
            state := .alarm (match y with
              | .foreign => .foreignVoltage | .openCable => .openCable | _ => .leak)
            acknowledged := false, count := 0, counted := none })
        ∧ (n < run → change = .unchanged
            ∧ m = { k with counted := some y, count := n, state := supposed }))
      ∧ ((∀ y, ¬meets y) → change = .unchanged ∧ m =
          if full || k.counted == some .foreign then { k with counted := none, count := 0, state := supposed }
          else k))
    ∧ (k.state.isAlarm = true →
      (clear → k.acknowledged = true → 2 ≤ k.count → change = .left ∧ m = { k with
          state := if k.baseline.isSome then .normal else .noBaseline,
          acknowledged := false, count := 0, counted := none })
      ∧ (clear → k.acknowledged = false ∨ k.count < 2 → change = .unchanged
          ∧ m = { k with counted := some .clear, count := min 3 (k.count + 1) })
      ∧ (¬clear → full = true ∨ 50 ≤ x.voltage ∨ k.baseline = none → change = .unchanged
          ∧ m = { k with counted := none, count := 0 })
      ∧ (¬clear → full = false → x.voltage < 50 → k.baseline ≠ none → k.acknowledged = false ∨ k.count ≠ 3 →
          change = .unchanged ∧ m = k))

/-- The calibrations (R126, R127, R128): the measured offset and gain are the rounded means'; an accepted attempt
takes them, clears the failure flag and is due again in 60 s, and the READY channel arbitrates (R122); a long one that
fails, or a short one's second attempt, puts the channel in FAULT with CAL_FAIL and, under SAFE_ENABLE, locks the
junction out with cause MONITOR; a short one's first failure sets the flag and begins attempt 2. -/
def Obligations.CalibrationsEnd : Prop :=
  ∀ (s : State) (zero span : List Int) (a : Calibration), s.resetHeld = false → s.ChannelLaw →
    s.channel.calibration = some a →
    let n : Int := zero.length
    let offset := (zero.sum + (zero.length / 2 : Nat)) / n
    let h := (span.sum + (span.length / 2 : Nat)) / (span.length : Nat) - offset
    let gain := if 0 < h then some ((4096000 + h / 2) / h) else none
    let passes := -64 ≤ offset ∧ offset ≤ 64 ∧ ∃ g, gain = some g ∧ 922 ≤ g ∧ g ≤ 1126
    let ends := match a.kind with
      | .long => a.start + 2000 ≤ s.now
      | .short => a.start + 100 ≤ s.now
    let command := match a.kind with
      | .long => Instr.longCalibrationEnd zero span
      | .short => Instr.shortCalibrationAttemptEnd zero span
    let record := fun ok : Bool =>
      { kind := a.kind, pass := ok, offset := offset, gain := gain, ended := s.now : CalRecord }
    ends →
      (∀ g, passes → gain = some g → exec command s = .next (s.setChannel { s.channel with
          state := .ready, offset := offset, gain := g, shortDue := some (s.now + 60000),
          shortPresented := false, failFlag := false, calibration := none,
          lastRecord := some (record true) }).renewOffer.arbitrate)
      ∧ (¬passes → (a.kind = .short ∧ a.attempt = 1) →
        let second := { s.channel with
          failFlag := true, lastRecord := some (record false),
          calibration := some { kind := .short, start := s.now, attempt := 2 } }
        ∃ t, exec command s = .next t ∧ t = (s.setChannel second).renewOffer.arbitrate ∧ t.channel = second)
      ∧ (¬passes → ¬(a.kind = .short ∧ a.attempt = 1) → ∃ t, exec command s = .next t
        ∧ t.channel.state = .fault ∧ t.channel.calibration = none ∧ t.channel.shortDue = none
        ∧ t.channel.offset = s.channel.offset ∧ t.channel.gain = s.channel.gain
        ∧ t.channel.lastRecord = some (record false) ∧ t.holds .calFail = true
        ∧ (s.output.safeEnable = true → s.AllOff t
            ∧ t.junction = { s.junction with
                state := .lockout, entry := s.now, clearance := none,
                lockout := some {
                  cause := .monitor, group := none, circuit := none,
                  time := if s.sched.clockSet then some s.sched.clock else none,
                  further := false, cleared := false } })
        ∧ (s.output.safeEnable = false → t.junction = s.junction))

/-- The requests for measurement (R121, R134, R136, R153, R155, R157): a proving request falls due, moves its schedule
on 2.0 s and is dropped after 200 ms; a settling end restarts every lit circuit's schedule; the short calibration and
a green watch are presented when due; a circuit newly eligible is counted in the round, before or after an arbitration
of that instant (R123; log entry 48), and renews its offer, the first counted circuit after the pointer; each of these
is followed by the renewal of the offer and the arbitration of a READY channel (R122); a watch of age 2.0 s raises
MONITOR_LATE, and one of 4.0 s locks the junction out naming group and circuit. That MONITOR_LATE is raised once for a
watch reference, and that of several circuits of 4.0 s the event's own comes first, is the model's choice (log entry
19). A dark window whose end has not been taken at that lockout meets the fall of SAFE_ENABLE in either order: it is
void, or its result is recorded, as at an end of the window with readings of the converter's range (R125, R155; log
entry 40). -/
def Obligations.RequestsAndLateness : Prop :=
  ∀ (s : State) (c : CircuitIx), s.resetHeld = false →
    (∀ a d, (s.circuit c).schedule = { litSince := some a, nextDue := some d, presented := none } →
      d ≤ s.now → s.sup.settlingEnd = none → exec (.provingRequestDue (number c)) s = .next (s.setSchedule c {
        litSince := some a, nextDue := some (d + 2000), presented := some d }).renewOffer.arbitrate)
    ∧ (∀ d, (s.circuit c).schedule.presented = some d →
        (d + 200 ≤ s.now → exec (.provingRequestDrop (number c)) s =
          .next (s.setSchedule c { (s.circuit c).schedule with presented := none }))
        ∧ (s.now < d + 200 → exec (.provingRequestDrop (number c)) s = .next s))
    ∧ (∀ e, s.sup.settlingEnd = some e → e ≤ s.now → ∃ u : State,
        exec .settlingEnd s = .next u.renewOffer.arbitrate ∧ u.sup = { s.sup with settlingEnd := none }
        ∧ (∀ d : CircuitIx, u.circuit d = { s.circuit d with
            schedule := { (s.circuit d).schedule with
              nextDue := match (s.circuit d).schedule.litSince with
                | some a => some (max e (a + settleTime (s.circuit d).technology))
                | none => (s.circuit d).schedule.nextDue } })
        ∧ u = { s with circuits := u.circuits, sup := u.sup })
    ∧ (∀ d, s.channel.shortDue = some d → d ≤ s.now → s.channel.shortPresented = false →
        s.channel.state ≠ .calShort → exec .shortCalibrationDue s =
          .next (s.setChannel { s.channel with shortPresented := true }).renewOffer.arbitrate)
    ∧ (s.watched c = true → (s.circuit c).cable.watchPresented = false → s.watchInFlight c = false →
        ((s.watchStart c ≤ (s.circuit c).cable.lastCheck ∧ (s.circuit c).cable.lastCheck + 1000 ≤ s.now)
          ∨ ((s.circuit c).cable.lastCheck < s.watchStart c ∧ s.watchStart c + 200 ≤ s.now)) →
        exec (.watchCheckDue (number c)) s = .next (s.setCable c { (s.circuit c).cable with
          watchPresented := true }).renewOffer.arbitrate)
    ∧ (s.eligible c = true → ∃ u t : State, exec (.roundEligible (number c)) s = .next t
        ∧ t = u.renewOffer.arbitrate
        ∧ u = s.setCable c { (s.circuit c).cable with ripeFor := some (s.circuit c).drive.lastSwitch }
        ∧ u.inRound c = true
        ∧ (s.channel.state ≠ .ready → t.sup.roundOffer = u.roundNext ∧ t.channel = s.channel))
    ∧ (s.inRound c = true ↔ s.output.safeEnable = true ∧ s.assigned c = true ∧ (s.circuit c).drive.on = false
        ∧ (s.circuit c).drive.lastSwitch + 1000 ≤ s.now
        ∧ ((s.circuit c).drive.lastSwitch + 1000 = s.now →
            (s.circuit c).cable.ripeFor = some (s.circuit c).drive.lastSwitch))
    ∧ (s.roundNext = some c ↔ s.inRound c = true ∧ ∀ d, s.inRound d = true →
        let behind := fun e : CircuitIx => decide (e.val < s.sup.roundPointer)
        (behind c = false ∧ behind d = true) ∨ (behind c = behind d ∧ c ≤ d))
    ∧ (s.watched c = true → s.watchReference c + 2000 ≤ s.now →
        ((s.circuit c).cable.lateFor ≠ some (s.watchReference c) → ∃ t,
          exec (.monitorLate (number c)) s = .next t ∧ t.holds .monitorLate = true
          ∧ exec (.monitorLate (number c)) t = .next t
          ∧ t = { s.setCable c { (s.circuit c).cable with lateFor := some (s.watchReference c) } with
                  link := { s.link with attention := t.link.attention } })
        ∧ (s.watchReference c + 4000 ≤ s.now → ∃ t g, exec (.watchAgeLimit (number c)) s = .next t
          ∧ s.assignment c = some { group := g, aspect := .green } ∧ s.AllOff t
          ∧ t.junction.state = .lockout ∧ t.junction.entry = s.now ∧ t.holds .lockout = true
          ∧ ∃ r, t.junction.lockout = some r ∧ r.cause = .monitor ∧ r.group = some g
              ∧ r.circuit = some c ∧ r.cleared = false
              ∧ let records := fun v : State => ∀ d : CircuitIx, { (t.circuit d).cable with watchPresented := false }
                  = { (v.circuit d).cable with watchPresented := false }
                records s ∨ (s.darkWindow ≠ none ∧ ∃ v l q u, exec (.darkWindowEnd v l q) s = .next u
                  ∧ (∀ x ∈ [v, l, q], -512 ≤ x ∧ x ≤ 4095) ∧ records u)))

/-- Arbitration (R121, R122): while the channel is READY the first class that holds a candidate gives the
choice: the proving request due longest, an overdue short calibration, the green watch checked longest ago, a
due short calibration, the round's offer; the lowest number among equals. The chosen one is started and no
longer presented; there is a choice whenever a candidate of any class stands; and in any other state nothing is
started. -/
def Obligations.ArbitrationTakesTheFirstClass : Prop :=
  ∀ s : State,
    (s.channel.state ≠ .ready → s.arbitrate = s)
    ∧ (s.channel.state = .ready →
      (s.shortOverdue = true ↔ s.channel.shortPresented = true
          ∧ ∃ d, s.channel.shortDue = some d ∧ d + 10000 < s.now)
      ∧ (∀ c, s.choice = some (.proving c) → s.arbitrate.channel.inFlight = some {
            circuit := c, kind := .lit s.level, start := s.now }
          ∧ (s.arbitrate.circuit c).schedule.presented = none
          ∧ ∃ a, (s.circuit c).schedule.presented = some a
            ∧ ∀ (d : CircuitIx) b, (s.circuit d).schedule.presented = some b → a < b ∨ (a = b ∧ c ≤ d))
      ∧ (∀ c, s.choice = some (.watch c) → (∀ d : CircuitIx, (s.circuit d).schedule.presented = none)
          ∧ s.shortOverdue = false ∧ (s.circuit c).cable.watchPresented = true
          ∧ (∀ d : CircuitIx, (s.circuit d).cable.watchPresented = true →
              (s.circuit c).cable.lastCheck < (s.circuit d).cable.lastCheck
                ∨ ((s.circuit c).cable.lastCheck = (s.circuit d).cable.lastCheck ∧ c ≤ d))
          ∧ s.arbitrate.channel.inFlight = some {
              circuit := c, kind := .dark .watch (s.now - (s.circuit c).drive.lastSwitch), start := s.now }
          ∧ (s.arbitrate.circuit c).cable.watchPresented = false)
      ∧ (s.choice = some .shortCal → (∀ d : CircuitIx, (s.circuit d).schedule.presented = none)
          ∧ s.channel.shortPresented = true
          ∧ (s.shortOverdue = true ∨ ∀ d : CircuitIx, (s.circuit d).cable.watchPresented = false)
          ∧ s.arbitrate.channel = { s.channel with
              state := .calShort, shortPresented := false,
              calibration := some { kind := .short, start := s.now, attempt := 1 } })
      ∧ (∀ c, s.choice = some (.round c) → (∀ d : CircuitIx, (s.circuit d).schedule.presented = none
            ∧ (s.circuit d).cable.watchPresented = false)
          ∧ s.channel.shortPresented = false ∧ s.sup.roundOffer = some c
          ∧ s.arbitrate.sup.roundPointer = number c
          ∧ s.arbitrate.channel.inFlight = some {
              circuit := c, kind := .dark .round (s.now - (s.circuit c).drive.lastSwitch), start := s.now })
      ∧ (s.choice = none → s.arbitrate = s
          ∧ (∀ d : CircuitIx, (s.circuit d).schedule.presented = none ∧ (s.circuit d).cable.watchPresented = false)
          ∧ s.channel.shortPresented = false ∧ s.sup.roundOffer = none))

/-- The end of a step (R122, R144, R145, R157, R171; log entry 6): the round offer is renewed and the channel
arbitrates, and nothing but the items of these two moves, unless a group that shows red, newly or under a new level or
junction state, has every referenced red circuit OUT: then the junction is in LOCKOUT of cause RED_LOST naming such a
group, with every output off. -/
def Obligations.RedLostLocksOut : Prop :=
  ∀ before u : State,
    u.Ends (before.settle u)
    ∧ ((∀ g : GroupIx, (u.group g).config ≠ none → u.redLost g = true →
        before.judgesAllReds u = false ∧ (before.group g).aspect = (u.group g).aspect) →
      before.settle u = u.renewOffer.arbitrate)
    ∧ (u.output.safeEnable = true →
      (∃ g : GroupIx, (u.group g).config ≠ none ∧ u.redLost g = true
        ∧ (before.judgesAllReds u = true ∨ (before.group g).aspect ≠ (u.group g).aspect)) →
      let t := before.settle u
      t.junction.state = .lockout ∧ u.AllOff t ∧ t.holds .lockout = true
      ∧ ∃ r h, t.junction.lockout = some r ∧ r.cause = .redLost ∧ r.group = some h ∧ u.redLost h = true
        ∧ r.circuit = ((List.finRange 48).filter fun c =>
            (match (u.group h).config with | some k => k.reds.contains c | none => false)
              && u.referenced c).head?)
    ∧ ∀ (g : GroupIx) k, (u.group g).config = some k → (u.redStatus g = .lost ↔
        (∃ c ∈ k.reds, u.referenced c = true)
        ∧ ∀ c ∈ k.reds, u.referenced c = true → (u.circuit c).lamp.state = .out)

/-- MAKE_SELECTED and MAKE_ACTIVE (R45), MAKE_INVOKED and RETURN_READY (R46). -/
def Obligations.PlanOrdersMoveStates : Prop :=
  ∀ (s : State) (p : PlanIx),
    ((s.plan p).phase = some .ready → (s.plan p).isBase = true →
      s.makeSelected p = { s with plans := (s.makeSelected p).plans }
      ∧ (s.makeSelected p).plan p = (s.plan p).toPhase .selected
      ∧ ∀ q : PlanIx, q ≠ p → (s.makeSelected p).plan q =
          if (s.plan q).phase = some .selected then (s.plan q).toPhase .ready else s.plan q)
    ∧ ((s.plan p).phase ≠ some .ready ∨ (s.plan p).isBase = false → s.makeSelected p = s)
    ∧ ((s.plan p).phase = some .ready ∨ (s.plan p).phase = some .selected → (s.plan p).isBase = true →
      s.makeActive p = { s with
        plans := (s.makeActive p).plans,
        link := if (s.plan p).stretched then (s.raise .cycleStretched).link else s.link }
      ∧ (s.makeActive p).plan p = (s.plan p).toPhase .active
      ∧ ∀ q : PlanIx, q ≠ p → (s.makeActive p).plan q =
          if (s.plan q).phase = some .active then (s.plan q).toPhase .ready else s.plan q)
    ∧ (((s.plan p).phase ≠ some .ready ∧ (s.plan p).phase ≠ some .selected) ∨ (s.plan p).isBase = false →
      s.makeActive p = s)
    ∧ ((s.plan p).phase = some .ready → (s.plan p).cls = some .preempt →
      s.makeInvoked p = s.setPlan p ((s.plan p).toPhase .invoked))
    ∧ ((s.plan p).phase ≠ some .ready ∨ (s.plan p).cls = some .base → s.makeInvoked p = s)
    ∧ (∀ ph b d, s.plan p = .valid ph b d → s.returnReady p = s.setPlan p (.valid .ready b d))
    ∧ ((s.plan p).phase = none → s.returnReady p = s)

/-! ## Laws that every step keeps -/

/-- The laws of the lamp supply (R17, R61, R165, R169): SAFE_ENABLE is active exactly in the supplied states,
every drive is off while it is inactive, the sequencer runs only in RUNNING and a flash clearance only in
START_RED and RUNNING. -/
def Obligations.StepsKeepTheSupplyLaws : Prop :=
  ∀ s t : State, s.SupplyInv → step s = .next t → t.SupplyInv

/-- The laws of the guard (R15, R32, R34, R35): of two conflicting groups at least one is not GREEN, not RED_AMBER and
awaits no green; nothing shows or waits while SAFE_ENABLE is inactive; and an awaited green start stays at or after
every conflicting green-off instant plus its intergreen (R33, R36). Every intergreen from a present VEHICLE group stays
at or above its amber time, and no group is GREEN while a conflicting one shows AMBER (R26). In every step a group that
leaves GREEN takes the instant as its green-off instant, and one whose aspect changes takes it as its aspect entry
instant (R10, R12, R14, R16). -/
def Obligations.StepsKeepConflictsApart : Prop :=
  ∀ s t : State, s.ConflictInv → step s = .next t →
    t.ConflictInv ∧ (s.AwaitLaw → t.AwaitLaw) ∧ (s.AmberLaw → t.AmberLaw) ∧ s.AspectTimes t

/-- The laws of the outputs (R2, R6, R10, R17): no circuit is shared, a drive is on only where its group's aspect
lights it, and a SPARE circuit's drive is off; and, under the laws of the guard, every circuit that a group's aspect
lights is on while SAFE_ENABLE is active. -/
def Obligations.StepsKeepOutputsWithAspects : Prop :=
  ∀ s t : State, s.OutputInv → step s = .next t →
    t.OutputInv ∧ (s.ConflictInv → s.ShownLaw → t.ShownLaw)

/-- R36: under the laws of the guard and of the outputs, no two groups marked conflicting have their green outputs on
at the same time, at the pins too; and a step that switches a green output on comes at or after every conflicting
group's green-off instant plus the intergreen from it, and never while a conflicting group shows AMBER (R26). -/
def Obligations.NoConflictingGreenOutputs : Prop :=
  (∀ (s : State) (l g : GroupIx) (k m : GroupConfig), s.ConflictInv → s.OutputInv →
    s.conflicting l g = true → (s.group l).config = some k → (s.group g).config = some m →
    ¬((s.circuit k.green).drive.on = true ∧ (s.circuit m.green).drive.on = true)
    ∧ ¬(s.drivePin k.green = true ∧ s.drivePin m.green = true))
  ∧ ∀ (s t : State) (g : GroupIx) (m : GroupConfig), s.ConflictInv → s.OutputInv → s.AwaitLaw →
    step s = .next t → (s.group g).config = some m →
    (s.circuit m.green).drive.on = false → (t.circuit m.green).drive.on = true →
    ∀ (l : GroupIx) (n : Nat), s.intergreen l g = some n →
      (s.group l).greenOff + 100 * n ≤ s.now ∧ (s.group l).aspect ≠ .amber ∧ (t.group l).aspect ≠ .amber

/-- R122: the channel has at most one measurement or calibration in progress, by its state; and it arbitrates: while it
is READY after a step, no candidate stands. Under the laws of
the outputs, what is lit, requested, watched and measured agrees with the drives (R119, R120, R124, R125, R133,
R134, R153). -/
def Obligations.StepsKeepOneMeasurement : Prop :=
  ∀ s t : State, step s = .next t →
    (s.ChannelLaw → t.ChannelLaw) ∧ (s.ArbitratedLaw → t.ArbitratedLaw) ∧ (s.OutputInv → s.MeasureLaw → t.MeasureLaw)

/-- The laws of the stores: at most one plan is ACTIVE (R44), the switch points are at most 24 in strictly
ascending time (R107), and every circuit record keeps its ranges and counts (R7, R139, R143, R149, R151). -/
def Obligations.StepsKeepTheStores : Prop :=
  ∀ s t : State, step s = .next t →
    (s.OneActive → t.OneActive) ∧ (s.PointsLaw → t.PointsLaw) ∧ (s.CircuitLaw → t.CircuitLaw)

/-- The laws of preemption (R90, R92): at most three contexts, no entry engaged twice, and the pending list by
descending priority. -/
def Obligations.StepsKeepThePreemptionLaws : Prop :=
  ∀ s t : State, s.PreemptLaw → step s = .next t → t.PreemptLaw

/-- The state after reset keeps every law. -/
def Obligations.ResetKeepsEveryLaw : Prop :=
  State.reset.ConflictInv ∧ State.reset.AwaitLaw ∧ State.reset.AmberLaw ∧ State.reset.OutputInv ∧ State.reset.ShownLaw
    ∧ State.reset.GuardLaw
    ∧ State.reset.ChannelLaw ∧ State.reset.ArbitratedLaw ∧ State.reset.MeasureLaw
    ∧ State.reset.OneActive
    ∧ State.reset.PointsLaw ∧ State.reset.CircuitLaw ∧ State.reset.PreemptLaw
end

