-- ==== Sys2Proof/Laws/State.lean ====
section
/-! SUPPORT. Laws of State: tables, and one lemma per field per record update. -/

namespace Sys2Proof

/-! ## Tables -/

theorem Table.ext_get {n : Nat} {α : Type} {t u : Table n α} (h : ∀ i, t.get i = u.get i) : t = u := by
  obtain ⟨l, hl⟩ := t
  obtain ⟨m, hm⟩ := u
  have : l = m := by
    apply List.ext_getElem (by rw [hl, hm])
    intro i h₁ _
    exact h ⟨i, hl ▸ h₁⟩
  subst this
  rfl

@[simp] theorem Table.get_set_self {n : Nat} {α : Type} (t : Table n α) (i : Fin n) (a : α) :
    (t.set i a).get i = a := by simp [Table.get, Table.set]

theorem Table.get_set_ne {n : Nat} {α : Type} (t : Table n α) {i j : Fin n} (a : α) (h : j ≠ i) :
    (t.set i a).get j = t.get j := by
  have : i.val ≠ j.val := fun e => h (Fin.ext e.symm)
  simp [Table.get, Table.set, List.getElem_set_ne this]

theorem Table.get_set {n : Nat} {α : Type} (t : Table n α) (i j : Fin n) (a : α) :
    (t.set i a).get j = if j = i then a else t.get j := by
  by_cases h : j = i
  · subst h; simp
  · simp [h, Table.get_set_ne]

@[simp] theorem Table.get_map {n : Nat} {α β : Type} (f : α → β) (t : Table n α) (i : Fin n) :
    (t.map f).get i = f (t.get i) := by simp [Table.get, Table.map]

@[simp] theorem Table.get_ofFn {n : Nat} {α : Type} (f : Fin n → α) (i : Fin n) :
    (Table.ofFn f).get i = f i := by simp [Table.get, Table.ofFn]

@[simp] theorem Table.get_replicate {n : Nat} {α : Type} (a : α) (i : Fin n) :
    (Table.replicate n a).get i = a := by simp [Table.get, Table.replicate]

theorem indexOf_number {n : Nat} (i : Fin n) : indexOf n (number i) = some i := by
  simp [indexOf, number, i.isLt]

theorem number_of_indexOf {n k : Nat} {i : Fin n} (h : indexOf n k = some i) : number i = k := by
  unfold indexOf at h
  split at h
  · cases h; simp only [number]; omega
  · cases h

namespace Machine

variable (s : State)

/-! ## setGroup -/

@[simp] theorem State.setGroup_now (g : GroupIx) (r : Group) : (s.setGroup g r).now = s.now := rfl
@[simp] theorem State.setGroup_draws (g : GroupIx) (r : Group) : (s.setGroup g r).draws = s.draws := rfl
@[simp] theorem State.setGroup_resetHeld (g : GroupIx) (r : Group) : (s.setGroup g r).resetHeld = s.resetHeld := rfl
@[simp] theorem State.setGroup_link (g : GroupIx) (r : Group) : (s.setGroup g r).link = s.link := rfl
@[simp] theorem State.setGroup_groups (g : GroupIx) (r : Group) : (s.setGroup g r).groups = s.groups.set g r := rfl
@[simp] theorem State.setGroup_circuits (g : GroupIx) (r : Group) : (s.setGroup g r).circuits = s.circuits := rfl
@[simp] theorem State.setGroup_output (g : GroupIx) (r : Group) : (s.setGroup g r).output = s.output := rfl
@[simp] theorem State.setGroup_conflicts (g : GroupIx) (r : Group) : (s.setGroup g r).conflicts = s.conflicts := rfl
@[simp] theorem State.setGroup_guard (g : GroupIx) (r : Group) : (s.setGroup g r).guard = s.guard := rfl
@[simp] theorem State.setGroup_plans (g : GroupIx) (r : Group) : (s.setGroup g r).plans = s.plans := rfl
@[simp] theorem State.setGroup_seq (g : GroupIx) (r : Group) : (s.setGroup g r).seq = s.seq := rfl
@[simp] theorem State.setGroup_pre (g : GroupIx) (r : Group) : (s.setGroup g r).pre = s.pre := rfl
@[simp] theorem State.setGroup_sched (g : GroupIx) (r : Group) : (s.setGroup g r).sched = s.sched := rfl
@[simp] theorem State.setGroup_channel (g : GroupIx) (r : Group) : (s.setGroup g r).channel = s.channel := rfl
@[simp] theorem State.setGroup_sup (g : GroupIx) (r : Group) : (s.setGroup g r).sup = s.sup := rfl
@[simp] theorem State.setGroup_junction (g : GroupIx) (r : Group) : (s.setGroup g r).junction = s.junction := rfl
@[simp] theorem State.setGroup_pending (g : GroupIx) (r : Group) : (s.setGroup g r).pending = s.pending := rfl
@[simp] theorem State.setGroup_circuit (g : GroupIx) (r : Group) (d : CircuitIx) : (s.setGroup g r).circuit d = s.circuit d := rfl
@[simp] theorem State.setGroup_plan (g : GroupIx) (r : Group) (q : PlanIx) : (s.setGroup g r).plan q = s.plan q := rfl
@[simp] theorem State.setGroup_entry (g : GroupIx) (r : Group) (i : EntryIx) : (s.setGroup g r).entry i = s.entry i := rfl

/-! ## setCircuit -/

@[simp] theorem State.setCircuit_now (c : CircuitIx) (r : Circuit) : (s.setCircuit c r).now = s.now := rfl
@[simp] theorem State.setCircuit_draws (c : CircuitIx) (r : Circuit) : (s.setCircuit c r).draws = s.draws := rfl
@[simp] theorem State.setCircuit_resetHeld (c : CircuitIx) (r : Circuit) : (s.setCircuit c r).resetHeld = s.resetHeld := rfl
@[simp] theorem State.setCircuit_link (c : CircuitIx) (r : Circuit) : (s.setCircuit c r).link = s.link := rfl
@[simp] theorem State.setCircuit_groups (c : CircuitIx) (r : Circuit) : (s.setCircuit c r).groups = s.groups := rfl
@[simp] theorem State.setCircuit_circuits (c : CircuitIx) (r : Circuit) : (s.setCircuit c r).circuits = s.circuits.set c r := rfl
@[simp] theorem State.setCircuit_output (c : CircuitIx) (r : Circuit) : (s.setCircuit c r).output = s.output := rfl
@[simp] theorem State.setCircuit_conflicts (c : CircuitIx) (r : Circuit) : (s.setCircuit c r).conflicts = s.conflicts := rfl
@[simp] theorem State.setCircuit_guard (c : CircuitIx) (r : Circuit) : (s.setCircuit c r).guard = s.guard := rfl
@[simp] theorem State.setCircuit_plans (c : CircuitIx) (r : Circuit) : (s.setCircuit c r).plans = s.plans := rfl
@[simp] theorem State.setCircuit_seq (c : CircuitIx) (r : Circuit) : (s.setCircuit c r).seq = s.seq := rfl
@[simp] theorem State.setCircuit_pre (c : CircuitIx) (r : Circuit) : (s.setCircuit c r).pre = s.pre := rfl
@[simp] theorem State.setCircuit_sched (c : CircuitIx) (r : Circuit) : (s.setCircuit c r).sched = s.sched := rfl
@[simp] theorem State.setCircuit_channel (c : CircuitIx) (r : Circuit) : (s.setCircuit c r).channel = s.channel := rfl
@[simp] theorem State.setCircuit_sup (c : CircuitIx) (r : Circuit) : (s.setCircuit c r).sup = s.sup := rfl
@[simp] theorem State.setCircuit_junction (c : CircuitIx) (r : Circuit) : (s.setCircuit c r).junction = s.junction := rfl
@[simp] theorem State.setCircuit_pending (c : CircuitIx) (r : Circuit) : (s.setCircuit c r).pending = s.pending := rfl
@[simp] theorem State.setCircuit_group (c : CircuitIx) (r : Circuit) (h : GroupIx) : (s.setCircuit c r).group h = s.group h := rfl
@[simp] theorem State.setCircuit_plan (c : CircuitIx) (r : Circuit) (q : PlanIx) : (s.setCircuit c r).plan q = s.plan q := rfl
@[simp] theorem State.setCircuit_entry (c : CircuitIx) (r : Circuit) (i : EntryIx) : (s.setCircuit c r).entry i = s.entry i := rfl

/-! ## setLamp -/

@[simp] theorem State.setLamp_now (c : CircuitIx) (r : LampPart) : (s.setLamp c r).now = s.now := rfl
@[simp] theorem State.setLamp_draws (c : CircuitIx) (r : LampPart) : (s.setLamp c r).draws = s.draws := rfl
@[simp] theorem State.setLamp_resetHeld (c : CircuitIx) (r : LampPart) : (s.setLamp c r).resetHeld = s.resetHeld := rfl
@[simp] theorem State.setLamp_link (c : CircuitIx) (r : LampPart) : (s.setLamp c r).link = s.link := rfl
@[simp] theorem State.setLamp_groups (c : CircuitIx) (r : LampPart) : (s.setLamp c r).groups = s.groups := rfl
@[simp] theorem State.setLamp_output (c : CircuitIx) (r : LampPart) : (s.setLamp c r).output = s.output := rfl
@[simp] theorem State.setLamp_conflicts (c : CircuitIx) (r : LampPart) : (s.setLamp c r).conflicts = s.conflicts := rfl
@[simp] theorem State.setLamp_guard (c : CircuitIx) (r : LampPart) : (s.setLamp c r).guard = s.guard := rfl
@[simp] theorem State.setLamp_plans (c : CircuitIx) (r : LampPart) : (s.setLamp c r).plans = s.plans := rfl
@[simp] theorem State.setLamp_seq (c : CircuitIx) (r : LampPart) : (s.setLamp c r).seq = s.seq := rfl
@[simp] theorem State.setLamp_pre (c : CircuitIx) (r : LampPart) : (s.setLamp c r).pre = s.pre := rfl
@[simp] theorem State.setLamp_sched (c : CircuitIx) (r : LampPart) : (s.setLamp c r).sched = s.sched := rfl
@[simp] theorem State.setLamp_channel (c : CircuitIx) (r : LampPart) : (s.setLamp c r).channel = s.channel := rfl
@[simp] theorem State.setLamp_sup (c : CircuitIx) (r : LampPart) : (s.setLamp c r).sup = s.sup := rfl
@[simp] theorem State.setLamp_junction (c : CircuitIx) (r : LampPart) : (s.setLamp c r).junction = s.junction := rfl
@[simp] theorem State.setLamp_pending (c : CircuitIx) (r : LampPart) : (s.setLamp c r).pending = s.pending := rfl
@[simp] theorem State.setLamp_group (c : CircuitIx) (r : LampPart) (h : GroupIx) : (s.setLamp c r).group h = s.group h := rfl
@[simp] theorem State.setLamp_plan (c : CircuitIx) (r : LampPart) (q : PlanIx) : (s.setLamp c r).plan q = s.plan q := rfl
@[simp] theorem State.setLamp_entry (c : CircuitIx) (r : LampPart) (i : EntryIx) : (s.setLamp c r).entry i = s.entry i := rfl

/-! ## setCable -/

@[simp] theorem State.setCable_now (c : CircuitIx) (r : CablePart) : (s.setCable c r).now = s.now := rfl
@[simp] theorem State.setCable_draws (c : CircuitIx) (r : CablePart) : (s.setCable c r).draws = s.draws := rfl
@[simp] theorem State.setCable_resetHeld (c : CircuitIx) (r : CablePart) : (s.setCable c r).resetHeld = s.resetHeld := rfl
@[simp] theorem State.setCable_link (c : CircuitIx) (r : CablePart) : (s.setCable c r).link = s.link := rfl
@[simp] theorem State.setCable_groups (c : CircuitIx) (r : CablePart) : (s.setCable c r).groups = s.groups := rfl
@[simp] theorem State.setCable_output (c : CircuitIx) (r : CablePart) : (s.setCable c r).output = s.output := rfl
@[simp] theorem State.setCable_conflicts (c : CircuitIx) (r : CablePart) : (s.setCable c r).conflicts = s.conflicts := rfl
@[simp] theorem State.setCable_guard (c : CircuitIx) (r : CablePart) : (s.setCable c r).guard = s.guard := rfl
@[simp] theorem State.setCable_plans (c : CircuitIx) (r : CablePart) : (s.setCable c r).plans = s.plans := rfl
@[simp] theorem State.setCable_seq (c : CircuitIx) (r : CablePart) : (s.setCable c r).seq = s.seq := rfl
@[simp] theorem State.setCable_pre (c : CircuitIx) (r : CablePart) : (s.setCable c r).pre = s.pre := rfl
@[simp] theorem State.setCable_sched (c : CircuitIx) (r : CablePart) : (s.setCable c r).sched = s.sched := rfl
@[simp] theorem State.setCable_channel (c : CircuitIx) (r : CablePart) : (s.setCable c r).channel = s.channel := rfl
@[simp] theorem State.setCable_sup (c : CircuitIx) (r : CablePart) : (s.setCable c r).sup = s.sup := rfl
@[simp] theorem State.setCable_junction (c : CircuitIx) (r : CablePart) : (s.setCable c r).junction = s.junction := rfl
@[simp] theorem State.setCable_pending (c : CircuitIx) (r : CablePart) : (s.setCable c r).pending = s.pending := rfl
@[simp] theorem State.setCable_group (c : CircuitIx) (r : CablePart) (h : GroupIx) : (s.setCable c r).group h = s.group h := rfl
@[simp] theorem State.setCable_plan (c : CircuitIx) (r : CablePart) (q : PlanIx) : (s.setCable c r).plan q = s.plan q := rfl
@[simp] theorem State.setCable_entry (c : CircuitIx) (r : CablePart) (i : EntryIx) : (s.setCable c r).entry i = s.entry i := rfl

/-! ## setSchedule -/

@[simp] theorem State.setSchedule_now (c : CircuitIx) (r : ProvingSchedule) : (s.setSchedule c r).now = s.now := rfl
@[simp] theorem State.setSchedule_draws (c : CircuitIx) (r : ProvingSchedule) : (s.setSchedule c r).draws = s.draws := rfl
@[simp] theorem State.setSchedule_resetHeld (c : CircuitIx) (r : ProvingSchedule) : (s.setSchedule c r).resetHeld = s.resetHeld := rfl
@[simp] theorem State.setSchedule_link (c : CircuitIx) (r : ProvingSchedule) : (s.setSchedule c r).link = s.link := rfl
@[simp] theorem State.setSchedule_groups (c : CircuitIx) (r : ProvingSchedule) : (s.setSchedule c r).groups = s.groups := rfl
@[simp] theorem State.setSchedule_output (c : CircuitIx) (r : ProvingSchedule) : (s.setSchedule c r).output = s.output := rfl
@[simp] theorem State.setSchedule_conflicts (c : CircuitIx) (r : ProvingSchedule) : (s.setSchedule c r).conflicts = s.conflicts := rfl
@[simp] theorem State.setSchedule_guard (c : CircuitIx) (r : ProvingSchedule) : (s.setSchedule c r).guard = s.guard := rfl
@[simp] theorem State.setSchedule_plans (c : CircuitIx) (r : ProvingSchedule) : (s.setSchedule c r).plans = s.plans := rfl
@[simp] theorem State.setSchedule_seq (c : CircuitIx) (r : ProvingSchedule) : (s.setSchedule c r).seq = s.seq := rfl
@[simp] theorem State.setSchedule_pre (c : CircuitIx) (r : ProvingSchedule) : (s.setSchedule c r).pre = s.pre := rfl
@[simp] theorem State.setSchedule_sched (c : CircuitIx) (r : ProvingSchedule) : (s.setSchedule c r).sched = s.sched := rfl
@[simp] theorem State.setSchedule_channel (c : CircuitIx) (r : ProvingSchedule) : (s.setSchedule c r).channel = s.channel := rfl
@[simp] theorem State.setSchedule_sup (c : CircuitIx) (r : ProvingSchedule) : (s.setSchedule c r).sup = s.sup := rfl
@[simp] theorem State.setSchedule_junction (c : CircuitIx) (r : ProvingSchedule) : (s.setSchedule c r).junction = s.junction := rfl
@[simp] theorem State.setSchedule_pending (c : CircuitIx) (r : ProvingSchedule) : (s.setSchedule c r).pending = s.pending := rfl
@[simp] theorem State.setSchedule_group (c : CircuitIx) (r : ProvingSchedule) (h : GroupIx) : (s.setSchedule c r).group h = s.group h := rfl
@[simp] theorem State.setSchedule_plan (c : CircuitIx) (r : ProvingSchedule) (q : PlanIx) : (s.setSchedule c r).plan q = s.plan q := rfl
@[simp] theorem State.setSchedule_entry (c : CircuitIx) (r : ProvingSchedule) (i : EntryIx) : (s.setSchedule c r).entry i = s.entry i := rfl

/-! ## setPlan -/

@[simp] theorem State.setPlan_now (p : PlanIx) (r : Plan) : (s.setPlan p r).now = s.now := rfl
@[simp] theorem State.setPlan_draws (p : PlanIx) (r : Plan) : (s.setPlan p r).draws = s.draws := rfl
@[simp] theorem State.setPlan_resetHeld (p : PlanIx) (r : Plan) : (s.setPlan p r).resetHeld = s.resetHeld := rfl
@[simp] theorem State.setPlan_link (p : PlanIx) (r : Plan) : (s.setPlan p r).link = s.link := rfl
@[simp] theorem State.setPlan_groups (p : PlanIx) (r : Plan) : (s.setPlan p r).groups = s.groups := rfl
@[simp] theorem State.setPlan_circuits (p : PlanIx) (r : Plan) : (s.setPlan p r).circuits = s.circuits := rfl
@[simp] theorem State.setPlan_output (p : PlanIx) (r : Plan) : (s.setPlan p r).output = s.output := rfl
@[simp] theorem State.setPlan_conflicts (p : PlanIx) (r : Plan) : (s.setPlan p r).conflicts = s.conflicts := rfl
@[simp] theorem State.setPlan_guard (p : PlanIx) (r : Plan) : (s.setPlan p r).guard = s.guard := rfl
@[simp] theorem State.setPlan_plans (p : PlanIx) (r : Plan) : (s.setPlan p r).plans = s.plans.set p r := rfl
@[simp] theorem State.setPlan_seq (p : PlanIx) (r : Plan) : (s.setPlan p r).seq = s.seq := rfl
@[simp] theorem State.setPlan_pre (p : PlanIx) (r : Plan) : (s.setPlan p r).pre = s.pre := rfl
@[simp] theorem State.setPlan_sched (p : PlanIx) (r : Plan) : (s.setPlan p r).sched = s.sched := rfl
@[simp] theorem State.setPlan_channel (p : PlanIx) (r : Plan) : (s.setPlan p r).channel = s.channel := rfl
@[simp] theorem State.setPlan_sup (p : PlanIx) (r : Plan) : (s.setPlan p r).sup = s.sup := rfl
@[simp] theorem State.setPlan_junction (p : PlanIx) (r : Plan) : (s.setPlan p r).junction = s.junction := rfl
@[simp] theorem State.setPlan_pending (p : PlanIx) (r : Plan) : (s.setPlan p r).pending = s.pending := rfl
@[simp] theorem State.setPlan_group (p : PlanIx) (r : Plan) (h : GroupIx) : (s.setPlan p r).group h = s.group h := rfl
@[simp] theorem State.setPlan_circuit (p : PlanIx) (r : Plan) (d : CircuitIx) : (s.setPlan p r).circuit d = s.circuit d := rfl
@[simp] theorem State.setPlan_entry (p : PlanIx) (r : Plan) (i : EntryIx) : (s.setPlan p r).entry i = s.entry i := rfl

/-! ## setSeq -/

@[simp] theorem State.setSeq_now (r : Sequencer) : (s.setSeq r).now = s.now := rfl
@[simp] theorem State.setSeq_draws (r : Sequencer) : (s.setSeq r).draws = s.draws := rfl
@[simp] theorem State.setSeq_resetHeld (r : Sequencer) : (s.setSeq r).resetHeld = s.resetHeld := rfl
@[simp] theorem State.setSeq_link (r : Sequencer) : (s.setSeq r).link = s.link := rfl
@[simp] theorem State.setSeq_groups (r : Sequencer) : (s.setSeq r).groups = s.groups := rfl
@[simp] theorem State.setSeq_circuits (r : Sequencer) : (s.setSeq r).circuits = s.circuits := rfl
@[simp] theorem State.setSeq_output (r : Sequencer) : (s.setSeq r).output = s.output := rfl
@[simp] theorem State.setSeq_conflicts (r : Sequencer) : (s.setSeq r).conflicts = s.conflicts := rfl
@[simp] theorem State.setSeq_guard (r : Sequencer) : (s.setSeq r).guard = s.guard := rfl
@[simp] theorem State.setSeq_plans (r : Sequencer) : (s.setSeq r).plans = s.plans := rfl
@[simp] theorem State.setSeq_seq (r : Sequencer) : (s.setSeq r).seq = r := rfl
@[simp] theorem State.setSeq_pre (r : Sequencer) : (s.setSeq r).pre = s.pre := rfl
@[simp] theorem State.setSeq_sched (r : Sequencer) : (s.setSeq r).sched = s.sched := rfl
@[simp] theorem State.setSeq_channel (r : Sequencer) : (s.setSeq r).channel = s.channel := rfl
@[simp] theorem State.setSeq_sup (r : Sequencer) : (s.setSeq r).sup = s.sup := rfl
@[simp] theorem State.setSeq_junction (r : Sequencer) : (s.setSeq r).junction = s.junction := rfl
@[simp] theorem State.setSeq_pending (r : Sequencer) : (s.setSeq r).pending = s.pending := rfl
@[simp] theorem State.setSeq_group (r : Sequencer) (h : GroupIx) : (s.setSeq r).group h = s.group h := rfl
@[simp] theorem State.setSeq_circuit (r : Sequencer) (d : CircuitIx) : (s.setSeq r).circuit d = s.circuit d := rfl
@[simp] theorem State.setSeq_plan (r : Sequencer) (q : PlanIx) : (s.setSeq r).plan q = s.plan q := rfl
@[simp] theorem State.setSeq_entry (r : Sequencer) (i : EntryIx) : (s.setSeq r).entry i = s.entry i := rfl

/-! ## setPre -/

@[simp] theorem State.setPre_now (r : Preemption) : (s.setPre r).now = s.now := rfl
@[simp] theorem State.setPre_draws (r : Preemption) : (s.setPre r).draws = s.draws := rfl
@[simp] theorem State.setPre_resetHeld (r : Preemption) : (s.setPre r).resetHeld = s.resetHeld := rfl
@[simp] theorem State.setPre_link (r : Preemption) : (s.setPre r).link = s.link := rfl
@[simp] theorem State.setPre_groups (r : Preemption) : (s.setPre r).groups = s.groups := rfl
@[simp] theorem State.setPre_circuits (r : Preemption) : (s.setPre r).circuits = s.circuits := rfl
@[simp] theorem State.setPre_output (r : Preemption) : (s.setPre r).output = s.output := rfl
@[simp] theorem State.setPre_conflicts (r : Preemption) : (s.setPre r).conflicts = s.conflicts := rfl
@[simp] theorem State.setPre_guard (r : Preemption) : (s.setPre r).guard = s.guard := rfl
@[simp] theorem State.setPre_plans (r : Preemption) : (s.setPre r).plans = s.plans := rfl
@[simp] theorem State.setPre_seq (r : Preemption) : (s.setPre r).seq = s.seq := rfl
@[simp] theorem State.setPre_pre (r : Preemption) : (s.setPre r).pre = r := rfl
@[simp] theorem State.setPre_sched (r : Preemption) : (s.setPre r).sched = s.sched := rfl
@[simp] theorem State.setPre_channel (r : Preemption) : (s.setPre r).channel = s.channel := rfl
@[simp] theorem State.setPre_sup (r : Preemption) : (s.setPre r).sup = s.sup := rfl
@[simp] theorem State.setPre_junction (r : Preemption) : (s.setPre r).junction = s.junction := rfl
@[simp] theorem State.setPre_pending (r : Preemption) : (s.setPre r).pending = s.pending := rfl
@[simp] theorem State.setPre_group (r : Preemption) (h : GroupIx) : (s.setPre r).group h = s.group h := rfl
@[simp] theorem State.setPre_circuit (r : Preemption) (d : CircuitIx) : (s.setPre r).circuit d = s.circuit d := rfl
@[simp] theorem State.setPre_plan (r : Preemption) (q : PlanIx) : (s.setPre r).plan q = s.plan q := rfl

/-! ## setEntry -/

@[simp] theorem State.setEntry_now (e : EntryIx) (r : Entry) : (s.setEntry e r).now = s.now := rfl
@[simp] theorem State.setEntry_draws (e : EntryIx) (r : Entry) : (s.setEntry e r).draws = s.draws := rfl
@[simp] theorem State.setEntry_resetHeld (e : EntryIx) (r : Entry) : (s.setEntry e r).resetHeld = s.resetHeld := rfl
@[simp] theorem State.setEntry_link (e : EntryIx) (r : Entry) : (s.setEntry e r).link = s.link := rfl
@[simp] theorem State.setEntry_groups (e : EntryIx) (r : Entry) : (s.setEntry e r).groups = s.groups := rfl
@[simp] theorem State.setEntry_circuits (e : EntryIx) (r : Entry) : (s.setEntry e r).circuits = s.circuits := rfl
@[simp] theorem State.setEntry_output (e : EntryIx) (r : Entry) : (s.setEntry e r).output = s.output := rfl
@[simp] theorem State.setEntry_conflicts (e : EntryIx) (r : Entry) : (s.setEntry e r).conflicts = s.conflicts := rfl
@[simp] theorem State.setEntry_guard (e : EntryIx) (r : Entry) : (s.setEntry e r).guard = s.guard := rfl
@[simp] theorem State.setEntry_plans (e : EntryIx) (r : Entry) : (s.setEntry e r).plans = s.plans := rfl
@[simp] theorem State.setEntry_seq (e : EntryIx) (r : Entry) : (s.setEntry e r).seq = s.seq := rfl
@[simp] theorem State.setEntry_sched (e : EntryIx) (r : Entry) : (s.setEntry e r).sched = s.sched := rfl
@[simp] theorem State.setEntry_channel (e : EntryIx) (r : Entry) : (s.setEntry e r).channel = s.channel := rfl
@[simp] theorem State.setEntry_sup (e : EntryIx) (r : Entry) : (s.setEntry e r).sup = s.sup := rfl
@[simp] theorem State.setEntry_junction (e : EntryIx) (r : Entry) : (s.setEntry e r).junction = s.junction := rfl
@[simp] theorem State.setEntry_pending (e : EntryIx) (r : Entry) : (s.setEntry e r).pending = s.pending := rfl
@[simp] theorem State.setEntry_group (e : EntryIx) (r : Entry) (h : GroupIx) : (s.setEntry e r).group h = s.group h := rfl
@[simp] theorem State.setEntry_circuit (e : EntryIx) (r : Entry) (d : CircuitIx) : (s.setEntry e r).circuit d = s.circuit d := rfl
@[simp] theorem State.setEntry_plan (e : EntryIx) (r : Entry) (q : PlanIx) : (s.setEntry e r).plan q = s.plan q := rfl

/-! ## setLine -/

@[simp] theorem State.setLine_now (n : LineIx) (r : PrqLine) : (s.setLine n r).now = s.now := rfl
@[simp] theorem State.setLine_draws (n : LineIx) (r : PrqLine) : (s.setLine n r).draws = s.draws := rfl
@[simp] theorem State.setLine_resetHeld (n : LineIx) (r : PrqLine) : (s.setLine n r).resetHeld = s.resetHeld := rfl
@[simp] theorem State.setLine_link (n : LineIx) (r : PrqLine) : (s.setLine n r).link = s.link := rfl
@[simp] theorem State.setLine_groups (n : LineIx) (r : PrqLine) : (s.setLine n r).groups = s.groups := rfl
@[simp] theorem State.setLine_circuits (n : LineIx) (r : PrqLine) : (s.setLine n r).circuits = s.circuits := rfl
@[simp] theorem State.setLine_output (n : LineIx) (r : PrqLine) : (s.setLine n r).output = s.output := rfl
@[simp] theorem State.setLine_conflicts (n : LineIx) (r : PrqLine) : (s.setLine n r).conflicts = s.conflicts := rfl
@[simp] theorem State.setLine_guard (n : LineIx) (r : PrqLine) : (s.setLine n r).guard = s.guard := rfl
@[simp] theorem State.setLine_plans (n : LineIx) (r : PrqLine) : (s.setLine n r).plans = s.plans := rfl
@[simp] theorem State.setLine_seq (n : LineIx) (r : PrqLine) : (s.setLine n r).seq = s.seq := rfl
@[simp] theorem State.setLine_sched (n : LineIx) (r : PrqLine) : (s.setLine n r).sched = s.sched := rfl
@[simp] theorem State.setLine_channel (n : LineIx) (r : PrqLine) : (s.setLine n r).channel = s.channel := rfl
@[simp] theorem State.setLine_sup (n : LineIx) (r : PrqLine) : (s.setLine n r).sup = s.sup := rfl
@[simp] theorem State.setLine_junction (n : LineIx) (r : PrqLine) : (s.setLine n r).junction = s.junction := rfl
@[simp] theorem State.setLine_pending (n : LineIx) (r : PrqLine) : (s.setLine n r).pending = s.pending := rfl
@[simp] theorem State.setLine_group (n : LineIx) (r : PrqLine) (h : GroupIx) : (s.setLine n r).group h = s.group h := rfl
@[simp] theorem State.setLine_circuit (n : LineIx) (r : PrqLine) (d : CircuitIx) : (s.setLine n r).circuit d = s.circuit d := rfl
@[simp] theorem State.setLine_plan (n : LineIx) (r : PrqLine) (q : PlanIx) : (s.setLine n r).plan q = s.plan q := rfl

/-! ## setSched -/

@[simp] theorem State.setSched_now (r : Schedule) : (s.setSched r).now = s.now := rfl
@[simp] theorem State.setSched_draws (r : Schedule) : (s.setSched r).draws = s.draws := rfl
@[simp] theorem State.setSched_resetHeld (r : Schedule) : (s.setSched r).resetHeld = s.resetHeld := rfl
@[simp] theorem State.setSched_link (r : Schedule) : (s.setSched r).link = s.link := rfl
@[simp] theorem State.setSched_groups (r : Schedule) : (s.setSched r).groups = s.groups := rfl
@[simp] theorem State.setSched_circuits (r : Schedule) : (s.setSched r).circuits = s.circuits := rfl
@[simp] theorem State.setSched_output (r : Schedule) : (s.setSched r).output = s.output := rfl
@[simp] theorem State.setSched_conflicts (r : Schedule) : (s.setSched r).conflicts = s.conflicts := rfl
@[simp] theorem State.setSched_guard (r : Schedule) : (s.setSched r).guard = s.guard := rfl
@[simp] theorem State.setSched_plans (r : Schedule) : (s.setSched r).plans = s.plans := rfl
@[simp] theorem State.setSched_seq (r : Schedule) : (s.setSched r).seq = s.seq := rfl
@[simp] theorem State.setSched_pre (r : Schedule) : (s.setSched r).pre = s.pre := rfl
@[simp] theorem State.setSched_sched (r : Schedule) : (s.setSched r).sched = r := rfl
@[simp] theorem State.setSched_channel (r : Schedule) : (s.setSched r).channel = s.channel := rfl
@[simp] theorem State.setSched_sup (r : Schedule) : (s.setSched r).sup = s.sup := rfl
@[simp] theorem State.setSched_junction (r : Schedule) : (s.setSched r).junction = s.junction := rfl
@[simp] theorem State.setSched_pending (r : Schedule) : (s.setSched r).pending = s.pending := rfl
@[simp] theorem State.setSched_group (r : Schedule) (h : GroupIx) : (s.setSched r).group h = s.group h := rfl
@[simp] theorem State.setSched_circuit (r : Schedule) (d : CircuitIx) : (s.setSched r).circuit d = s.circuit d := rfl
@[simp] theorem State.setSched_plan (r : Schedule) (q : PlanIx) : (s.setSched r).plan q = s.plan q := rfl
@[simp] theorem State.setSched_entry (r : Schedule) (i : EntryIx) : (s.setSched r).entry i = s.entry i := rfl

/-! ## setOwed -/

@[simp] theorem State.setOwed_now (b : Bool) : (s.setOwed b).now = s.now := rfl
@[simp] theorem State.setOwed_draws (b : Bool) : (s.setOwed b).draws = s.draws := rfl
@[simp] theorem State.setOwed_resetHeld (b : Bool) : (s.setOwed b).resetHeld = s.resetHeld := rfl
@[simp] theorem State.setOwed_link (b : Bool) : (s.setOwed b).link = s.link := rfl
@[simp] theorem State.setOwed_groups (b : Bool) : (s.setOwed b).groups = s.groups := rfl
@[simp] theorem State.setOwed_circuits (b : Bool) : (s.setOwed b).circuits = s.circuits := rfl
@[simp] theorem State.setOwed_output (b : Bool) : (s.setOwed b).output = s.output := rfl
@[simp] theorem State.setOwed_conflicts (b : Bool) : (s.setOwed b).conflicts = s.conflicts := rfl
@[simp] theorem State.setOwed_guard (b : Bool) : (s.setOwed b).guard = s.guard := rfl
@[simp] theorem State.setOwed_plans (b : Bool) : (s.setOwed b).plans = s.plans := rfl
@[simp] theorem State.setOwed_seq (b : Bool) : (s.setOwed b).seq = s.seq := rfl
@[simp] theorem State.setOwed_pre (b : Bool) : (s.setOwed b).pre = s.pre := rfl
@[simp] theorem State.setOwed_channel (b : Bool) : (s.setOwed b).channel = s.channel := rfl
@[simp] theorem State.setOwed_sup (b : Bool) : (s.setOwed b).sup = s.sup := rfl
@[simp] theorem State.setOwed_junction (b : Bool) : (s.setOwed b).junction = s.junction := rfl
@[simp] theorem State.setOwed_pending (b : Bool) : (s.setOwed b).pending = s.pending := rfl
@[simp] theorem State.setOwed_group (b : Bool) (h : GroupIx) : (s.setOwed b).group h = s.group h := rfl
@[simp] theorem State.setOwed_circuit (b : Bool) (d : CircuitIx) : (s.setOwed b).circuit d = s.circuit d := rfl
@[simp] theorem State.setOwed_plan (b : Bool) (q : PlanIx) : (s.setOwed b).plan q = s.plan q := rfl
@[simp] theorem State.setOwed_entry (b : Bool) (i : EntryIx) : (s.setOwed b).entry i = s.entry i := rfl

/-! ## setChannel -/

@[simp] theorem State.setChannel_now (r : Channel) : (s.setChannel r).now = s.now := rfl
@[simp] theorem State.setChannel_draws (r : Channel) : (s.setChannel r).draws = s.draws := rfl
@[simp] theorem State.setChannel_resetHeld (r : Channel) : (s.setChannel r).resetHeld = s.resetHeld := rfl
@[simp] theorem State.setChannel_link (r : Channel) : (s.setChannel r).link = s.link := rfl
@[simp] theorem State.setChannel_groups (r : Channel) : (s.setChannel r).groups = s.groups := rfl
@[simp] theorem State.setChannel_circuits (r : Channel) : (s.setChannel r).circuits = s.circuits := rfl
@[simp] theorem State.setChannel_output (r : Channel) : (s.setChannel r).output = s.output := rfl
@[simp] theorem State.setChannel_conflicts (r : Channel) : (s.setChannel r).conflicts = s.conflicts := rfl
@[simp] theorem State.setChannel_guard (r : Channel) : (s.setChannel r).guard = s.guard := rfl
@[simp] theorem State.setChannel_plans (r : Channel) : (s.setChannel r).plans = s.plans := rfl
@[simp] theorem State.setChannel_seq (r : Channel) : (s.setChannel r).seq = s.seq := rfl
@[simp] theorem State.setChannel_pre (r : Channel) : (s.setChannel r).pre = s.pre := rfl
@[simp] theorem State.setChannel_sched (r : Channel) : (s.setChannel r).sched = s.sched := rfl
@[simp] theorem State.setChannel_channel (r : Channel) : (s.setChannel r).channel = r := rfl
@[simp] theorem State.setChannel_sup (r : Channel) : (s.setChannel r).sup = s.sup := rfl
@[simp] theorem State.setChannel_junction (r : Channel) : (s.setChannel r).junction = s.junction := rfl
@[simp] theorem State.setChannel_pending (r : Channel) : (s.setChannel r).pending = s.pending := rfl
@[simp] theorem State.setChannel_group (r : Channel) (h : GroupIx) : (s.setChannel r).group h = s.group h := rfl
@[simp] theorem State.setChannel_circuit (r : Channel) (d : CircuitIx) : (s.setChannel r).circuit d = s.circuit d := rfl
@[simp] theorem State.setChannel_plan (r : Channel) (q : PlanIx) : (s.setChannel r).plan q = s.plan q := rfl
@[simp] theorem State.setChannel_entry (r : Channel) (i : EntryIx) : (s.setChannel r).entry i = s.entry i := rfl

/-! ## setSup -/

@[simp] theorem State.setSup_now (r : Supervision) : (s.setSup r).now = s.now := rfl
@[simp] theorem State.setSup_draws (r : Supervision) : (s.setSup r).draws = s.draws := rfl
@[simp] theorem State.setSup_resetHeld (r : Supervision) : (s.setSup r).resetHeld = s.resetHeld := rfl
@[simp] theorem State.setSup_link (r : Supervision) : (s.setSup r).link = s.link := rfl
@[simp] theorem State.setSup_groups (r : Supervision) : (s.setSup r).groups = s.groups := rfl
@[simp] theorem State.setSup_circuits (r : Supervision) : (s.setSup r).circuits = s.circuits := rfl
@[simp] theorem State.setSup_output (r : Supervision) : (s.setSup r).output = s.output := rfl
@[simp] theorem State.setSup_conflicts (r : Supervision) : (s.setSup r).conflicts = s.conflicts := rfl
@[simp] theorem State.setSup_guard (r : Supervision) : (s.setSup r).guard = s.guard := rfl
@[simp] theorem State.setSup_plans (r : Supervision) : (s.setSup r).plans = s.plans := rfl
@[simp] theorem State.setSup_seq (r : Supervision) : (s.setSup r).seq = s.seq := rfl
@[simp] theorem State.setSup_pre (r : Supervision) : (s.setSup r).pre = s.pre := rfl
@[simp] theorem State.setSup_sched (r : Supervision) : (s.setSup r).sched = s.sched := rfl
@[simp] theorem State.setSup_channel (r : Supervision) : (s.setSup r).channel = s.channel := rfl
@[simp] theorem State.setSup_sup (r : Supervision) : (s.setSup r).sup = r := rfl
@[simp] theorem State.setSup_junction (r : Supervision) : (s.setSup r).junction = s.junction := rfl
@[simp] theorem State.setSup_pending (r : Supervision) : (s.setSup r).pending = s.pending := rfl
@[simp] theorem State.setSup_group (r : Supervision) (h : GroupIx) : (s.setSup r).group h = s.group h := rfl
@[simp] theorem State.setSup_circuit (r : Supervision) (d : CircuitIx) : (s.setSup r).circuit d = s.circuit d := rfl
@[simp] theorem State.setSup_plan (r : Supervision) (q : PlanIx) : (s.setSup r).plan q = s.plan q := rfl
@[simp] theorem State.setSup_entry (r : Supervision) (i : EntryIx) : (s.setSup r).entry i = s.entry i := rfl

/-! ## setOutput -/

@[simp] theorem State.setOutput_now (r : Output) : (s.setOutput r).now = s.now := rfl
@[simp] theorem State.setOutput_draws (r : Output) : (s.setOutput r).draws = s.draws := rfl
@[simp] theorem State.setOutput_resetHeld (r : Output) : (s.setOutput r).resetHeld = s.resetHeld := rfl
@[simp] theorem State.setOutput_link (r : Output) : (s.setOutput r).link = s.link := rfl
@[simp] theorem State.setOutput_groups (r : Output) : (s.setOutput r).groups = s.groups := rfl
@[simp] theorem State.setOutput_circuits (r : Output) : (s.setOutput r).circuits = s.circuits := rfl
@[simp] theorem State.setOutput_output (r : Output) : (s.setOutput r).output = r := rfl
@[simp] theorem State.setOutput_conflicts (r : Output) : (s.setOutput r).conflicts = s.conflicts := rfl
@[simp] theorem State.setOutput_guard (r : Output) : (s.setOutput r).guard = s.guard := rfl
@[simp] theorem State.setOutput_plans (r : Output) : (s.setOutput r).plans = s.plans := rfl
@[simp] theorem State.setOutput_seq (r : Output) : (s.setOutput r).seq = s.seq := rfl
@[simp] theorem State.setOutput_pre (r : Output) : (s.setOutput r).pre = s.pre := rfl
@[simp] theorem State.setOutput_sched (r : Output) : (s.setOutput r).sched = s.sched := rfl
@[simp] theorem State.setOutput_channel (r : Output) : (s.setOutput r).channel = s.channel := rfl
@[simp] theorem State.setOutput_sup (r : Output) : (s.setOutput r).sup = s.sup := rfl
@[simp] theorem State.setOutput_junction (r : Output) : (s.setOutput r).junction = s.junction := rfl
@[simp] theorem State.setOutput_pending (r : Output) : (s.setOutput r).pending = s.pending := rfl
@[simp] theorem State.setOutput_group (r : Output) (h : GroupIx) : (s.setOutput r).group h = s.group h := rfl
@[simp] theorem State.setOutput_circuit (r : Output) (d : CircuitIx) : (s.setOutput r).circuit d = s.circuit d := rfl
@[simp] theorem State.setOutput_plan (r : Output) (q : PlanIx) : (s.setOutput r).plan q = s.plan q := rfl
@[simp] theorem State.setOutput_entry (r : Output) (i : EntryIx) : (s.setOutput r).entry i = s.entry i := rfl

/-! ## setJunction -/

@[simp] theorem State.setJunction_now (r : Junction) : (s.setJunction r).now = s.now := rfl
@[simp] theorem State.setJunction_draws (r : Junction) : (s.setJunction r).draws = s.draws := rfl
@[simp] theorem State.setJunction_resetHeld (r : Junction) : (s.setJunction r).resetHeld = s.resetHeld := rfl
@[simp] theorem State.setJunction_link (r : Junction) : (s.setJunction r).link = s.link := rfl
@[simp] theorem State.setJunction_groups (r : Junction) : (s.setJunction r).groups = s.groups := rfl
@[simp] theorem State.setJunction_circuits (r : Junction) : (s.setJunction r).circuits = s.circuits := rfl
@[simp] theorem State.setJunction_output (r : Junction) : (s.setJunction r).output = s.output := rfl
@[simp] theorem State.setJunction_conflicts (r : Junction) : (s.setJunction r).conflicts = s.conflicts := rfl
@[simp] theorem State.setJunction_guard (r : Junction) : (s.setJunction r).guard = s.guard := rfl
@[simp] theorem State.setJunction_plans (r : Junction) : (s.setJunction r).plans = s.plans := rfl
@[simp] theorem State.setJunction_seq (r : Junction) : (s.setJunction r).seq = s.seq := rfl
@[simp] theorem State.setJunction_pre (r : Junction) : (s.setJunction r).pre = s.pre := rfl
@[simp] theorem State.setJunction_sched (r : Junction) : (s.setJunction r).sched = s.sched := rfl
@[simp] theorem State.setJunction_channel (r : Junction) : (s.setJunction r).channel = s.channel := rfl
@[simp] theorem State.setJunction_sup (r : Junction) : (s.setJunction r).sup = s.sup := rfl
@[simp] theorem State.setJunction_junction (r : Junction) : (s.setJunction r).junction = r := rfl
@[simp] theorem State.setJunction_pending (r : Junction) : (s.setJunction r).pending = s.pending := rfl
@[simp] theorem State.setJunction_group (r : Junction) (h : GroupIx) : (s.setJunction r).group h = s.group h := rfl
@[simp] theorem State.setJunction_circuit (r : Junction) (d : CircuitIx) : (s.setJunction r).circuit d = s.circuit d := rfl
@[simp] theorem State.setJunction_plan (r : Junction) (q : PlanIx) : (s.setJunction r).plan q = s.plan q := rfl
@[simp] theorem State.setJunction_entry (r : Junction) (i : EntryIx) : (s.setJunction r).entry i = s.entry i := rfl

/-! ## setMode -/

@[simp] theorem State.setMode_now (m : Mode) : (s.setMode m).now = s.now := rfl
@[simp] theorem State.setMode_draws (m : Mode) : (s.setMode m).draws = s.draws := rfl
@[simp] theorem State.setMode_resetHeld (m : Mode) : (s.setMode m).resetHeld = s.resetHeld := rfl
@[simp] theorem State.setMode_link (m : Mode) : (s.setMode m).link = s.link := rfl
@[simp] theorem State.setMode_groups (m : Mode) : (s.setMode m).groups = s.groups := rfl
@[simp] theorem State.setMode_circuits (m : Mode) : (s.setMode m).circuits = s.circuits := rfl
@[simp] theorem State.setMode_output (m : Mode) : (s.setMode m).output = s.output := rfl
@[simp] theorem State.setMode_conflicts (m : Mode) : (s.setMode m).conflicts = s.conflicts := rfl
@[simp] theorem State.setMode_guard (m : Mode) : (s.setMode m).guard = s.guard := rfl
@[simp] theorem State.setMode_plans (m : Mode) : (s.setMode m).plans = s.plans := rfl
@[simp] theorem State.setMode_seq (m : Mode) : (s.setMode m).seq = s.seq := rfl
@[simp] theorem State.setMode_pre (m : Mode) : (s.setMode m).pre = s.pre := rfl
@[simp] theorem State.setMode_sched (m : Mode) : (s.setMode m).sched = s.sched := rfl
@[simp] theorem State.setMode_channel (m : Mode) : (s.setMode m).channel = s.channel := rfl
@[simp] theorem State.setMode_sup (m : Mode) : (s.setMode m).sup = s.sup := rfl
@[simp] theorem State.setMode_pending (m : Mode) : (s.setMode m).pending = s.pending := rfl
@[simp] theorem State.setMode_group (m : Mode) (h : GroupIx) : (s.setMode m).group h = s.group h := rfl
@[simp] theorem State.setMode_circuit (m : Mode) (d : CircuitIx) : (s.setMode m).circuit d = s.circuit d := rfl
@[simp] theorem State.setMode_plan (m : Mode) (q : PlanIx) : (s.setMode m).plan q = s.plan q := rfl
@[simp] theorem State.setMode_entry (m : Mode) (i : EntryIx) : (s.setMode m).entry i = s.entry i := rfl

/-! ## setGuard -/

@[simp] theorem State.setGuard_now (r : List GuardRequest) : (s.setGuard r).now = s.now := rfl
@[simp] theorem State.setGuard_draws (r : List GuardRequest) : (s.setGuard r).draws = s.draws := rfl
@[simp] theorem State.setGuard_resetHeld (r : List GuardRequest) : (s.setGuard r).resetHeld = s.resetHeld := rfl
@[simp] theorem State.setGuard_link (r : List GuardRequest) : (s.setGuard r).link = s.link := rfl
@[simp] theorem State.setGuard_groups (r : List GuardRequest) : (s.setGuard r).groups = s.groups := rfl
@[simp] theorem State.setGuard_circuits (r : List GuardRequest) : (s.setGuard r).circuits = s.circuits := rfl
@[simp] theorem State.setGuard_output (r : List GuardRequest) : (s.setGuard r).output = s.output := rfl
@[simp] theorem State.setGuard_conflicts (r : List GuardRequest) : (s.setGuard r).conflicts = s.conflicts := rfl
@[simp] theorem State.setGuard_guard (r : List GuardRequest) : (s.setGuard r).guard = r := rfl
@[simp] theorem State.setGuard_plans (r : List GuardRequest) : (s.setGuard r).plans = s.plans := rfl
@[simp] theorem State.setGuard_seq (r : List GuardRequest) : (s.setGuard r).seq = s.seq := rfl
@[simp] theorem State.setGuard_pre (r : List GuardRequest) : (s.setGuard r).pre = s.pre := rfl
@[simp] theorem State.setGuard_sched (r : List GuardRequest) : (s.setGuard r).sched = s.sched := rfl
@[simp] theorem State.setGuard_channel (r : List GuardRequest) : (s.setGuard r).channel = s.channel := rfl
@[simp] theorem State.setGuard_sup (r : List GuardRequest) : (s.setGuard r).sup = s.sup := rfl
@[simp] theorem State.setGuard_junction (r : List GuardRequest) : (s.setGuard r).junction = s.junction := rfl
@[simp] theorem State.setGuard_pending (r : List GuardRequest) : (s.setGuard r).pending = s.pending := rfl
@[simp] theorem State.setGuard_group (r : List GuardRequest) (h : GroupIx) : (s.setGuard r).group h = s.group h := rfl
@[simp] theorem State.setGuard_circuit (r : List GuardRequest) (d : CircuitIx) : (s.setGuard r).circuit d = s.circuit d := rfl
@[simp] theorem State.setGuard_plan (r : List GuardRequest) (q : PlanIx) : (s.setGuard r).plan q = s.plan q := rfl
@[simp] theorem State.setGuard_entry (r : List GuardRequest) (i : EntryIx) : (s.setGuard r).entry i = s.entry i := rfl

/-! ## setLink -/

@[simp] theorem State.setLink_now (r : Link) : (s.setLink r).now = s.now := rfl
@[simp] theorem State.setLink_draws (r : Link) : (s.setLink r).draws = s.draws := rfl
@[simp] theorem State.setLink_resetHeld (r : Link) : (s.setLink r).resetHeld = s.resetHeld := rfl
@[simp] theorem State.setLink_link (r : Link) : (s.setLink r).link = r := rfl
@[simp] theorem State.setLink_groups (r : Link) : (s.setLink r).groups = s.groups := rfl
@[simp] theorem State.setLink_circuits (r : Link) : (s.setLink r).circuits = s.circuits := rfl
@[simp] theorem State.setLink_output (r : Link) : (s.setLink r).output = s.output := rfl
@[simp] theorem State.setLink_conflicts (r : Link) : (s.setLink r).conflicts = s.conflicts := rfl
@[simp] theorem State.setLink_guard (r : Link) : (s.setLink r).guard = s.guard := rfl
@[simp] theorem State.setLink_plans (r : Link) : (s.setLink r).plans = s.plans := rfl
@[simp] theorem State.setLink_seq (r : Link) : (s.setLink r).seq = s.seq := rfl
@[simp] theorem State.setLink_pre (r : Link) : (s.setLink r).pre = s.pre := rfl
@[simp] theorem State.setLink_sched (r : Link) : (s.setLink r).sched = s.sched := rfl
@[simp] theorem State.setLink_channel (r : Link) : (s.setLink r).channel = s.channel := rfl
@[simp] theorem State.setLink_sup (r : Link) : (s.setLink r).sup = s.sup := rfl
@[simp] theorem State.setLink_junction (r : Link) : (s.setLink r).junction = s.junction := rfl
@[simp] theorem State.setLink_pending (r : Link) : (s.setLink r).pending = s.pending := rfl
@[simp] theorem State.setLink_group (r : Link) (h : GroupIx) : (s.setLink r).group h = s.group h := rfl
@[simp] theorem State.setLink_circuit (r : Link) (d : CircuitIx) : (s.setLink r).circuit d = s.circuit d := rfl
@[simp] theorem State.setLink_plan (r : Link) (q : PlanIx) : (s.setLink r).plan q = s.plan q := rfl
@[simp] theorem State.setLink_entry (r : Link) (i : EntryIx) : (s.setLink r).entry i = s.entry i := rfl

/-! ## raise -/

@[simp] theorem State.raise_now (k : Attention) : (s.raise k).now = s.now := rfl
@[simp] theorem State.raise_draws (k : Attention) : (s.raise k).draws = s.draws := rfl
@[simp] theorem State.raise_resetHeld (k : Attention) : (s.raise k).resetHeld = s.resetHeld := rfl
@[simp] theorem State.raise_link (k : Attention) : (s.raise k).link = { s.link with attention := s.link.attention ||| BitVec.twoPow 18 k.bit } := rfl
@[simp] theorem State.raise_groups (k : Attention) : (s.raise k).groups = s.groups := rfl
@[simp] theorem State.raise_circuits (k : Attention) : (s.raise k).circuits = s.circuits := rfl
@[simp] theorem State.raise_output (k : Attention) : (s.raise k).output = s.output := rfl
@[simp] theorem State.raise_conflicts (k : Attention) : (s.raise k).conflicts = s.conflicts := rfl
@[simp] theorem State.raise_guard (k : Attention) : (s.raise k).guard = s.guard := rfl
@[simp] theorem State.raise_plans (k : Attention) : (s.raise k).plans = s.plans := rfl
@[simp] theorem State.raise_seq (k : Attention) : (s.raise k).seq = s.seq := rfl
@[simp] theorem State.raise_pre (k : Attention) : (s.raise k).pre = s.pre := rfl
@[simp] theorem State.raise_sched (k : Attention) : (s.raise k).sched = s.sched := rfl
@[simp] theorem State.raise_channel (k : Attention) : (s.raise k).channel = s.channel := rfl
@[simp] theorem State.raise_sup (k : Attention) : (s.raise k).sup = s.sup := rfl
@[simp] theorem State.raise_junction (k : Attention) : (s.raise k).junction = s.junction := rfl
@[simp] theorem State.raise_pending (k : Attention) : (s.raise k).pending = s.pending := rfl
@[simp] theorem State.raise_group (k : Attention) (h : GroupIx) : (s.raise k).group h = s.group h := rfl
@[simp] theorem State.raise_circuit (k : Attention) (d : CircuitIx) : (s.raise k).circuit d = s.circuit d := rfl
@[simp] theorem State.raise_plan (k : Attention) (q : PlanIx) : (s.raise k).plan q = s.plan q := rfl
@[simp] theorem State.raise_entry (k : Attention) (i : EntryIx) : (s.raise k).entry i = s.entry i := rfl

/-! ## answer -/

@[simp] theorem State.answer_now (r : Reply) : (s.answer r).now = s.now := rfl
@[simp] theorem State.answer_draws (r : Reply) : (s.answer r).draws = s.draws := rfl
@[simp] theorem State.answer_resetHeld (r : Reply) : (s.answer r).resetHeld = s.resetHeld := rfl
@[simp] theorem State.answer_link (r : Reply) : (s.answer r).link = { s.link with transaction := .replying r } := rfl
@[simp] theorem State.answer_groups (r : Reply) : (s.answer r).groups = s.groups := rfl
@[simp] theorem State.answer_circuits (r : Reply) : (s.answer r).circuits = s.circuits := rfl
@[simp] theorem State.answer_output (r : Reply) : (s.answer r).output = s.output := rfl
@[simp] theorem State.answer_conflicts (r : Reply) : (s.answer r).conflicts = s.conflicts := rfl
@[simp] theorem State.answer_guard (r : Reply) : (s.answer r).guard = s.guard := rfl
@[simp] theorem State.answer_plans (r : Reply) : (s.answer r).plans = s.plans := rfl
@[simp] theorem State.answer_seq (r : Reply) : (s.answer r).seq = s.seq := rfl
@[simp] theorem State.answer_pre (r : Reply) : (s.answer r).pre = s.pre := rfl
@[simp] theorem State.answer_sched (r : Reply) : (s.answer r).sched = s.sched := rfl
@[simp] theorem State.answer_channel (r : Reply) : (s.answer r).channel = s.channel := rfl
@[simp] theorem State.answer_sup (r : Reply) : (s.answer r).sup = s.sup := rfl
@[simp] theorem State.answer_junction (r : Reply) : (s.answer r).junction = s.junction := rfl
@[simp] theorem State.answer_pending (r : Reply) : (s.answer r).pending = s.pending := rfl
@[simp] theorem State.answer_group (r : Reply) (h : GroupIx) : (s.answer r).group h = s.group h := rfl
@[simp] theorem State.answer_circuit (r : Reply) (d : CircuitIx) : (s.answer r).circuit d = s.circuit d := rfl
@[simp] theorem State.answer_plan (r : Reply) (q : PlanIx) : (s.answer r).plan q = s.plan q := rfl
@[simp] theorem State.answer_entry (r : Reply) (i : EntryIx) : (s.answer r).entry i = s.entry i := rfl

/-! ## accept -/

@[simp] theorem State.accept_now (p : Payload) : (s.accept p).now = s.now := rfl
@[simp] theorem State.accept_draws (p : Payload) : (s.accept p).draws = s.draws := rfl
@[simp] theorem State.accept_resetHeld (p : Payload) : (s.accept p).resetHeld = s.resetHeld := rfl
@[simp] theorem State.accept_groups (p : Payload) : (s.accept p).groups = s.groups := rfl
@[simp] theorem State.accept_circuits (p : Payload) : (s.accept p).circuits = s.circuits := rfl
@[simp] theorem State.accept_output (p : Payload) : (s.accept p).output = s.output := rfl
@[simp] theorem State.accept_conflicts (p : Payload) : (s.accept p).conflicts = s.conflicts := rfl
@[simp] theorem State.accept_guard (p : Payload) : (s.accept p).guard = s.guard := rfl
@[simp] theorem State.accept_plans (p : Payload) : (s.accept p).plans = s.plans := rfl
@[simp] theorem State.accept_seq (p : Payload) : (s.accept p).seq = s.seq := rfl
@[simp] theorem State.accept_pre (p : Payload) : (s.accept p).pre = s.pre := rfl
@[simp] theorem State.accept_sched (p : Payload) : (s.accept p).sched = s.sched := rfl
@[simp] theorem State.accept_channel (p : Payload) : (s.accept p).channel = s.channel := rfl
@[simp] theorem State.accept_sup (p : Payload) : (s.accept p).sup = s.sup := rfl
@[simp] theorem State.accept_junction (p : Payload) : (s.accept p).junction = s.junction := rfl
@[simp] theorem State.accept_pending (p : Payload) : (s.accept p).pending = s.pending := rfl
@[simp] theorem State.accept_group (p : Payload) (h : GroupIx) : (s.accept p).group h = s.group h := rfl
@[simp] theorem State.accept_circuit (p : Payload) (d : CircuitIx) : (s.accept p).circuit d = s.circuit d := rfl
@[simp] theorem State.accept_plan (p : Payload) (q : PlanIx) : (s.accept p).plan q = s.plan q := rfl
@[simp] theorem State.accept_entry (p : Payload) (i : EntryIx) : (s.accept p).entry i = s.entry i := rfl

/-! ## refuse -/

@[simp] theorem State.refuse_now (st : Status) : (s.refuse st).now = s.now := rfl
@[simp] theorem State.refuse_draws (st : Status) : (s.refuse st).draws = s.draws := rfl
@[simp] theorem State.refuse_resetHeld (st : Status) : (s.refuse st).resetHeld = s.resetHeld := rfl
@[simp] theorem State.refuse_groups (st : Status) : (s.refuse st).groups = s.groups := rfl
@[simp] theorem State.refuse_circuits (st : Status) : (s.refuse st).circuits = s.circuits := rfl
@[simp] theorem State.refuse_output (st : Status) : (s.refuse st).output = s.output := rfl
@[simp] theorem State.refuse_conflicts (st : Status) : (s.refuse st).conflicts = s.conflicts := rfl
@[simp] theorem State.refuse_guard (st : Status) : (s.refuse st).guard = s.guard := rfl
@[simp] theorem State.refuse_plans (st : Status) : (s.refuse st).plans = s.plans := rfl
@[simp] theorem State.refuse_seq (st : Status) : (s.refuse st).seq = s.seq := rfl
@[simp] theorem State.refuse_pre (st : Status) : (s.refuse st).pre = s.pre := rfl
@[simp] theorem State.refuse_sched (st : Status) : (s.refuse st).sched = s.sched := rfl
@[simp] theorem State.refuse_channel (st : Status) : (s.refuse st).channel = s.channel := rfl
@[simp] theorem State.refuse_sup (st : Status) : (s.refuse st).sup = s.sup := rfl
@[simp] theorem State.refuse_junction (st : Status) : (s.refuse st).junction = s.junction := rfl
@[simp] theorem State.refuse_pending (st : Status) : (s.refuse st).pending = s.pending := rfl
@[simp] theorem State.refuse_group (st : Status) (h : GroupIx) : (s.refuse st).group h = s.group h := rfl
@[simp] theorem State.refuse_circuit (st : Status) (d : CircuitIx) : (s.refuse st).circuit d = s.circuit d := rfl
@[simp] theorem State.refuse_plan (st : Status) (q : PlanIx) : (s.refuse st).plan q = s.plan q := rfl
@[simp] theorem State.refuse_entry (st : Status) (i : EntryIx) : (s.refuse st).entry i = s.entry i := rfl

/-! ## setLatch -/

@[simp] theorem State.setLatch_now (b : Bool) : (s.setLatch b).now = s.now := rfl
@[simp] theorem State.setLatch_draws (b : Bool) : (s.setLatch b).draws = s.draws := rfl
@[simp] theorem State.setLatch_resetHeld (b : Bool) : (s.setLatch b).resetHeld = s.resetHeld := rfl
@[simp] theorem State.setLatch_link (b : Bool) : (s.setLatch b).link = s.link := rfl
@[simp] theorem State.setLatch_groups (b : Bool) : (s.setLatch b).groups = s.groups := rfl
@[simp] theorem State.setLatch_circuits (b : Bool) : (s.setLatch b).circuits = s.circuits := rfl
@[simp] theorem State.setLatch_output (b : Bool) : (s.setLatch b).output = s.output := rfl
@[simp] theorem State.setLatch_conflicts (b : Bool) : (s.setLatch b).conflicts = s.conflicts := rfl
@[simp] theorem State.setLatch_guard (b : Bool) : (s.setLatch b).guard = s.guard := rfl
@[simp] theorem State.setLatch_plans (b : Bool) : (s.setLatch b).plans = s.plans := rfl
@[simp] theorem State.setLatch_pre (b : Bool) : (s.setLatch b).pre = s.pre := rfl
@[simp] theorem State.setLatch_sched (b : Bool) : (s.setLatch b).sched = s.sched := rfl
@[simp] theorem State.setLatch_channel (b : Bool) : (s.setLatch b).channel = s.channel := rfl
@[simp] theorem State.setLatch_sup (b : Bool) : (s.setLatch b).sup = s.sup := rfl
@[simp] theorem State.setLatch_junction (b : Bool) : (s.setLatch b).junction = s.junction := rfl
@[simp] theorem State.setLatch_pending (b : Bool) : (s.setLatch b).pending = s.pending := rfl
@[simp] theorem State.setLatch_group (b : Bool) (h : GroupIx) : (s.setLatch b).group h = s.group h := rfl
@[simp] theorem State.setLatch_circuit (b : Bool) (d : CircuitIx) : (s.setLatch b).circuit d = s.circuit d := rfl
@[simp] theorem State.setLatch_plan (b : Bool) (q : PlanIx) : (s.setLatch b).plan q = s.plan q := rfl
@[simp] theorem State.setLatch_entry (b : Bool) (i : EntryIx) : (s.setLatch b).entry i = s.entry i := rfl

/-! ## ripen -/

@[simp] theorem State.ripen_now (c : CircuitIx) : (s.ripen c).now = s.now := rfl
@[simp] theorem State.ripen_draws (c : CircuitIx) : (s.ripen c).draws = s.draws := rfl
@[simp] theorem State.ripen_resetHeld (c : CircuitIx) : (s.ripen c).resetHeld = s.resetHeld := rfl
@[simp] theorem State.ripen_link (c : CircuitIx) : (s.ripen c).link = s.link := rfl
@[simp] theorem State.ripen_groups (c : CircuitIx) : (s.ripen c).groups = s.groups := rfl
@[simp] theorem State.ripen_output (c : CircuitIx) : (s.ripen c).output = s.output := rfl
@[simp] theorem State.ripen_conflicts (c : CircuitIx) : (s.ripen c).conflicts = s.conflicts := rfl
@[simp] theorem State.ripen_guard (c : CircuitIx) : (s.ripen c).guard = s.guard := rfl
@[simp] theorem State.ripen_plans (c : CircuitIx) : (s.ripen c).plans = s.plans := rfl
@[simp] theorem State.ripen_seq (c : CircuitIx) : (s.ripen c).seq = s.seq := rfl
@[simp] theorem State.ripen_pre (c : CircuitIx) : (s.ripen c).pre = s.pre := rfl
@[simp] theorem State.ripen_sched (c : CircuitIx) : (s.ripen c).sched = s.sched := rfl
@[simp] theorem State.ripen_channel (c : CircuitIx) : (s.ripen c).channel = s.channel := rfl
@[simp] theorem State.ripen_sup (c : CircuitIx) : (s.ripen c).sup = s.sup := rfl
@[simp] theorem State.ripen_junction (c : CircuitIx) : (s.ripen c).junction = s.junction := rfl
@[simp] theorem State.ripen_pending (c : CircuitIx) : (s.ripen c).pending = s.pending := rfl
@[simp] theorem State.ripen_group (c : CircuitIx) (h : GroupIx) : (s.ripen c).group h = s.group h := rfl
@[simp] theorem State.ripen_plan (c : CircuitIx) (q : PlanIx) : (s.ripen c).plan q = s.plan q := rfl
@[simp] theorem State.ripen_entry (c : CircuitIx) (i : EntryIx) : (s.ripen c).entry i = s.entry i := rfl

/-! ## receive -/

@[simp] theorem State.receive_draws : s.receive.draws = s.draws := rfl
@[simp] theorem State.receive_now : s.receive.now = s.now := rfl
@[simp] theorem State.receive_resetHeld : s.receive.resetHeld = s.resetHeld := rfl
@[simp] theorem State.receive_groups : s.receive.groups = s.groups := rfl
@[simp] theorem State.receive_circuits : s.receive.circuits = s.circuits := rfl
@[simp] theorem State.receive_output : s.receive.output = s.output := rfl
@[simp] theorem State.receive_conflicts : s.receive.conflicts = s.conflicts := rfl
@[simp] theorem State.receive_guard : s.receive.guard = s.guard := rfl
@[simp] theorem State.receive_plans : s.receive.plans = s.plans := rfl
@[simp] theorem State.receive_seq : s.receive.seq = s.seq := rfl
@[simp] theorem State.receive_pre : s.receive.pre = s.pre := rfl
@[simp] theorem State.receive_sched : s.receive.sched = s.sched := rfl
@[simp] theorem State.receive_channel : s.receive.channel = s.channel := rfl
@[simp] theorem State.receive_sup : s.receive.sup = s.sup := rfl
@[simp] theorem State.receive_junction : s.receive.junction = s.junction := rfl
@[simp] theorem State.receive_pending : s.receive.pending = s.pending := rfl
@[simp] theorem State.receive_group (h : GroupIx) : s.receive.group h = s.group h := rfl
@[simp] theorem State.receive_circuit (d : CircuitIx) : s.receive.circuit d = s.circuit d := rfl
@[simp] theorem State.receive_plan (q : PlanIx) : s.receive.plan q = s.plan q := rfl
@[simp] theorem State.receive_entry (i : EntryIx) : s.receive.entry i = s.entry i := rfl
@[simp] theorem State.receive_link : s.receive.link = { s.link with transaction := .receiving } := rfl

/-! ## drawn -/

@[simp] theorem State.drawn_now : (s.drawn).now = s.now := rfl
@[simp] theorem State.drawn_draws : (s.drawn).draws = s.draws + 1 := rfl
@[simp] theorem State.drawn_resetHeld : (s.drawn).resetHeld = s.resetHeld := rfl
@[simp] theorem State.drawn_link : (s.drawn).link = s.link := rfl
@[simp] theorem State.drawn_groups : (s.drawn).groups = s.groups := rfl
@[simp] theorem State.drawn_circuits : (s.drawn).circuits = s.circuits := rfl
@[simp] theorem State.drawn_output : (s.drawn).output = s.output := rfl
@[simp] theorem State.drawn_conflicts : (s.drawn).conflicts = s.conflicts := rfl
@[simp] theorem State.drawn_guard : (s.drawn).guard = s.guard := rfl
@[simp] theorem State.drawn_plans : (s.drawn).plans = s.plans := rfl
@[simp] theorem State.drawn_seq : (s.drawn).seq = s.seq := rfl
@[simp] theorem State.drawn_pre : (s.drawn).pre = s.pre := rfl
@[simp] theorem State.drawn_sched : (s.drawn).sched = s.sched := rfl
@[simp] theorem State.drawn_channel : (s.drawn).channel = s.channel := rfl
@[simp] theorem State.drawn_sup : (s.drawn).sup = s.sup := rfl
@[simp] theorem State.drawn_junction : (s.drawn).junction = s.junction := rfl
@[simp] theorem State.drawn_pending : (s.drawn).pending = s.pending := rfl
@[simp] theorem State.drawn_group (h : GroupIx) : (s.drawn).group h = s.group h := rfl
@[simp] theorem State.drawn_circuit (d : CircuitIx) : (s.drawn).circuit d = s.circuit d := rfl
@[simp] theorem State.drawn_plan (q : PlanIx) : (s.drawn).plan q = s.plan q := rfl
@[simp] theorem State.drawn_entry (i : EntryIx) : (s.drawn).entry i = s.entry i := rfl

/-! ## pass -/

@[simp] theorem State.pass_now : (s.pass).now = s.now + 1 := rfl
@[simp] theorem State.pass_draws : (s.pass).draws = s.draws := rfl
@[simp] theorem State.pass_resetHeld : (s.pass).resetHeld = s.resetHeld := rfl
@[simp] theorem State.pass_link : (s.pass).link = s.link := rfl
@[simp] theorem State.pass_groups : (s.pass).groups = s.groups := rfl
@[simp] theorem State.pass_circuits : (s.pass).circuits = s.circuits := rfl
@[simp] theorem State.pass_output : (s.pass).output = s.output := rfl
@[simp] theorem State.pass_conflicts : (s.pass).conflicts = s.conflicts := rfl
@[simp] theorem State.pass_guard : (s.pass).guard = s.guard := rfl
@[simp] theorem State.pass_plans : (s.pass).plans = s.plans := rfl
@[simp] theorem State.pass_seq : (s.pass).seq = s.seq := rfl
@[simp] theorem State.pass_pre : (s.pass).pre = s.pre := rfl
@[simp] theorem State.pass_sched : (s.pass).sched = s.sched := rfl
@[simp] theorem State.pass_channel : (s.pass).channel = s.channel := rfl
@[simp] theorem State.pass_sup : (s.pass).sup = s.sup := rfl
@[simp] theorem State.pass_junction : (s.pass).junction = s.junction := rfl
@[simp] theorem State.pass_pending : (s.pass).pending = s.pending := rfl
@[simp] theorem State.pass_group (h : GroupIx) : (s.pass).group h = s.group h := rfl
@[simp] theorem State.pass_circuit (d : CircuitIx) : (s.pass).circuit d = s.circuit d := rfl
@[simp] theorem State.pass_plan (q : PlanIx) : (s.pass).plan q = s.plan q := rfl
@[simp] theorem State.pass_entry (i : EntryIx) : (s.pass).entry i = s.entry i := rfl

/-! ## A record read after a record update -/

theorem State.setGroup_group (g h : GroupIx) (r : Group) :
    (s.setGroup g r).group h = if h = g then r else s.group h := Table.get_set ..

@[simp] theorem State.setGroup_group_self (g : GroupIx) (r : Group) : (s.setGroup g r).group g = r := by
  simp [State.setGroup_group]

theorem State.setCircuit_circuit (c d : CircuitIx) (r : Circuit) :
    (s.setCircuit c r).circuit d = if d = c then r else s.circuit d := Table.get_set ..

theorem State.setLamp_circuit (c d : CircuitIx) (l : LampPart) :
    (s.setLamp c l).circuit d = if d = c then { s.circuit c with lamp := l } else s.circuit d :=
  Table.get_set ..

theorem State.setCable_circuit (c d : CircuitIx) (k : CablePart) :
    (s.setCable c k).circuit d = if d = c then { s.circuit c with cable := k } else s.circuit d :=
  Table.get_set ..

theorem State.setSchedule_circuit (c d : CircuitIx) (p : ProvingSchedule) :
    (s.setSchedule c p).circuit d = if d = c then { s.circuit c with schedule := p } else s.circuit d :=
  Table.get_set ..

theorem State.setPlan_plan (p q : PlanIx) (r : Plan) :
    (s.setPlan p r).plan q = if q = p then r else s.plan q := Table.get_set ..

theorem State.setEntry_entry (e i : EntryIx) (r : Entry) :
    (s.setEntry e r).entry i = if i = e then r else s.entry i := Table.get_set ..

@[simp] theorem State.setEntry_pre (e : EntryIx) (r : Entry) :
    (s.setEntry e r).pre = { s.pre with entries := s.pre.entries.set e r } := rfl

@[simp] theorem State.setLine_pre (n : LineIx) (r : PrqLine) :
    (s.setLine n r).pre = { s.pre with lines := s.pre.lines.set n r } := rfl

@[simp] theorem State.setLine_entry (n : LineIx) (r : PrqLine) (e : EntryIx) :
    (s.setLine n r).entry e = s.entry e := rfl

/-! ## Whole states -/

theorem State.ext_fields {s t : State} (h₁ : t.now = s.now) (h₂ : t.draws = s.draws)
    (h₃ : t.resetHeld = s.resetHeld) (h₄ : t.link = s.link) (h₅ : t.groups = s.groups)
    (h₆ : t.circuits = s.circuits) (h₇ : t.output = s.output) (h₈ : t.conflicts = s.conflicts)
    (h₉ : t.guard = s.guard) (h₁₀ : t.plans = s.plans) (h₁₁ : t.seq = s.seq) (h₁₂ : t.pre = s.pre)
    (h₁₃ : t.sched = s.sched) (h₁₄ : t.channel = s.channel) (h₁₅ : t.sup = s.sup)
    (h₁₆ : t.junction = s.junction) (h₁₇ : t.pending = s.pending) : t = s := by
  cases s; cases t; simp_all

/-- A live step while RESET_N is inactive. -/
theorem State.live_of_not_held {s : State} (h : s.resetHeld = false) (f : State → State) :
    s.live f = f s := by simp [State.live, h]

/-- While RESET_N is held a live step changes nothing (R1). -/
theorem State.live_of_held {s : State} (h : s.resetHeld = true) (f : State → State) :
    s.live f = s := by simp [State.live, h]

/-- A request is taken while no other of its transaction has been (R175). -/
theorem State.taken_of_idle {s : State} (h : s.resetHeld = false) (i : s.link.transaction = .idle)
    (f : State → State) : s.taken f = f s := by simp [State.taken, h, i]

/-- After a request has been taken, or a reset has discarded the transaction, a request changes nothing until
the chip select is released (R175). -/
theorem State.taken_of_busy {s : State} (h : s.link.transaction ≠ .idle) (f : State → State) :
    s.taken f = s := by simp [State.taken, State.passOver, h]

/-- While RESET_N is held no request is taken, and one clocked in is passed over (R1, R175). -/
theorem State.taken_of_held {s : State} (h : s.resetHeld = true) (f : State → State) :
    s.taken f = s.passOver := by simp [State.taken, h]

/-- A request passed over moves nothing but the transaction, which is then not idle (R175). -/
theorem State.passOver_spec (s : State) :
    s.passOver = { s with link := { s.link with transaction := s.passOver.link.transaction } }
      ∧ s.passOver.link.transaction ≠ .idle := by
  unfold State.passOver
  split
  · exact ⟨rfl, nofun⟩
  · exact ⟨rfl, ‹_›⟩

end Machine

end Sys2Proof
end

