-- ==== Sys2Proof/Laws/Frames.lean ====
section
/-! SUPPORT. Laws of frames: what each shared operation of the groups, the sequencer, the preemption unit
and the junction controller leaves alone, said once with `State.still`. -/

namespace Sys2Proof

theorem Table.map_set_same {n : Nat} {α β : Type} (f : α → β) (t : Table n α) (i : Fin n) (a : α)
    (h : f a = f (t.get i)) : (t.set i a).map f = t.map f := by
  apply Table.ext_get
  intro j
  rw [Table.get_map, Table.get_map, Table.get_set]
  split
  · rename_i e; rw [e, h]
  · rfl

theorem Table.map_map {n : Nat} {α β γ : Type} (f : β → γ) (g : α → β) (t : Table n α) :
    (t.map g).map f = t.map fun a => f (g a) := by
  apply Table.ext_get; intro i; simp

theorem Table.map_congr {n : Nat} {α β : Type} (f g : α → β) (t : Table n α)
    (h : ∀ i, f (t.get i) = g (t.get i)) : t.map f = t.map g := by
  apply Table.ext_get; intro i; simp [h]

/-- A fold that keeps a projection of the state at each element keeps it over the list. -/
theorem foldl_keeps {σ α β : Type} (p : σ → β) (f : σ → α → σ) (h : ∀ s a, p (f s a) = p s) (l : List α)
    (s : σ) : p (l.foldl f s) = p s := by
  induction l generalizing s with
  | nil => rfl
  | cons a l ih => rw [List.foldl_cons, ih, h]

namespace Machine

variable (s : State)

/-! ## Writes of one record -/

@[simp] theorem Plan.still_toPhase (ph : PlanPhase) (p : Plan) : (p.toPhase ph).still = p.still := by
  cases p <;> rfl

@[simp] theorem Plan.still_unless (ph : PlanPhase) (p : Plan) : (p.unless ph).still = p.still := by
  unfold Plan.unless; split <;> simp

theorem setGroup_still {g : GroupIx} {r : Group} (h : r.config = (s.group g).config) :
    (s.setGroup g r).still = s.still := by
  have : Group.still r = Group.still (s.groups.get g) := by simp [Group.still, h, State.group]
  simp [State.still, State.setGroup, Table.map_set_same _ _ _ _ this]

theorem setCircuit_still {c : CircuitIx} {r : Circuit} (h : r.still = (s.circuit c).still) :
    (s.setCircuit c r).still = s.still := by
  simp [State.still, State.setCircuit, Table.map_set_same _ _ _ _ (show _ = Circuit.still (s.circuits.get c) from h)]

theorem setPlan_still {p : PlanIx} {r : Plan} (h : r.still = (s.plan p).still) :
    (s.setPlan p r).still = s.still := by
  simp [State.still, State.setPlan, Table.map_set_same _ _ _ _ (show _ = Plan.still (s.plans.get p) from h)]

theorem setEntry_still {e : EntryIx} {r : Entry} (h : r.config = (s.entry e).config) :
    (s.setEntry e r).still = s.still := by
  have : Entry.still r = Entry.still (s.pre.entries.get e) := by simp [Entry.still, h, State.entry]
  simp [State.still, State.setEntry, State.setPre, Table.map_set_same _ _ _ _ this]

@[simp] theorem setSchedule_still (c : CircuitIx) (p : ProvingSchedule) :
    (s.setSchedule c p).still = s.still := setCircuit_still s rfl

@[simp] theorem setSeq_still (q : Sequencer) : (s.setSeq q).still = s.still := rfl
@[simp] theorem setGuard_still (q : List GuardRequest) : (s.setGuard q).still = s.still := rfl
@[simp] theorem setOwed_still (b : Bool) : (s.setOwed b).still = s.still := rfl
@[simp] theorem raise_still (k : Attention) : (s.raise k).still = s.still := rfl
@[simp] theorem drawn_still : s.drawn.still = s.still := rfl

theorem setPre_still {p : Preemption}
    (h : p.entries.map Entry.still = s.pre.entries.map Entry.still) (hl : p.length = s.pre.length)
    (hn : p.lines = s.pre.lines) : (s.setPre p).still = s.still := by
  simp [State.still, State.setPre, h, hl, hn]

theorem setChannel_still {ch : Channel} (h : ch.still = s.channel.still) :
    (s.setChannel ch).still = s.still := by
  simp [State.still, State.setChannel, h]

theorem setOutput_still {o : Output} (h : o.dim = s.output.dim) : (s.setOutput o).still = s.still := by
  simp [State.still, State.setOutput, h]

theorem setSup_still {u : Supervision} (h : u.settlingEnd = s.sup.settlingEnd) :
    (s.setSup u).still = s.still := by
  simp [State.still, State.setSup, h]

theorem setJunction_still {j : Junction} (h : j.mode = s.junction.mode)
    (h₁ : j.startFlash = s.junction.startFlash) (h₂ : j.startRed = s.junction.startRed)
    (h₃ : j.allRed = s.junction.allRed) (h₄ : j.resetCause = s.junction.resetCause) :
    (s.setJunction j).still = s.still := by
  simp [State.still, State.setJunction, h, h₁, h₂, h₃, h₄]

/-! ## Plans -/

@[simp] theorem returnReady_still (p : PlanIx) : (s.returnReady p).still = s.still :=
  setPlan_still s (by simp)

theorem plans_still {t : Table 16 Plan} (h : t.map Plan.still = s.plans.map Plan.still) :
    State.still { s with plans := t } = s.still := by simp [State.still, h]

@[simp] theorem makeSelected_still (p : PlanIx) : (s.makeSelected p).still = s.still := by
  unfold State.makeSelected
  split
  · refine plans_still s ?_
    rw [Table.map_set_same]
    · rw [Table.map_map]; exact Table.map_congr _ _ _ fun i => by simp
    · simp [State.plan]
  · rfl

@[simp] theorem makeActive_still (p : PlanIx) : (s.makeActive p).still = s.still := by
  have h : ((s.plans.map (Plan.unless .active)).set p ((s.plan p).toPhase .active)).map Plan.still
      = s.plans.map Plan.still := by
    rw [Table.map_set_same]
    · rw [Table.map_map]; exact Table.map_congr _ _ _ fun i => by simp
    · simp [State.plan]
  unfold State.makeActive
  split
  · dsimp only
    split
    · rw [raise_still]; exact plans_still s h
    · exact plans_still s h
  · rfl

@[simp] theorem makeInvoked_still (p : PlanIx) : (s.makeInvoked p).still = s.still := by
  unfold State.makeInvoked
  split
  · exact setPlan_still s (by simp)
  · rfl

/-! ## The output driver -/

theorem Channel.still_beginLong (now : Instant) (ch : Channel) :
    (ch.beginLong now).still = ch.still := rfl

theorem Channel.still_endWindow (now : Instant) (ch : Channel) :
    (ch.endWindow now).still = ch.still := by
  unfold Channel.endWindow; split <;> rfl

@[simp] theorem setPresented_still (c : CircuitIx) (b : Bool) : (s.setPresented c b).still = s.still :=
  setCircuit_still s rfl

@[simp] theorem voidWindow_still : s.voidWindow.still = s.still := by
  unfold State.voidWindow
  split
  · rfl
  · have h := setChannel_still s (Channel.still_endWindow s.now s.channel)
    dsimp only
    split
    · split
      · rw [setPresented_still, h]
      · exact h
    · exact h

@[simp] theorem switchNow_still (c : CircuitIx) (on : Bool) : (s.switchNow c on).still = s.still := by
  unfold State.switchNow
  dsimp only
  split
  · split
    · rw [voidWindow_still]; exact setCircuit_still s rfl
    · exact setCircuit_still s rfl
  · exact setCircuit_still s rfl

@[simp] theorem orderDrive_still (c : CircuitIx) (on : Bool) : (s.orderDrive c on).still = s.still := by
  unfold State.orderDrive
  split
  · rfl
  · split
    · rfl
    · simp

@[simp] theorem orderDrives_still (k : GroupConfig) (a : Aspect) :
    (s.orderDrives k a).still = s.still :=
  foldl_keeps State.still _ (fun t c => orderDrive_still t c _) _ s

@[simp] theorem safeOn_still : s.safeOn.still = s.still := setOutput_still s rfl

@[simp] theorem safeOff_still : s.safeOff.still = s.still := by
  have fold (t : State) :
      ((List.finRange 48).foldl (fun t c => t.orderDrive c false) t).still = t.still :=
    foldl_keeps State.still _ (fun t c => orderDrive_still t c false) _ t
  have last (t : State) : State.still { t with circuits := t.circuits.map Circuit.unwatched } = t.still := by
    have h : (t.circuits.map Circuit.unwatched).map Circuit.still = t.circuits.map Circuit.still := by
      rw [Table.map_map]; exact Table.map_congr _ _ _ fun i => rfl
    simp only [State.still, h]
  unfold State.safeOff
  generalize List.finRange 48 = l at fold ⊢
  dsimp only
  rw [setSup_still, last]
  · split
    · rw [voidWindow_still, fold]; exact setOutput_still s rfl
    · rw [fold]; exact setOutput_still s rfl
  · rfl

@[simp] theorem renewOffer_still : s.renewOffer.still = s.still := setSup_still s rfl

/-! ## The guard and the orders -/

@[simp] theorem gain_still (g : GroupIx) (tg : Instant) : (s.gain g tg).still = s.still := by
  unfold State.gain
  dsimp only
  split
  · exact setGroup_still s rfl
  · rfl

@[simp] theorem guardWalk_still (older rest : List GuardRequest) :
    (guardWalk older rest s).still = s.still := by
  induction rest generalizing older s with
  | nil => rfl
  | cons r rest ih =>
    unfold guardWalk
    split
    · rw [ih, gain_still]
    · rw [ih]

@[simp] theorem guardJudge_still : s.guardJudge.still = s.still := guardWalk_still s _ _

@[simp] theorem requestGreen_still (g : GroupIx) (t : Instant) : (s.requestGreen g t).still = s.still := by
  unfold State.requestGreen
  split
  · rfl
  · split
    · rfl
    · rw [guardJudge_still, setGuard_still]

@[simp] theorem setAspect_still (g : GroupIx) (a : Aspect) : (s.setAspect g a).still = s.still := by
  unfold State.setAspect
  dsimp only
  rw [guardJudge_still]
  have h : ((s.setOutput { s.output with flash := s.flashAfter g a }).setGroup g
      ((s.group g).entering a s.now)).still = s.still := by
    rw [setGroup_still]
    · exact setOutput_still s rfl
    · rfl
  repeat' split
  all_goals simp [h]

@[simp] theorem clearAwaited_still (g : GroupIx) :
    (s.setGroup g { s.group g with awaited := none }).still = s.still := setGroup_still s rfl

@[simp] theorem dropAwaited_still (g : GroupIx) : (s.dropAwaited g).still = s.still := by
  simp [State.dropAwaited]

@[simp] theorem cancel_still (g : GroupIx) : (s.cancel g).still = s.still := by
  unfold State.cancel; split <;> simp

@[simp] theorem lose_still (g : GroupIx) : (s.lose g).still = s.still := by
  unfold State.lose; split <;> simp

@[simp] theorem showRed_still (g : GroupIx) : (s.showRed g).still = s.still := by
  unfold State.showRed; split <;> simp

@[simp] theorem showFlash_still (g : GroupIx) : (s.showFlash g).still = s.still := by
  unfold State.showFlash
  split
  · rfl
  · dsimp only
    repeat' split
    all_goals simp

@[simp] theorem showDark_still (g : GroupIx) : (s.showDark g).still = s.still := by
  unfold State.showDark
  split
  · rfl
  · dsimp only
    repeat' split
    all_goals simp

theorem each_still (order : State → GroupIx → State) (h : ∀ t g, (order t g).still = t.still)
    (gs : List GroupIx) : (s.each order gs).still = s.still := foldl_keeps State.still order h gs s

@[simp] theorem each_lose_still (gs : List GroupIx) : (s.each State.lose gs).still = s.still :=
  each_still s _ lose_still gs
@[simp] theorem each_cancel_still (gs : List GroupIx) : (s.each State.cancel gs).still = s.still :=
  each_still s _ cancel_still gs
@[simp] theorem each_showRed_still (gs : List GroupIx) : (s.each State.showRed gs).still = s.still :=
  each_still s _ showRed_still gs
@[simp] theorem each_showFlash_still (gs : List GroupIx) :
    (s.each State.showFlash gs).still = s.still := each_still s _ showFlash_still gs
@[simp] theorem each_showDark_still (gs : List GroupIx) :
    (s.each State.showDark gs).still = s.still := each_still s _ showDark_still gs

@[simp] theorem allOff_still : s.allOff.still = s.still := by
  unfold State.allOff
  dsimp only
  rw [each_showDark_still]
  have h (t : State) : State.still { t with groups := t.groups.map (Group.offAt s.now) } = t.still := by
    have : (t.groups.map (Group.offAt s.now)).map Group.still = t.groups.map Group.still := by
      rw [Table.map_map]; exact Table.map_congr _ _ _ fun i => rfl
    simp only [State.still, this]
  rw [h, setGuard_still, safeOff_still]

/-! ## The sequencer -/

@[simp] theorem setChain_still (l : List Context) :
    (s.setPre { s.pre with chain := l }).still = s.still := rfl

@[simp] theorem setWaiting_still (l : List Waiting) :
    (s.setPre { s.pre with waiting := l }).still = s.still := rfl

@[simp] theorem setChainWaiting_still (l : List Context) (m : List Waiting) :
    (s.setPre { s.pre with chain := l, waiting := m }).still = s.still := rfl

@[simp] theorem beginStage_still : s.beginStage.still = s.still := by
  unfold State.beginStage
  repeat' split
  all_goals rfl

@[simp] theorem requests_still (gs : List GroupIx) (t : Instant) :
    (gs.foldl (fun u g => u.requestGreen g t) s).still = s.still :=
  foldl_keeps State.still _ (fun u g => requestGreen_still u g t) gs s

@[simp] theorem openInterstage_still (i : Nat) (losing gaining : List GroupIx) (d : Bool)
    (r l : Option Nat) : (s.openInterstage i losing gaining d r l).still = s.still := by
  unfold State.openInterstage
  dsimp only
  repeat' split
  all_goals simp

@[simp] theorem resync_still : s.resync.still = s.still := by
  unfold State.resync; split <;> rfl

@[simp] theorem switchPlan_still (p : PlanIx) : (s.switchPlan p).still = s.still := by
  unfold State.switchPlan
  dsimp only
  rw [resync_still, raise_still, setChain_still, setSeq_still, makeActive_still]

@[simp] theorem atBoundary_still : s.atBoundary.still = s.still := by
  unfold State.atBoundary
  repeat' split
  all_goals simp

@[simp] theorem transition_still (l : List GroupIx) (i : Nat) (m : List GroupIx) :
    (s.transition l i m).still = s.still := openInterstage_still ..

@[simp] theorem endBaseStage_still (b : PlanBody) : (s.endBaseStage b).still = s.still := by
  unfold State.endBaseStage
  dsimp only
  repeat' split
  all_goals simp

@[simp] theorem endStage_still : s.endStage.still = s.still := by
  unfold State.endStage
  repeat' split
  all_goals simp

@[simp] theorem saveRunning_still : s.saveRunning.still = s.still := by
  unfold State.saveRunning; split <;> simp

@[simp] theorem saveTop_still : s.saveTop.still = s.still := by
  unfold State.saveTop; split <;> simp

@[simp] theorem truncate_still : s.truncate.still = s.still := by
  unfold State.truncate
  repeat' split
  all_goals simp

@[simp] theorem endInterstage_still : s.endInterstage.still = s.still := by
  unfold State.endInterstage
  dsimp only
  split <;> simp

@[simp] theorem judgeInterstage_still : s.judgeInterstage.still = s.still := by
  unfold State.judgeInterstage; split <;> simp

@[simp] theorem resumeTop_still : s.resumeTop.still = s.still := by
  unfold State.resumeTop
  repeat' split
  all_goals simp

@[simp] theorem startSequence_still : s.startSequence.still = s.still := by
  unfold State.startSequence
  dsimp only
  repeat' split
  all_goals simp

/-! ## The preemption unit -/

@[simp] theorem setAsserted_still (e : EntryIx) (b : Bool) : (s.setAsserted e b).still = s.still :=
  setEntry_still s rfl

@[simp] theorem pushContext_still (e : EntryIx) (c : EntryConfig) : (s.pushContext e c).still = s.still := by
  unfold State.pushContext; simp

@[simp] theorem beginTruncation_still : s.beginTruncation.still = s.still := by
  unfold State.beginTruncation; split <;> simp

@[simp] theorem acceptEntry_still (e : EntryIx) (c : EntryConfig) : (s.acceptEntry e c).still = s.still := by
  simp [State.acceptEntry]

@[simp] theorem acceptWaiting_still (e : EntryIx) (c : EntryConfig) :
    (s.acceptWaiting e c).still = s.still := by
  simp [State.acceptWaiting]

@[simp] theorem refuseEntry_still (e : EntryIx) (x : PCode) : (s.refuseEntry e x).still = s.still := rfl

@[simp] theorem joinPending_still (e : EntryIx) : (s.joinPending e).still = s.still := rfl

@[simp] theorem judgeEntry_still (e : EntryIx) : (s.judgeEntry e).still = s.still := by
  unfold State.judgeEntry
  repeat' split
  all_goals simp

@[simp] theorem assertEntry_still (e : EntryIx) : (s.assertEntry e).still = s.still := by
  unfold State.assertEntry
  dsimp only
  split <;> simp

@[simp] theorem releaseEntry_still (e : EntryIx) : (s.releaseEntry e).still = s.still := by
  unfold State.releaseEntry
  dsimp only
  rw [setWaiting_still]
  exact setEntry_still s rfl

@[simp] theorem judgeAsserted_still : s.judgeAsserted.still = s.still :=
  foldl_keeps State.still _ (fun t e => by split <;> simp) _ s

@[simp] theorem popTop_still : s.popTop.still = s.still := by
  unfold State.popTop; split <;> simp

theorem serveWaiting_still (l : List Waiting) : (serveWaiting l s).2.still = s.still := by
  induction l generalizing s with
  | nil => rfl
  | cons w l ih =>
    unfold serveWaiting
    repeat' split
    all_goals first | rfl | simp [ih]

theorem returnThrough_still (l : List Context) : (returnThrough l s).still = s.still := by
  induction l generalizing s with
  | nil => rfl
  | cons c l ih =>
    unfold returnThrough
    have h := serveWaiting_still s s.pre.waiting
    split
    · rename_i t e; rw [e] at h; exact h
    · rename_i t e
      rw [e] at h
      split
      · rw [ih, popTop_still]; exact h
      · rw [resumeTop_still]; exact h

@[simp] theorem endPreemption_still : s.endPreemption.still = s.still := by
  unfold State.endPreemption
  dsimp only
  rw [returnThrough_still, popTop_still]

@[simp] theorem reachMaxDwell_still : s.reachMaxDwell.still = s.still := by
  unfold State.reachMaxDwell
  dsimp only
  have h (e : EntryIx) : (s.setEntry e { s.entry e with stuck := true }).still = s.still :=
    setEntry_still s rfl
  repeat' split
  all_goals simp [h]

@[simp] theorem returnPlans_still (l : List Context) : (s.returnPlans l).still = s.still :=
  foldl_keeps State.still _ (fun t c => by split <;> simp) _ s

@[simp] theorem raiseEnd_still (l : List Context) : (s.raiseEnd l).still = s.still := by
  unfold State.raiseEnd; split <;> rfl

@[simp] theorem removePreemptions_still : s.removePreemptions.still = s.still := by
  unfold State.removePreemptions
  dsimp only
  repeat' split
  all_goals simp

@[simp] theorem emptyChain_still : s.emptyChain.still = s.still := by
  simp [State.emptyChain]

/-! ## The schedule's selection and the junction controller -/

@[simp] theorem dropPending_still : s.dropPending.still = s.still := by
  unfold State.dropPending; split <;> simp

@[simp] theorem selectRunning_still (p : PlanIx) : (s.selectRunning p).still = s.still := by
  unfold State.selectRunning
  dsimp only
  split <;> simp

@[simp] theorem makeCurrent_still (p : PlanIx) : (s.makeCurrent p).still = s.still := by
  unfold State.makeCurrent
  dsimp only
  split <;> simp

@[simp] theorem selectPlan_still (p : PlanIx) : (s.selectPlan p).still = s.still := by
  unfold State.selectPlan; split <;> simp

@[simp] theorem scheduleSelect_still (p : PlanIx) : (s.scheduleSelect p).still = s.still := by
  unfold State.scheduleSelect; split <;> simp

@[simp] theorem payOwed_still : s.payOwed.still = s.still := by
  unfold State.payOwed
  repeat' split
  all_goals simp

@[simp] theorem exitRunning_still : s.exitRunning.still = s.still := by
  unfold State.exitRunning
  dsimp only
  repeat' split
  all_goals simp

@[simp] theorem enterState_still (j : JunctionState) : (s.enterState j).still = s.still := by
  unfold State.enterState
  rw [raise_still]
  exact setJunction_still s rfl rfl rfl rfl rfl

@[simp] theorem leaveSupplied_still (j : JunctionState) : (s.leaveSupplied j).still = s.still := by
  simp [State.leaveSupplied]

@[simp] theorem enterFlash_still : s.enterFlash.still = s.still := by
  simp [State.enterFlash]

@[simp] theorem enterStartFlash_still : s.enterStartFlash.still = s.still := by
  simp [State.enterStartFlash]

@[simp] theorem enterRunning_still : s.enterRunning.still = s.still := by
  simp [State.enterRunning]

@[simp] theorem recordLockout_still (x : Cause) : (s.recordLockout x).still = s.still := by
  unfold State.recordLockout
  rw [raise_still]
  exact setJunction_still s rfl rfl rfl rfl rfl

@[simp] theorem furtherCause_still : s.furtherCause.still = s.still :=
  setJunction_still s rfl rfl rfl rfl rfl

@[simp] theorem handCause_still (x : Cause) : (s.handCause x).still = s.still := by
  unfold State.handCause
  repeat' split
  all_goals simp

@[simp] theorem handCauses_still (l : List Cause) : (s.handCauses l).still = s.still :=
  foldl_keeps State.still _ handCause_still l s

@[simp] theorem judgeReds_still (gs : List GroupIx) (c : Option CircuitIx) :
    (s.judgeReds gs c).still = s.still := by
  unfold State.judgeReds
  dsimp only
  split
  · rfl
  · rw [handCauses_still]; split <;> rfl

@[simp] theorem superviseReds_still (b : State) : (b.superviseReds s).still = s.still := by
  simp [State.superviseReds]

@[simp] theorem setClearance_still (x : FlashClearance) : (s.setClearance x).still = s.still :=
  setJunction_still s rfl rfl rfl rfl rfl

@[simp] theorem clearanceCheck_still : s.clearanceCheck.still = s.still := by
  unfold State.clearanceCheck
  split <;> simp

@[simp] theorem loseGreens_still : s.loseGreens.still = s.still := each_lose_still ..

@[simp] theorem beginClearance_still : s.beginClearance.still = s.still := by
  unfold State.beginClearance
  dsimp only
  rw [clearanceCheck_still]
  repeat' split
  all_goals simp

/-! ## Arbitration and the end of a step -/

@[simp] theorem startWindow_still (c : CircuitIx) (k : WindowKind) : (s.startWindow c k).still = s.still :=
  setChannel_still s rfl

@[simp] theorem startShort_still : s.startShort.still = s.still := setChannel_still s rfl

@[simp] theorem startCandidate_still (x : Candidate) : (s.startCandidate x).still = s.still := by
  cases x with
  | proving c => simp [State.startCandidate]
  | watch c => simp [State.startCandidate]
  | shortCal => simp [State.startCandidate]
  | round c => simp only [State.startCandidate, renewOffer_still, startWindow_still]; exact setSup_still s rfl

@[simp] theorem arbitrate_still : s.arbitrate.still = s.still := by
  unfold State.arbitrate
  repeat' split
  all_goals simp

/-- The end of a step keeps what is held. -/
@[simp] theorem settle_still (t : State) : (s.settle t).still = t.still := by
  simp [State.settle]

/-! ## What is read off `still` -/

theorem eq_of_still {β : Type} (f : State → β) (hf : ∀ x : State, f x.still = f x) {t u : State}
    (h : t.still = u.still) : f t = f u := by rw [← hf t, ← hf u, h]

theorem still_now {t u : State} (h : t.still = u.still) : t.now = u.now :=
  eq_of_still State.now (fun _ => rfl) h

theorem still_resetHeld {t u : State} (h : t.still = u.still) : t.resetHeld = u.resetHeld :=
  eq_of_still State.resetHeld (fun _ => rfl) h

theorem still_pending {t u : State} (h : t.still = u.still) : t.pending = u.pending :=
  eq_of_still State.pending (fun _ => rfl) h

theorem still_conflicts {t u : State} (h : t.still = u.still) : t.conflicts = u.conflicts :=
  eq_of_still State.conflicts (fun _ => rfl) h

theorem still_transaction {t u : State} (h : t.still = u.still) :
    t.link.transaction = u.link.transaction := eq_of_still (fun x => x.link.transaction) (fun _ => rfl) h

theorem still_reply {t u : State} (h : t.still = u.still) : t.reply = u.reply := by
  unfold State.reply; rw [still_transaction h]

theorem still_lock {t u : State} (h : t.still = u.still) : t.link.lock = u.link.lock :=
  eq_of_still (fun x => x.link.lock) (fun _ => rfl) h

theorem still_mask {t u : State} (h : t.still = u.still) : t.link.mask = u.link.mask :=
  eq_of_still (fun x => x.link.mask) (fun _ => rfl) h

theorem still_dim {t u : State} (h : t.still = u.still) : t.output.dim = u.output.dim :=
  eq_of_still (fun x => x.output.dim) (fun _ => rfl) h

theorem still_points {t u : State} (h : t.still = u.still) : t.sched.points = u.sched.points :=
  eq_of_still (fun x => x.sched.points) (fun _ => rfl) h

theorem still_config {t u : State} (h : t.still = u.still) (g : GroupIx) :
    (t.group g).config = (u.group g).config :=
  eq_of_still (fun x => (x.group g).config) (fun x => by simp [State.still, State.group, Group.still]) h

theorem still_lamp {t u : State} (h : t.still = u.still) (c : CircuitIx) :
    (t.circuit c).lamp = (u.circuit c).lamp :=
  eq_of_still (fun x => (x.circuit c).lamp) (fun x => by simp [State.still, State.circuit, Circuit.still]) h

theorem still_technology {t u : State} (h : t.still = u.still) (c : CircuitIx) :
    (t.circuit c).technology = (u.circuit c).technology :=
  eq_of_still (fun x => (x.circuit c).technology)
    (fun x => by simp [State.still, State.circuit, Circuit.still]) h

theorem still_plan {t u : State} (h : t.still = u.still) (p : PlanIx) :
    (t.plan p).still = (u.plan p).still :=
  eq_of_still (fun x => (x.plan p).still)
    (fun x => by simp only [State.still, State.plan, Table.get_map]; cases x.plans.get p <;> rfl) h

end Machine
end Sys2Proof
end

