-- ==== Sys2Proof/Laws/Outputs.lean ====
section
/-! SUPPORT. Laws of the output driver, the guard, the aspect sequences and the end of a step: for each shared
operation, once, what it can do. -/

namespace Sys2Proof.Machine

variable (s : State)

/-! ## The channel and the watch candidates -/

/-- A void changes the channel's running items and watch candidates, and nothing else. -/
theorem voidWindow_spec : s.voidWindow =
    { s with channel := s.voidWindow.channel, circuits := s.voidWindow.circuits } := by
  unfold State.voidWindow
  split
  · rfl
  · dsimp only
    split
    · split <;> rfl
    · rfl

theorem setPresented_circuit (c d : CircuitIx) (b : Bool) : (s.setPresented c b).circuit d =
    if d = c then { s.circuit c with cable := { (s.circuit c).cable with watchPresented := b } }
    else s.circuit d := Table.get_set ..

/-- A void moves no item of a circuit but its watch candidate. -/
theorem voidWindow_circuit (d : CircuitIx) : ∃ b, s.voidWindow.circuit d =
    { s.circuit d with cable := { (s.circuit d).cable with watchPresented := b } } := by
  have same : ∃ b, s.circuit d =
      { s.circuit d with cable := { (s.circuit d).cable with watchPresented := b } } := ⟨_, rfl⟩
  unfold State.voidWindow
  split
  · exact same
  · dsimp only
    split
    · split
      · rw [setPresented_circuit]
        split
        · rename_i e; subst e; exact ⟨_, rfl⟩
        · exact same
      · exact same
    · exact same

/-! ## The drives (R17) -/

/-- A switch changes the circuits and the channel, and nothing else. -/
theorem switchNow_spec (c : CircuitIx) (on : Bool) : s.switchNow c on =
    { s with channel := (s.switchNow c on).channel, circuits := (s.switchNow c on).circuits } := by
  unfold State.switchNow
  dsimp only
  split
  · split
    · rw [voidWindow_spec]; rfl
    · rfl
  · rfl

/-- A switch sets its circuit's drive, and moves no other item of a circuit but the proving schedule of its
own and a watch candidate. -/
theorem switchNow_circuit (c d : CircuitIx) (on : Bool) : ∃ b p, (s.switchNow c on).circuit d =
    { s.circuit d with
      drive := if d = c then { on := on, lastSwitch := s.now } else (s.circuit d).drive,
      schedule := if d = c then p else (s.circuit d).schedule,
      cable := { (s.circuit d).cable with watchPresented := b } } := by
  have own : ∀ t : State, t = s.setCircuit c { s.circuit c with
      drive := { on := on, lastSwitch := s.now },
      schedule := ProvingSchedule.afterSwitch (s.circuit c).technology s.now on,
      cable := { (s.circuit c).cable with
        watchPresented := (s.circuit c).cable.watchPresented && !on } } →
      ∀ b, ∃ b' p, { t.circuit d with cable := { (t.circuit d).cable with watchPresented := b } } =
        { s.circuit d with
          drive := if d = c then { on := on, lastSwitch := s.now } else (s.circuit d).drive,
          schedule := if d = c then p else (s.circuit d).schedule,
          cable := { (s.circuit d).cable with watchPresented := b' } } := by
    rintro t rfl b
    rw [State.setCircuit_circuit]
    split
    · rename_i e; subst e; exact ⟨b, _, rfl⟩
    · exact ⟨b, (s.circuit d).schedule, rfl⟩
  unfold State.switchNow
  dsimp only
  split
  · split
    · obtain ⟨b, h⟩ := voidWindow_circuit (s.setCircuit c { s.circuit c with
        drive := { on := on, lastSwitch := s.now },
        schedule := ProvingSchedule.afterSwitch (s.circuit c).technology s.now on,
        cable := { (s.circuit c).cable with
          watchPresented := (s.circuit c).cable.watchPresented && !on } }) d
      rw [h]; exact own _ rfl b
    · exact own _ rfl _
  · exact own _ rfl _

/-- An order to a drive changes the circuits and the channel, and nothing else. -/
theorem orderDrive_spec (c : CircuitIx) (on : Bool) : s.orderDrive c on =
    { s with channel := (s.orderDrive c on).channel, circuits := (s.orderDrive c on).circuits } := by
  unfold State.orderDrive
  split
  · rfl
  · split
    · rfl
    · exact switchNow_spec s c on

/-- The drive after an order (R17): unchanged where it has the state ordered, or where it would be switched on
without SAFE_ENABLE. -/
def Drive.ordered (k : Drive) (safe : Bool) (now : Instant) (on : Bool) : Drive :=
  if k.on = on then k else if on && !safe then k else { on := on, lastSwitch := now }

theorem Drive.ordered_ordered (k : Drive) (safe : Bool) (now : Instant) (on : Bool) :
    (k.ordered safe now on).ordered safe now on = k.ordered safe now on := by
  unfold Drive.ordered; split <;> simp_all

/-- An order moves no item of a circuit but its own drive and schedule and a watch candidate. -/
theorem orderDrive_circuit (c d : CircuitIx) (on : Bool) : ∃ b p, (s.orderDrive c on).circuit d =
    { s.circuit d with
      drive := if d = c then (s.circuit d).drive.ordered s.output.safeEnable s.now on
        else (s.circuit d).drive,
      schedule := if d = c then p else (s.circuit d).schedule,
      cable := { (s.circuit d).cable with watchPresented := b } } := by
  have same : (s.circuit c).drive.ordered s.output.safeEnable s.now on = (s.circuit c).drive →
      ∃ b p, s.circuit d = { s.circuit d with
        drive := if d = c then (s.circuit d).drive.ordered s.output.safeEnable s.now on
          else (s.circuit d).drive,
        schedule := if d = c then p else (s.circuit d).schedule,
        cable := { (s.circuit d).cable with watchPresented := b } } := by
    intro h
    refine ⟨(s.circuit d).cable.watchPresented, (s.circuit d).schedule, ?_⟩
    by_cases e : d = c
    · subst e; simp [h]
    · simp [e]
  unfold State.orderDrive
  split
  · rename_i h; exact same (by simp [Drive.ordered, h])
  · rename_i h
    split
    · rename_i h'; exact same (by simp [Drive.ordered, h, h'])
    · rename_i h'
      obtain ⟨b, p, e⟩ := switchNow_circuit s c d on
      refine ⟨b, p, ?_⟩
      rw [e]
      by_cases dc : d = c
      · subst dc; simp [Drive.ordered, h, h']
      · simp [dc]

/-- Orders to a list of drives change the circuits and the channel, and nothing else. -/
theorem orders_spec (f : CircuitIx → Bool) (l : List CircuitIx) : ∀ s : State,
    l.foldl (fun t c => t.orderDrive c (f c)) s =
    { s with
      channel := (l.foldl (fun t c => t.orderDrive c (f c)) s).channel,
      circuits := (l.foldl (fun t c => t.orderDrive c (f c)) s).circuits } := by
  induction l with
  | nil => intro s; rfl
  | cons c l ih =>
    intro s
    rw [List.foldl_cons, ih, orderDrive_spec]

/-- The drive of a circuit after orders to a list: ordered where the list names it. -/
theorem orders_drive (f : CircuitIx → Bool) (d : CircuitIx) (l : List CircuitIx) : ∀ s : State,
    ((l.foldl (fun t c => t.orderDrive c (f c)) s).circuit d).drive =
      if d ∈ l then (s.circuit d).drive.ordered s.output.safeEnable s.now (f d)
      else (s.circuit d).drive := by
  induction l with
  | nil => intro s; rfl
  | cons c l ih =>
    intro s
    have hn : (s.orderDrive c (f c)).now = s.now := by rw [orderDrive_spec]
    have ho : (s.orderDrive c (f c)).output = s.output := by rw [orderDrive_spec]
    obtain ⟨b, p, e⟩ := orderDrive_circuit s c d (f c)
    rw [List.foldl_cons, ih, hn, ho, e]
    by_cases dc : d = c
    · subst dc; by_cases m : d ∈ l <;> simp [m, Drive.ordered_ordered]
    · simp [dc]

/-- The drives after the orders of a group's aspect (R10). -/
theorem orderDrives_drive (k : GroupConfig) (a : Aspect) (d : CircuitIx) :
    ((s.orderDrives k a).circuit d).drive =
      if d ∈ k.circuits then
        (s.circuit d).drive.ordered s.output.safeEnable s.now (k.lights a s.flashOn d)
      else (s.circuit d).drive :=
  orders_drive (k.lights a s.flashOn) d k.circuits s

theorem orderDrives_spec (k : GroupConfig) (a : Aspect) : s.orderDrives k a =
    { s with channel := (s.orderDrives k a).channel, circuits := (s.orderDrives k a).circuits } :=
  orders_spec (k.lights a s.flashOn) k.circuits s

/-! ## SAFE_ENABLE made inactive -/

/-- SAFE_ENABLE inactive changes the circuits, the channel, the output and the round offer, and nothing
else. -/
theorem safeOff_spec : s.safeOff = { s with
    channel := s.safeOff.channel, circuits := s.safeOff.circuits,
    output := { s.output with safeEnable := false }, sup := { s.sup with roundOffer := none } } := by
  have h := orders_spec (fun _ => false) (List.finRange 48)
    (s.setOutput { s.output with safeEnable := false })
  unfold State.safeOff
  generalize List.finRange 48 = l at h ⊢
  dsimp only
  rw [h]
  split
  · rw [voidWindow_spec]; rfl
  · rfl

/-- With SAFE_ENABLE inactive every drive is off and no watch candidate stands (R17, R153). -/
theorem safeOff_circuit (d : CircuitIx) : (s.safeOff.circuit d).drive.on = false
    ∧ (s.safeOff.circuit d).cable.watchPresented = false := by
  have h := orders_drive (fun _ => false) d (List.finRange 48)
    (s.setOutput { s.output with safeEnable := false })
  simp only [List.mem_finRange, if_true] at h
  unfold State.safeOff
  generalize List.finRange 48 = l at h ⊢
  dsimp only
  have off : ∀ t : State, (t.circuit d).drive.on = false →
      ((State.setSup { t with circuits := t.circuits.map Circuit.unwatched }
        { t.sup with roundOffer := none }).circuit d).drive.on = false
      ∧ ((State.setSup { t with circuits := t.circuits.map Circuit.unwatched }
        { t.sup with roundOffer := none }).circuit d).cable.watchPresented = false := by
    intro t ht
    simp only [State.circuit, State.setSup, Table.get_map, Circuit.unwatched, and_true]
    exact ht
  have hon : ((l.foldl (fun t c => t.orderDrive c false)
      (s.setOutput { s.output with safeEnable := false })).circuit d).drive.on = false := by
    rw [h]; unfold Drive.ordered; split
    · rename_i e; exact e
    · simp
  apply off
  split
  · obtain ⟨b, e⟩ := voidWindow_circuit (l.foldl (fun t c => t.orderDrive c false)
      (s.setOutput { s.output with safeEnable := false })) d
    rw [e]; exact hon
  · exact hon

/-! ## The guard (R32 to R34) -/

/-- A GAIN sets an awaited green start at most. -/
theorem gain_spec (g : GroupIx) (tg : Instant) : s.gain g tg = { s with groups := (s.gain g tg).groups } := by
  unfold State.gain; dsimp only; split <;> rfl

theorem gain_group (g h : GroupIx) (tg : Instant) : ∃ a, (s.gain g tg).group h =
    { s.group h with awaited := a } := by
  unfold State.gain
  dsimp only
  split
  · rw [State.setGroup_group]
    split
    · rename_i e; subst e; exact ⟨_, rfl⟩
    · exact ⟨_, rfl⟩
  · exact ⟨_, rfl⟩

theorem guardWalk_spec (l : List GuardRequest) : ∀ (older : List GuardRequest) (s : State),
    guardWalk older l s =
      { s with groups := (guardWalk older l s).groups, guard := (guardWalk older l s).guard } := by
  induction l with
  | nil => intro older s; rfl
  | cons r l ih =>
    intro older s
    unfold guardWalk
    split
    · rw [ih, gain_spec]
    · rw [ih]

theorem guardWalk_group (h : GroupIx) (l : List GuardRequest) : ∀ (older : List GuardRequest) (s : State),
    ∃ a, (guardWalk older l s).group h = { s.group h with awaited := a } := by
  induction l with
  | nil => intro older s; exact ⟨_, rfl⟩
  | cons r l ih =>
    intro older s
    unfold guardWalk
    split
    · obtain ⟨a, e⟩ := ih older (s.gain r.group (s.greenStartFor r))
      obtain ⟨b, e'⟩ := gain_group s r.group h (s.greenStartFor r)
      exact ⟨a, by rw [e, e']⟩
    · exact ih _ s

/-- A judgement of the guard changes the groups' awaited greens and the open requests, and nothing else. -/
theorem guardJudge_spec : s.guardJudge =
    { s with groups := s.guardJudge.groups, guard := s.guardJudge.guard } := guardWalk_spec ..

@[simp] theorem guardJudge_circuit (d : CircuitIx) : s.guardJudge.circuit d = s.circuit d := by
  rw [guardJudge_spec]; rfl

theorem guardJudge_group (h : GroupIx) : ∃ a, s.guardJudge.group h = { s.group h with awaited := a } :=
  guardWalk_group ..

/-- A green that begins finds no conflicting group in AMBER (R26). -/
theorem greenDue_noAmber {s : State} {l g : GroupIx} (h : s.greenDue g = true) (c : s.conflicting l g = true) :
    (s.group l).aspect ≠ .amber := by
  have gone : s.amberGone g = true := by
    unfold State.greenDue at h
    dsimp only at h
    split at h
    · exact (Bool.and_eq_true_iff.1 h).1
    · cases h
  simpa using List.all_eq_true.1 gone l (by simp [State.conflictsOf, c])

/-! ## Changes of aspect (R10, R16) -/

/-- The state of a change of aspect before the guard judges. -/
theorem setAspect_spec (g : GroupIx) (a : Aspect) : s.setAspect g a = { s with
    groups := (s.setAspect g a).groups, guard := (s.setAspect g a).guard,
    circuits := (s.setAspect g a).circuits, channel := (s.setAspect g a).channel,
    output := { s.output with flash := s.flashAfter g a },
    seq := if a = .green then s.seq
      else { s.seq with greenStarts := s.seq.greenStarts.set g none } } := by
  unfold State.setAspect
  dsimp only
  rw [guardJudge_spec]
  split
  · rw [orderDrives_spec]
    split <;> rfl
  · split <;> rfl

/-- A change of aspect moves its own group's aspect, entry and green-off instants and no other group's. -/
theorem setAspect_group (g h : GroupIx) (a : Aspect) : ∃ w, (s.setAspect g a).group h =
    { s.group h with
      aspect := if h = g then a else (s.group h).aspect,
      aspectEntry := if h = g then s.now else (s.group h).aspectEntry,
      greenOff := if h = g ∧ (s.group h).aspect = .green ∧ a ≠ .green then s.now
        else (s.group h).greenOff,
      awaited := w } := by
  unfold State.setAspect
  dsimp only
  obtain ⟨w, e⟩ := guardJudge_group (match (s.group g).config with
    | some k => (if a = .green then
          (s.setOutput { s.output with flash := s.flashAfter g a }).setGroup g ((s.group g).entering a s.now)
        else ((s.setOutput { s.output with flash := s.flashAfter g a }).setGroup g
          ((s.group g).entering a s.now)).setSeq { s.seq with
            greenStarts := s.seq.greenStarts.set g none }).orderDrives k a
    | none => if a = .green then
          (s.setOutput { s.output with flash := s.flashAfter g a }).setGroup g ((s.group g).entering a s.now)
        else ((s.setOutput { s.output with flash := s.flashAfter g a }).setGroup g
          ((s.group g).entering a s.now)).setSeq { s.seq with
            greenStarts := s.seq.greenStarts.set g none }) h
  refine ⟨w, e.trans ?_⟩
  have own : ((s.setOutput { s.output with flash := s.flashAfter g a }).setGroup g
      ((s.group g).entering a s.now)).group h =
      { s.group h with
        aspect := if h = g then a else (s.group h).aspect,
        aspectEntry := if h = g then s.now else (s.group h).aspectEntry,
        greenOff := if h = g ∧ (s.group h).aspect = .green ∧ a ≠ .green then s.now
          else (s.group h).greenOff } := by
    rw [State.setGroup_group]
    by_cases e : h = g
    · subst e; simp [Group.entering]
    · simp [e]
  have groups : ∀ (t : State) (k : GroupConfig), (t.orderDrives k a).group h = t.group h := by
    intro t k; rw [orderDrives_spec]; rfl
  split
  · rw [groups]
    split
    · rw [own]
    · rw [State.setSeq_group, own]
  · split
    · rw [own]
    · rw [State.setSeq_group, own]

/-- The drives after a change of aspect of a present group. -/
theorem setAspect_drive {g : GroupIx} {k : GroupConfig} (hk : (s.group g).config = some k) (a : Aspect)
    (d : CircuitIx) : ((s.setAspect g a).circuit d).drive =
      if d ∈ k.circuits then
        (s.circuit d).drive.ordered s.output.safeEnable s.now
          (k.lights a ((s.flashAfter g a).any (·.on)) d)
      else (s.circuit d).drive := by
  unfold State.setAspect
  dsimp only
  rw [guardJudge_circuit]
  simp only [hk]
  by_cases h : a = .green
  · simp only [if_pos h]; rw [orderDrives_drive]; rfl
  · simp only [if_neg h]; rw [orderDrives_drive]; rfl

/-! ## The end of a dark window and the age limit (R120, R154, R155) -/

/-- A free reading lies in the converter's range. -/
theorem freeReading_range (place : Nat) : -512 ≤ s.freeReading place ∧ s.freeReading place ≤ 4095 := by
  unfold State.freeReading; omega

/-- What the age limit does: the causes handed at once, or, where the end of a dark window has not been taken, also
behind a recording of its result with readings in the converter's range, whose cause is handed after them. -/
theorem reachLimit_cases (c : CircuitIx) :
    (s.darkWindow = none ∧ s.reachLimit c = s.handCauses (s.lateCauses c))
    ∨ ∃ d dark, s.darkWindow = some (d, dark)
      ∧ (s.reachLimit c = s.drawn.handCauses (s.lateCauses c)
        ∨ ∃ v l q : Int, (∀ x ∈ [v, l, q], -512 ≤ x ∧ x ≤ 4095)
          ∧ s.reachLimit c = (s.drawn.drawn.recordDark d dark (s.channel.darkValues v l q)).handCauses
              (s.lateCauses c ++ s.darkCauses d dark (s.channel.darkValues v l q))) := by
  unfold State.reachLimit
  split
  · exact .inl ⟨‹_›, rfl⟩
  · rename_i d dark h
    refine .inr ⟨d, dark, h, ?_⟩
    unfold State.limitMeetsWindow
    split
    · exact .inl rfl
    · refine .inr ⟨_, _, _, ?_, rfl⟩
      simp [freeReading_range]

/-! ## The end of a step (log entry 6) -/

/-- With no group found LOST red supervision does nothing. -/
theorem superviseReds_of_none (before : State) (h : ∀ g : GroupIx, s.redLost g = false) :
    before.superviseReds s = s := by
  unfold State.superviseReds State.judgeReds
  simp [h, State.pick]

theorem renewOffer_unarbitrated : s.renewOffer.unarbitrated = s.unarbitrated := rfl

theorem startWindow_unarbitrated (c : CircuitIx) (k : WindowKind) :
    (s.startWindow c k).channel.calibration = s.channel.calibration := rfl

theorem circuits_unarbitrated {c : CircuitIx} {r : Circuit} (h : r.unpresented = (s.circuit c).unpresented) :
    (s.setCircuit c r).unarbitrated = s.unarbitrated := by
  simp [State.unarbitrated, State.setCircuit,
    Table.map_set_same _ _ _ _ (show _ = Circuit.unpresented (s.circuits.get c) from h)]

/-- An arbitration moves only the candidates, the round and what the channel has in progress (R122). -/
theorem arbitrate_unarbitrated : s.arbitrate.unarbitrated = s.unarbitrated := by
  unfold State.arbitrate
  split
  · split
    · rename_i x _
      cases x with
      | proving c =>
        exact (circuits_unarbitrated s (c := c)
          (r := { s.circuit c with schedule := { (s.circuit c).schedule with presented := none } }) rfl)
      | watch c =>
        exact (circuits_unarbitrated s (c := c)
          (r := { s.circuit c with cable := { (s.circuit c).cable with watchPresented := false } }) rfl)
      | shortCal => rfl
      | round c => rfl
    · rfl
  · rfl

end Sys2Proof.Machine
end

