-- ==== Sys2Proof/Laws/Preempting.lean ====
section
/-! SUPPORT. Laws of the preemption unit: what an acceptance does to the context chain, said once. -/

namespace Sys2Proof.Machine

variable (s : State)

/-- The sync status re-derived moves nothing of the chain nor of the sequencer's state. -/
@[simp] theorem resync_pre : s.resync.pre = s.pre := by unfold State.resync; split <;> rfl

@[simp] theorem resync_seq_state : s.resync.seq.state = s.seq.state := by unfold State.resync; split <;> rfl

@[simp] theorem makeInvoked_pre (p : PlanIx) : (s.makeInvoked p).pre = s.pre := by
  unfold State.makeInvoked; split <;> rfl

@[simp] theorem makeInvoked_seq (p : PlanIx) : (s.makeInvoked p).seq = s.seq := by
  unfold State.makeInvoked; split <;> rfl

@[simp] theorem pushContext_chain (e : EntryIx) (c : EntryConfig) :
    (s.pushContext e c).pre.chain = c.context e :: s.pre.chain := by simp [State.pushContext]

@[simp] theorem pushContext_seq_state (e : EntryIx) (c : EntryConfig) :
    (s.pushContext e c).seq.state = s.seq.state := by simp [State.pushContext]

/-- The record of the context on top is written, unless it was pushed in this interstage, and nothing else moves
(R93). -/
theorem saveTop_eq (z : Context) (rest : List Context) (h : s.pre.chain = z :: rest) :
    s.saveTop = s.setPre { s.pre with
      chain := (if s.seq.above = 0 then s.savedContext z else z) :: rest } := by
  by_cases ha : s.seq.above = 0
  · simp [State.saveTop, State.saveRunning, State.runningContext, ha, h]
  · have e : s = s.setPre { s.pre with chain := z :: rest } := by rw [← h]; rfl
    simpa [State.saveTop, ha] using e

/-- An acceptance in an interstage pushes its context over the chain, of which the top record alone is written
(R93, R94). -/
theorem acceptEntry_chain (e : EntryIx) (c : EntryConfig) (z : Context) (rest : List Context)
    (h : s.pre.chain = z :: rest) (hi : s.seq.state = .interstage) :
    (s.acceptEntry e c).pre.chain =
      c.context e :: (if s.seq.above = 0 then s.savedContext z else z) :: rest := by
  simp [State.acceptEntry, saveTop_eq s z rest h, State.beginTruncation, hi]

end Sys2Proof.Machine
end

