-- ==== Sys2Proof/Laws/Switches.lean ====
section
/-! SUPPORT. Laws of a switch: exactly what an order to a drive, the orders of an aspect and the fall of SAFE_ENABLE do
to the circuits and to the channel (R17, R124, R125, R133, R152, R153); and the numbers of a
payload (R175). -/

namespace Sys2Proof.Machine

variable (s : State)

/-! ## The void of a window -/

/-- Whether a circuit is watched rests on the groups and on the output driver alone. -/
theorem watched_congr {t u : State} (hg : t.groups = u.groups) (ho : t.output = u.output) (c : CircuitIx) :
    t.watched c = u.watched c := by
  unfold State.watched State.assignment State.group
  rw [hg, ho]

@[simp] theorem freedChannel_inFlight : s.freedChannel.inFlight = none := by
  unfold State.freedChannel; split <;> rfl

/-- A void frees the channel, and presents again the circuit of a watch check that is still watched. -/
theorem voidWindow_exact {w : InFlight} (h : s.channel.inFlight = some w) :
    s.voidWindow.channel = s.freedChannel ∧ ∀ d, s.voidWindow.circuit d =
      if d = w.circuit ∧ s.watchInFlight d = true ∧ s.watched d = true then
        { s.circuit d with cable := { (s.circuit d).cable with watchPresented := true } }
      else s.circuit d := by
  obtain ⟨c, kind, start⟩ := w
  have hw : (s.setChannel (s.channel.endWindow s.now)).watched c = s.watched c := watched_congr rfl rfl c
  unfold State.voidWindow State.watchInFlight
  simp only [h]
  rcases kind with level | ⟨rq, dark⟩
  · exact ⟨rfl, fun d => by simp [State.circuit, State.setChannel]⟩
  · cases rq
    · simp only [hw]
      split
      · rename_i hc
        refine ⟨rfl, fun d => ?_⟩
        rw [setPresented_circuit]
        by_cases e : d = c
        · subst e; simp only [beq_self_eq_true, hc, and_self, if_true]; rfl
        · simp only [e, if_false, false_and]; rfl
      · rename_i hc
        refine ⟨rfl, fun d => ?_⟩
        by_cases e : d = c
        · subst e; rw [if_neg (fun x => hc x.2.2)]; rfl
        · rw [if_neg (fun x => e x.1)]; rfl
    · exact ⟨rfl, fun d => by simp [State.circuit, State.setChannel]⟩

/-! ## An order to a drive (R17) -/

/-- The watch candidate of a circuit after a switch of it (R124, R152, R153). -/
def State.presentedAfter (s : State) (c : CircuitIx) (on : Bool) : Bool :=
  (s.watchInFlight c && s.watched c) || ((s.circuit c).cable.watchPresented && !on)

/-- A switch: its circuit, the others, and the channel, freed where it measured the circuit. -/
theorem switchNow_exact (c : CircuitIx) (on : Bool) :
    (∀ d, (s.switchNow c on).circuit d =
      if d = c then (s.circuit c).switchedAt s.now on (s.presentedAfter c on) else s.circuit d)
    ∧ (∀ w, s.channel.inFlight = some w → w.circuit = c → (s.switchNow c on).channel = s.freedChannel)
    ∧ ((∀ w, s.channel.inFlight = some w → w.circuit ≠ c) → (s.switchNow c on).channel = s.channel) := by
  let own : Circuit := { s.circuit c with
    drive := { on := on, lastSwitch := s.now }
    schedule := ProvingSchedule.afterSwitch (s.circuit c).technology s.now on
    cable := { (s.circuit c).cable with watchPresented := (s.circuit c).cable.watchPresented && !on } }
  let t := s.setCircuit c own
  have hs : s.switchNow c on = match s.channel.inFlight with
      | some w => if w.circuit = c then t.voidWindow else t
      | none => t := rfl
  have ht : ∀ d, t.circuit d = if d = c then own else s.circuit d := fun d => State.setCircuit_circuit ..
  have hsched : ∀ k : Technology, ProvingSchedule.afterSwitch k s.now on = {
      litSince := if on then some s.now else none
      nextDue := if on then some (s.now + if k = .led then 300 else 150) else none
      presented := none } := by
    intro k; unfold ProvingSchedule.afterSwitch settleTime
    cases on <;> cases k <;> rfl
  have hown : ∀ b, ({ own with cable := { own.cable with watchPresented := b } } : Circuit) =
      (s.circuit c).switchedAt s.now on b := by
    intro b; simp only [own, hsched]; rfl
  have plain : (∀ w, s.channel.inFlight = some w → w.circuit ≠ c) → s.presentedAfter c on =
      ((s.circuit c).cable.watchPresented && !on) := by
    intro h
    unfold State.presentedAfter State.watchInFlight
    split
    · rename_i d _ _ e
      have := h _ e
      simp [Ne.symm this]
    · simp
  cases hf : s.channel.inFlight with
  | none =>
    rw [hf] at hs plain
    refine ⟨fun d => ?_, fun w h => (nomatch h), fun _ => by rw [hs]; rfl⟩
    rw [hs, plain (fun w h => (nomatch h)), ← hown, ht]
  | some w =>
    rw [hf] at hs plain
    by_cases e : w.circuit = c
    · subst e
      have htf : t.channel.inFlight = some w := hf
      obtain ⟨hc, hd⟩ := voidWindow_exact t htf
      simp only [if_true] at hs
      refine ⟨fun d => ?_, fun v h _ => by rw [hs, hc]; rfl, fun h => absurd rfl (h w rfl)⟩
      rw [hs, hd, ht]
      have hw : t.watched d = s.watched d := watched_congr rfl rfl d
      have hi : t.watchInFlight d = s.watchInFlight d := rfl
      by_cases dc : d = w.circuit
      · subst dc
        simp only [hw, hi, if_true, true_and]
        unfold State.presentedAfter
        split
        · rename_i h
          rw [hown, h.1, h.2]; rfl
        · rename_i h
          have : (s.watchInFlight w.circuit && s.watched w.circuit) = false := by
            cases h1 : s.watchInFlight w.circuit <;> cases h2 : s.watched w.circuit <;> simp_all
          rw [this, Bool.false_or, ← hown]
      · simp only [dc, false_and, if_false]
    · simp only [e, if_false] at hs
      have hne : ∀ v, some w = some v → v.circuit ≠ c := by rintro v h; cases h; exact e
      refine ⟨fun d => ?_, fun v h hv => absurd hv (hne v h), fun _ => by rw [hs]; rfl⟩
      rw [hs, plain hne, ← hown, ht]

/-- One order. -/
theorem orderDrive_ordered (f : CircuitIx → Bool) (c : CircuitIx) : s.Ordered (s.orderDrive c (f c)) (· = c) f := by
  have hw : ∀ d, (s.orderDrive c (f c)).watched d = s.watched d := fun d =>
    watched_congr (by rw [orderDrive_spec]) (by rw [orderDrive_spec]) d
  by_cases h : s.Switches (· = c) f c
  · have ho : s.orderDrive c (f c) = s.switchNow c (f c) := by
      unfold State.orderDrive
      rw [if_neg h.2.1, if_neg]
      intro hb
      cases hf : f c <;> simp_all [State.Switches]
    obtain ⟨hc, hv, hn⟩ := switchNow_exact s c (f c)
    have only : ∀ d, s.Switches (· = c) f d → d = c := fun d hd => hd.1
    refine ⟨fun d hd => ?_, fun d hd => ?_, fun w hw' hd => ?_, fun hd => ?_⟩
    · have := only d hd; subst this
      rw [hw, ho, hc, if_pos rfl]; rfl
    · rw [ho, hc, if_neg]; rintro rfl; exact hd h
    · rw [ho]; exact hv w hw' (only _ hd)
    · rw [ho]; exact hn fun w hw' e => hd w hw' (by rw [e]; exact h)
  · have ho : s.orderDrive c (f c) = s := by
      unfold State.orderDrive
      split
      · rfl
      · rename_i h1
        rw [if_pos]
        cases hf : f c <;> cases hs : s.output.safeEnable <;> simp_all [State.Switches]
    have none : ∀ d, ¬s.Switches (· = c) f d := by rintro d hd; exact h (hd.1 ▸ hd)
    rw [ho]
    exact ⟨fun d hd => absurd hd (none d), fun _ _ => rfl, fun w _ hd => absurd hd (none _), fun _ => rfl⟩

/-- Orders one after another are the orders together. -/
theorem Ordered_cons {s u v : State} {f : CircuitIx → Bool} {c : CircuitIx} {l : List CircuitIx}
    (hu : s.Ordered u (· = c) f) (hv : u.Ordered v (· ∈ l) f) (now : u.now = s.now) (out : u.output = s.output)
    (watched : ∀ d, v.watched d = u.watched d) : s.Ordered v (· ∈ c :: l) f := by
  obtain ⟨u1, u2, u3, u4⟩ := hu
  obtain ⟨v1, v2, v3, v4⟩ := hv
  have other : ∀ d, d ≠ c → u.circuit d = s.circuit d := fun d hd => u2 d fun h => hd h.1
  have settled : ¬u.Switches (· ∈ l) f c := by
    intro h
    by_cases hs : s.Switches (· = c) f c
    · rw [State.Switches, u1 c hs] at h; exact h.2.1 rfl
    · rw [State.Switches, u2 c hs, out] at h; exact hs ⟨rfl, h.2⟩
  have tail : ∀ d, d ≠ c → (s.Switches (· ∈ c :: l) f d ↔ u.Switches (· ∈ l) f d) := by
    intro d hd
    simp only [State.Switches, other d hd, out, List.mem_cons, hd, false_or]
  have head : s.Switches (· ∈ c :: l) f c ↔ s.Switches (· = c) f c := by
    simp only [State.Switches, List.mem_cons, true_or]
  have flight : ∀ d, d ≠ c → u.watchInFlight d = s.watchInFlight d := by
    intro d hd
    by_cases hs : ∃ w, s.channel.inFlight = some w ∧ s.Switches (· = c) f w.circuit
    · obtain ⟨w, hw, hc⟩ := hs
      have hwc : w.circuit = c := hc.1
      have : u.channel.inFlight = none := by rw [u3 w hw hc, freedChannel_inFlight]
      unfold State.watchInFlight
      rw [this, hw]
      obtain ⟨wc, kind, start⟩ := w
      cases hwc
      rcases kind with _ | ⟨rq, _⟩
      · rfl
      · cases rq <;> simp [hd]
    · have : u.channel = s.channel := u4 fun w hw hc => hs ⟨w, hw, hc⟩
      unfold State.watchInFlight
      rw [this]
  refine ⟨fun d hd => ?_, fun d hd => ?_, fun w hw hd => ?_, fun hd => ?_⟩
  · by_cases e : d = c
    · subst e
      rw [v2 d settled, u1 d (head.1 hd), watched d]
    · rw [v1 d ((tail d e).1 hd), other d e, now, flight d e]
  · by_cases e : d = c
    · subst e
      rw [v2 d settled, u2 d fun h => hd (head.2 h)]
    · rw [v2 d fun h => hd ((tail d e).2 h), other d e]
  · by_cases e : w.circuit = c
    · have hs : s.Switches (· = c) f w.circuit := ⟨e, hd.2⟩
      rw [v4, u3 w hw hs]
      intro x hx
      rw [u3 w hw hs, freedChannel_inFlight] at hx
      cases hx
    · have hch : u.channel = s.channel := u4 fun x hx hc => by
        rw [hw] at hx; cases hx; exact e hc.1
      rw [v3 w (by rw [hch]; exact hw) ((tail _ e).1 hd)]
      unfold State.freedChannel
      rw [hch, now]
  · have hch : u.channel = s.channel := u4 fun w hw hc => hd w hw (by
      have := hc.1; rw [this] at hc ⊢; exact head.2 hc)
    rw [v4, hch]
    intro w hw hc
    rw [hch] at hw
    by_cases e : w.circuit = c
    · rw [e] at hc; exact settled hc
    · exact hd w hw ((tail _ e).2 hc)

/-- Orders to a list of drives. -/
theorem orders_ordered (f : CircuitIx → Bool) (l : List CircuitIx) : ∀ s : State,
    s.Ordered (l.foldl (fun t c => t.orderDrive c (f c)) s) (· ∈ l) f := by
  induction l with
  | nil =>
    intro s
    have none : ∀ d, ¬s.Switches (· ∈ ([] : List CircuitIx)) f d := fun d hd => (nomatch hd.1)
    exact ⟨fun d hd => absurd hd (none d), fun _ _ => rfl, fun w _ hd => absurd hd (none _), fun _ => rfl⟩
  | cons c l ih =>
    intro s
    have spec := orders_spec f l (s.orderDrive c (f c))
    exact Ordered_cons (orderDrive_ordered s f c) (ih (s.orderDrive c (f c))) (by rw [orderDrive_spec])
      (by rw [orderDrive_spec]) fun d =>
        watched_congr (by rw [List.foldl_cons, spec]) (by rw [List.foldl_cons, spec]) d

/-- The orders of a group's aspect (R10). -/
theorem orderDrives_ordered (k : GroupConfig) (a : Aspect) :
    s.Ordered (s.orderDrives k a) (· ∈ k.circuits) (k.lights a s.flashOn) :=
  orders_ordered (k.lights a s.flashOn) k.circuits s

/-! ## The fall of SAFE_ENABLE (R17, R125, R153) -/

/-- Every drive ordered off, the dark window in flight voided, and no circuit presented for the watch. -/
theorem safeOff_poweredOff : s.PoweredOff s.safeOff := by
  obtain ⟨l, hl⟩ : ∃ l, l = List.finRange 48 := ⟨_, rfl⟩
  have all : ∀ c, c ∈ l := fun c => by rw [hl]; exact List.mem_finRange c
  let r := s.setOutput { s.output with safeEnable := false }
  let t := l.foldl (fun t c => t.orderDrive c false) r
  let v := match t.channel.inFlight with
    | some ⟨_, .dark _ _, _⟩ => t.voidWindow
    | _ => t
  have hs : s.safeOff = State.setSup { v with circuits := v.circuits.map Circuit.unwatched }
      { v.sup with roundOffer := none } := by
    unfold State.safeOff; rw [← hl] <;> rfl
  obtain ⟨o1, o2, o3, o4⟩ : r.Ordered t (· ∈ l) fun _ => false :=
    orders_ordered (fun _ => false) l r
  have sw : ∀ c, r.Switches (· ∈ l) (fun _ => false) c ↔ (s.circuit c).drive.on = true := by
    intro c
    have : r.circuit c = s.circuit c := rfl
    simp [State.Switches, this, all]
  have hv : ∀ c, (v.circuit c).unwatched = (t.circuit c).unwatched := by
    intro c
    simp only [v]
    split
    · obtain ⟨b, e⟩ := voidWindow_circuit t c
      rw [e]; rfl
    · rfl
  have hc : ∀ c, s.safeOff.circuit c = (v.circuit c).unwatched := fun c => by rw [hs]; exact Table.get_map ..
  have freed : ∀ x : State, x.channel = s.channel → x.now = s.now → x.freedChannel = s.freedChannel := by
    intro x hx hn; unfold State.freedChannel; rw [hx, hn]
  have tnow : t.now = s.now := (congrArg State.now (orders_spec (fun _ => false) l r) :)
  have hch : s.safeOff.channel = v.channel := by rw [hs]; rfl
  refine ⟨by rw [safeOff_spec], fun c => ?_, fun w hw hk => ?_, fun hn => ?_⟩
  · rw [hc, hv]
    split
    · rename_i h; rw [o1 c ((sw c).2 h)]; rfl
    · rename_i h; rw [o2 c fun x => h ((sw c).1 x)]; rfl
  · rw [hch]
    by_cases h : (s.circuit w.circuit).drive.on = true
    · have ht : t.channel = s.freedChannel := by
        rw [o3 w hw ((sw _).2 h)]; exact freed r rfl rfl
      simp only [v, ht, freedChannel_inFlight]
    · have ht : t.channel = s.channel := o4 fun x hx hd => by
        rw [show r.channel = s.channel from rfl, hw] at hx; cases hx; exact h ((sw _).1 hd)
      obtain ⟨rq, dark, hd⟩ := hk.resolve_right h
      obtain ⟨wc, kind, start⟩ := w
      cases hd
      simp only [v, ht, hw]
      rw [(voidWindow_exact t (by rw [ht]; exact hw)).1]
      exact freed t ht tnow
  · rw [hch]
    have ht : t.channel = s.channel := o4 fun x hx => by
      rw [show r.channel = s.channel from rfl, hn] at hx; cases hx
    simp only [v, ht, hn]

/-! ## The lengths of a reply's fields (R175) -/

@[simp] theorem fieldBytes_length (width value : Nat) : (fieldBytes width value).length = width := by
  simp [fieldBytes]

@[simp] theorem WideNumber.bytes_length (width : Nat) (x : WideNumber) : (x.bytes width).length = width :=
  fieldBytes_length ..

/-- A code fits the width that has room for twice the number's magnitude. -/
theorem SignForm.code_lt (form : SignForm) (width : Nat) (v : Int) (h : 2 * v.natAbs < 256 ^ width) :
    form.code width v < 256 ^ width := by
  have cast : (256 : Int) ^ width = ((256 ^ width : Nat) : Int) := by push_cast; rfl
  unfold SignForm.code
  rw [cast]
  generalize 256 ^ width = p at h
  cases form with
  | twosComplement =>
    have := Int.emod_lt_of_pos v (by omega : (0 : Int) < p)
    dsimp only; omega
  | onesComplement => dsimp only; split <;> omega
  | signMagnitude => dsimp only; split <;> omega
  | excess => dsimp only; omega

/-- A wide number's code fits a width that has room for it. -/
theorem WideNumber.code_lt (width : Nat) (x : WideNumber) (h : x.extent < 256 ^ width) :
    x.code width < 256 ^ width := by
  cases x with
  | plain n v => exact h
  | signed n v => exact Config.signForm.code_lt width v h

theorem lt_pow_width (f : PayloadForm) (x : WideNumber × Nat) : x.1.extent < 256 ^ f.width x :=
  lt_of_lt_of_le (Nat.lt_pow_succ_log_self (by decide) _) (Nat.pow_le_pow_right (by decide) (le_max_right _ _))

theorem least_le_width (f : PayloadForm) (x : WideNumber × Nat) : x.1.least ≤ f.width x :=
  le_trans (Nat.le_add_right _ _) (le_max_left _ _)

/-- Numbers each followed by any bytes stand in turn. -/
theorem inTurn_flatMap (f : PayloadForm) (l : List (WideNumber × Nat)) (lead : List Byte) :
    InTurn (l.map (·.1)) (lead ++ l.flatMap fun x => x.1.bytes (f.width x) ++ f.behind x.2) := by
  induction l generalizing lead with
  | nil => exact trivial
  | cons x l ih =>
    exact ⟨lead, _, f.width x, by simp, least_le_width f x, lt_pow_width f x, ih (f.behind x.2)⟩

/-- What is laid out holds its wide numbers (R175). -/
theorem layOut_holdsNumbers (f : PayloadForm) (l : List WideNumber) : HoldsNumbers (f.layOut l) l := by
  refine ⟨(f.ordered l).map (·.1), ?_, inTurn_flatMap f _ f.lead⟩
  have h := (List.perm_insertionSort (fun x y : WideNumber × Nat => f.rank x.2 ≤ f.rank y.2) l.zipIdx).map (·.1)
  rwa [List.zipIdx_map_fst] at h

/-- A number takes at most two bytes more than its least width, and a name one. -/
theorem detailBytes_length (p : Payload) (place : Nat) (d : Detail) :
    (p.detailBytes place d).length ≤ match d with
      | .number width _ => width + 2
      | .named _ => 1 := by
  cases d with
  | number width value =>
    have : Config.detailSpare p place % 3 < 3 := Nat.mod_lt _ (by decide)
    simp only [Payload.detailBytes, fieldBytes_length]; omega
  | named => simp [Payload.detailBytes]

end Sys2Proof.Machine
end

