-- ==== Sys2Proof/Tests/Slice0.lean ====
section
/-! SUPPORT. Tests: worked examples of the manual, one step each on small states, the checks of WellFormed, and
for every obligation with hypotheses a state and operands that meet them. -/

set_option Elab.async false

namespace Sys2Proof.Tests

open Sys2Proof.Machine

/-! ## Small states -/

/-- The state an outcome goes on to. -/
def after : Host.Outcome State Fault Refusal → State
  | .next t => t
  | _ => State.reset

/-- The vehicle and pedestrian groups of the worked case of spec/03. -/
def veh (red amber green : CircuitIx) (minGreen : Nat) : GroupConfig :=
  { reds := [red], green := green, minGreen := minGreen,
    vehicle := some { amber := amber, amberTime := 30, redAmber := 15 } }

def configs : List GroupConfig :=
  [veh 0 1 2 70, veh 3 4 5 70, veh 6 7 8 60,
   { reds := [9], green := 11, minGreen := 60, vehicle := none }]

/-- A group in an aspect since instant 0. -/
def groupIn (a : Aspect) (k : Option GroupConfig) : Group :=
  { config := k, aspect := a, aspectEntry := 0, awaited := none, greenOff := 0 }

/-- The groups of the worked case, in the aspects given. -/
def groupsIn (aspects : List Aspect) : Table 16 Group :=
  Table.ofFn fun g => groupIn (aspects.getD g.val .dark) configs[g.val]?

/-- The worked case's pairs: {1, 2} does not conflict, and the intergreens of spec/02. -/
def pairs (s : State) : State :=
  (((((s.setPair 0 1 none).setPair 0 2 (some (50, 50))).setPair 1 2 (some (60, 50))).setPair 0 3
    (some (60, 80))).setPair 1 3 (some (60, 80))).setPair 2 3 (some (60, 60))

def plan1 : PlanBody :=
  { stages := [⟨[0, 1], 300⟩, ⟨[2], 150⟩, ⟨[3], 100⟩], fields := .base 900 200 1 }

def plan5 : PlanBody := { stages := [⟨[0, 1], 300⟩, ⟨[3], 100⟩], fields := .base 600 50 1 }

def plan9 : PlanBody := { stages := [⟨[], 50⟩, ⟨[2], 100⟩], fields := .preempt 100 1200 }

def derived1 : Derived :=
  { interstages := [80, 60, 60], effective := [300, 150, 100], demand := 750,
    base := some { ceff := 900, stretched := false, slackSplit := 450, slackFloor := 70 } }

def derived5 : Derived :=
  { interstages := [80, 60], effective := [300, 100], demand := 540,
    base := some { ceff := 600, stretched := false, slackSplit := 360, slackFloor := 70 } }

def derived9 : Derived :=
  { interstages := [0, 15], effective := [50, 100], demand := 165, base := none }

def plansIn (first : PlanPhase) : Table 16 Plan :=
  Table.ofFn fun p =>
    if p = 0 then .valid first plan1 derived1
    else if p = 4 then .valid .ready plan5 derived5
    else if p = 8 then .valid .ready plan9 derived9
    else .free

/-- The channel in service with nothing in progress. -/
def idleChannel : Channel := { Channel.atReset 0 with state := .ready, calibration := none }

/-- The worked case in DARK: groups, conflict table, plans 1, 5 and 9 READY, plan 1 current. -/
def town : State :=
  { pairs State.reset with
    groups := groupsIn []
    plans := plansIn .ready
    seq := { Sequencer.atReset 0 with current := some 0 }
    channel := idleChannel }

/-- The drives that the groups' aspects light. -/
def lamps (groups : Table 16 Group) : Table 48 Circuit :=
  Table.ofFn fun c =>
    let on := (List.finRange 16).any fun g => (groups.get g).config.any fun k =>
      k.circuits.contains c && k.lights (groups.get g).aspect true c
    { Circuit.atReset 0 with
      drive := { on := on, lastSwitch := 0 }
      schedule := { litSince := if on then some 0 else none, nextDue := none, presented := none } }

/-- The worked case supplied, its groups in the aspects given. -/
def supplied (state : JunctionState) (aspects : List Aspect) : State :=
  { town with
    groups := groupsIn aspects
    circuits := lamps (groupsIn aspects)
    output := { safeEnable := true, safeSince := 0, dim := false, flash := none }
    junction := { town.junction with state := state } }

def baseContext (stage : Nat) : Context :=
  { plan := 0, invoker := none, stage := stage, elapsed := 0, slackLength := none, position := none,
    excess := 0, inDwell := false, dwell := 0 }

/-- Green starts of groups at an instant. -/
def startsAt (l : List GroupIx) (t : Instant) : Table 16 (Option Instant) :=
  Table.ofFn fun g => if l.contains g then some t else none

/-- Plan 1 running in its stage 1 since 8.0 s, at an instant. -/
def running (now : Instant) : State :=
  let s := supplied .running [.green, .green, .red, .red]
  { s with
    now := now
    plans := plansIn .active
    pre := { s.pre with chain := [baseContext 1] }
    seq := { s.seq with
      state := .stage, stage := some 1, interStart := 0, greenStart := 8000,
      greenStarts := startsAt [0, 1] 8000,
      position := some { value := 80, since := some 8000, limit := 530 },
      length := some 450, slackLength := some 450, gaining := [0, 1] } }

/-- Plan 1 running in its last stage since 80.0 s, with plan 5 pending. -/
def lastStage (now : Instant) : State :=
  let s := supplied .running [.red, .red, .red, .green]
  { s with
    now := now
    plans := (plansIn .active).set 4 (.valid .selected plan5 derived5)
    pre := { s.pre with chain := [baseContext 3] }
    seq := { s.seq with
      state := .stage, stage := some 3, interStart := 74000, greenStart := 80000,
      greenStarts := startsAt [3] 80000, length := some 100, gaining := [3], pendingPlan := some 4 } }

def entry1 : EntryConfig := { plan := 8, priority := 2, source := .line }
def entry5 : EntryConfig := { plan := 8, priority := 3, source := .command }

/-- Entry 1 of source LINE and entry 5 of source COMMAND, both of plan 9, with table length 5. -/
def entries (asserted : Bool) : Table 8 Entry :=
  Table.ofFn fun e =>
    if e = 0 then { config := some entry1, stuck := false, asserted := asserted }
    else if e = 4 then { config := some entry5, stuck := false, asserted := false }
    else { config := none, stuck := false, asserted := false }

/-- Stage 1 running with the two entries of the table. -/
def withEntries (now : Instant) : State :=
  { running now with pre := { (running now).pre with entries := entries false, length := 5 } }

/-- Plan 9 in its dwell of entry 1 since 70.0 s, over the base context. -/
def dwelling (now : Instant) (asserted : Bool) : State :=
  let s := supplied .running [.red, .red, .green, .red]
  { s with
    now := now
    plans := (plansIn .active).set 8 (.valid .invoked plan9 derived9)
    pre := { s.pre with
      entries := entries asserted, length := 5,
      chain := [{ baseContext 2 with
                    plan := 8, invoker := some { entry := 0, priority := 2 }, inDwell := true },
                baseContext 1] }
    seq := { s.seq with
      state := .stage, stage := some 2, interStart := 60000, greenStart := 70000,
      greenStarts := startsAt [2] 70000, length := some 100, gaining := [2] } }

/-! ## Worked examples of the manual -/

/-- The check value of the CRC, and the CRC of a READ_STATUS request (spec/11 section 11.1). -/
theorem test_crc : crc [0x31, 0x32, 0x33, 0x34, 0x35, 0x36, 0x37, 0x38, 0x39] = 0x29B1
    ∧ crc [0x30, 0x00] = 0x189A := by decide +kernel

/-- The frame of that request is the command READ_STATUS, and one transaction takes one request (spec/11
sections 11.1 and 11.3). -/
theorem test_one_request : commandOf [0x30, 0x00, 0x18, 0x9A] = some .readStatus
    ∧ Instr.opcode .recalibrate = some 0x23 ∧ Instr.opcode .chipSelectReleased = none
    ∧ after (exec .readAttention (after (exec .readStatus town))) = after (exec .readStatus town) := by
  decide +kernel

/-- A request passed over while RESET_N is held: after the line reset the port waits for the release (R175). -/
theorem test_request_under_reset :
    let run := fun l : List Instr => (l.foldl (fun s i => after (exec i s)) town).reply.isSome
    run [.resetNAsserted, .readStatus, .lineReset, .readAttention] = false
    ∧ run [.resetNAsserted, .readStatus, .lineReset, .chipSelectReleased, .readAttention] = true := by
  decide +kernel

/-- A request of one byte has begun: the next is ignored, also after a reset, until the release (R175). -/
theorem test_request_begun :
    let run := fun l : List Instr => (l.foldl (fun s i => after (exec i s)) town).reply.isSome
    run [.requestRefused [0x30], .readStatus] = false
    ∧ run [.requestRefused [0x30], .powerOnReset, .readStatus] = false
    ∧ run [.requestRefused [0x30], .chipSelectReleased, .readStatus] = true
    ∧ (after (exec .lineReset (after (exec (.requestRefused [0x30, 0]) town)))).link.transaction = .discarded := by
  decide +kernel

/-- A reply refused STATE is status 05, length 0 and a CRC over both, which the port's CRC check passes
(spec/11 section 11.1). -/
theorem test_reply_frame : (Reply.frame { status := .state, payload := .empty }).take 2 = [5, 0]
    ∧ crcAt (Reply.frame { status := .state, payload := .empty }) 2 = crc [5, 0]
    ∧ Payload.toBytes (.preempt .busy 3) = [5, 3] := by decide +kernel

/-- A number of a reply goes most significant byte first (R175); the details of a conflict are the stage and the pair,
lower number first (R52), and a pass of the worked plan 1 carries the class and D = 750 (R50). -/
theorem test_reply_fields : fieldBytes 2 750 = [0x02, 0xEE] ∧ fieldBytes 3 750 = [0, 0x02, 0xEE]
    ∧ (ValidationFailure.vConflict 2 1 3).details = [.number 1 2, .number 1 1, .number 1 3]
    ∧ passDetails .base 750 (some (900, false)) =
        [.named (.cls .base), .number 2 750, .number 2 900, .named (.stretched false)] := by decide +kernel

/-- The bytes of -512 and of 80 in each code a measured offset may stand in, most significant first (R175; log entry
50); and the offset of 80 that fails an attempt (spec/07), as a channel read shows it, is such a number. -/
theorem test_measured_offset :
    let two := fun (form : SignForm) v => fieldBytes 2 (form.code 2 v)
    two .twosComplement (-512) = [0xFE, 0x00] ∧ two .onesComplement (-512) = [0xFD, 0xFF]
    ∧ two .signMagnitude (-512) = [0x82, 0x00] ∧ two .excess (-512) = [0x7E, 0x00]
    ∧ two .twosComplement 80 = [0x00, 0x50] ∧ two .excess 80 = [0x80, 0x50]
    ∧ (let failed := { town with channel := { idleChannel with
        lastRecord := some { kind := .short, pass := false, offset := 80, gain := some 1031, ended := 0 } } }
      (failed.view 8 0 .full).map (·.wideNumbers) =
        some [.plain 2 1024, .signed 2 80, .plain 3 1031]) := by decide +kernel

/-- A window in flight on a circuit, in a state. -/
def measuring (c : CircuitIx) (kind : WindowKind) (owed : Bool) (s : State) : State :=
  { s with channel := { idleChannel with
      state := .measuring, owed := owed, inFlight := some { circuit := c, kind := kind, start := s.now } } }

/-- The worked plans of spec/03, with C = 700 and with stage 3 split 50 too. -/
theorem test_derived_fields : town.derive plan1 = derived1 ∧ town.derive plan5 = derived5
    ∧ town.derive plan9 = derived9
    ∧ (town.derive { plan1 with fields := .base 700 200 1 }).base =
        some { ceff := 750, stretched := true, slackSplit := 300, slackFloor := 70 }
    ∧ (town.derive { plan1 with stages := [⟨[0, 1], 300⟩, ⟨[2], 150⟩, ⟨[3], 50⟩] }).effective =
        [300, 150, 60] := by decide +kernel

/-- The validation failures of spec/03's second worked case. -/
theorem test_validation_failures :
    town.validationFailure { stages := [⟨[0, 2], 300⟩, ⟨[3], 100⟩], fields := .base 600 650 3 } =
      some (.vConflict 1 1 3)
    ∧ town.validationFailure { stages := [⟨[0, 1], 300⟩, ⟨[3], 100⟩], fields := .base 600 650 3 } =
      some (.vSlack 3 2)
    ∧ town.validationFailure { stages := [⟨[0, 1], 300⟩, ⟨[3], 100⟩], fields := .base 600 650 1 } =
      some (.vRange false)
    ∧ town.validationFailure plan5 = none := by decide +kernel

/-- The corrections table of spec/04. -/
theorem test_corrections :
    let x : BaseDerived := { ceff := 900, stretched := false, slackSplit := 450, slackFloor := 70 }
    [850, 500, 100, 450, 250, 702].map (correction 900 200 x) =
      [some ⟨.lengthen, 150⟩, some ⟨.shorten, 200⟩, some ⟨.lengthen, 300⟩, some ⟨.shorten, 250⟩,
       some ⟨.lengthen, 450⟩, none] := by decide +kernel

/-- The corrected readings of spec/07. -/
theorem test_corrected_readings :
    let ch := { idleChannel with offset := 12, gain := 1034 }
    [1530, 8, 4095, 1990].map ch.corrected = [1533, 0, 4095, 1997]
    ∧ (ch.darkValues 1990 0 0).voltage = 49 := by decide +kernel

/-- The calibrations of spec/07: sums 472 and 159400 of 40, and the short one's four readings. -/
theorem test_calibrations :
    let zero := List.replicate 32 12 ++ List.replicate 8 11
    let span := List.replicate 40 3985
    (calRecord .long zero span 0).offset = 12 ∧ (calRecord .long zero span 0).gain = some 1031
    ∧ (calRecord .long zero span 0).pass = true
    ∧ (calRecord .short [11, 13] [3972, 3974] 0).offset = 12
    ∧ (calRecord .short [11, 13] [3972, 3974] 0).gain = some 1034
    ∧ (calRecord .short [80, 80] [3974, 3974] 0).pass = false := by decide +kernel

/-- The worked cases of classification of spec/08. -/
theorem test_classification :
    classify 3 4 (some 300) 300 = (.proven, some 3) ∧ classify 3 4 (some 300) 225 = (.partialOut, some 2)
    ∧ classify 3 4 (some 300) 75 = (.out, some 0) ∧ classify 2 0 (some 400) 200 = (.partialOut, some 1)
    ∧ classify 2 8 (some 400) 300 = (.partialOut, some 1) ∧ classify 2 8 (some 400) 200 = (.out, some 0)
    ∧ classify 1 4 (some 300) 449 = (.proven, some 1) ∧ classify 1 4 (some 300) 450 = (.overcurrent, none)
    ∧ classify 1 0 (some 4000) 4095 = (.overcurrent, none) ∧ classify 2 4 none 180 = (.unproven, none) := by
  decide +kernel

/-- The two attempts of spec/08's training: the first fails, the second gives 301 mA. -/
theorem test_training :
    let begun := Training.begun .full
    ([296, 350, 301, 299].foldl Training.sample begun).passes = false
    ∧ ([298, 305, 301, 300].foldl Training.sample begun).passes = true
    ∧ ([298, 305, 301, 300].foldl Training.sample begun).mean = 301 := by decide +kernel

/-- The leakage alarm of spec/09 and its return, at baseline leakage 12. -/
theorem test_leakage_alarm :
    let k : CablePart := { (Circuit.atReset 0).cable with
      baseline := some { leakage := 12, charge := 60 }, state := .normal }
    let read := fun (k : CablePart) (l : Nat) =>
      (k.judged false true { voltage := 0, leakage := l, charge := 60 }).1
    ([35].foldl read k).state = .suspect
    ∧ ([35, 63, 63].foldl read k).count = 2
    ∧ ([35, 63, 63, 70].foldl read k).state = .alarm .leak
    ∧ ([35, 63, 63, 70, 40, 15, 14, 13].foldl read k).count = 3
    ∧ ([35, 63, 63, 70, 40, 15, 14, 13].foldl read k).state = .alarm .leak := by decide +kernel

/-- The first worked sequence of spec/02: group 4's green ended at 200.0 s gives groups 1 and 2 Tg 208.0. -/
theorem test_guard_answer :
    let s := { supplied .running [.red, .red, .red, .red] with now := 200000 }
    let s := s.setGroup 3 { s.group 3 with greenOff := 200000 }
    ((s.requestGreen 0 200000).group 0).awaited = some 208000
    ∧ ((s.requestGreen 0 200000).requestGreen 1 200000).guard = [] := by decide +kernel

/-! ## One step -/

/-- A start from DARK flashes the vehicle groups (spec/10's worked start). -/
theorem test_start : (after (exec .start town)).junction.state = .startFlash
    ∧ ((after (exec .start town)).group 0).aspect = .flashAmber
    ∧ ((after (exec .start town)).group 3).aspect = .dark := by decide +kernel

/-- Stage 1 of the worked plan ends at 53.0 s: groups 1 and 2 lose, group 3 awaits its green at 59.0 s. -/
theorem test_stage_end : (running 52999).stageEndDue = false
    ∧ (after (exec .stageEnd (running 53000))).seq.stage = some 2
    ∧ ((after (exec .stageEnd (running 53000))).group 0).aspect = .amber
    ∧ ((after (exec .stageEnd (running 53000))).group 2).awaited = some 59000 := by decide +kernel

/-- At the end of stage 3 plan 5 is switched in (R80). -/
theorem test_plan_switch : (after (exec .stageEnd (lastStage 90000))).seq.current = some 4
    ∧ ((after (exec .stageEnd (lastStage 90000))).plan 0).phase = some .ready := by decide +kernel

/-- A write under RUNNING is refused STATE, and one past the table RANGE. -/
theorem test_refused_writes :
    (after (exec (.retireRecordGroup 1) (running 9000))).reply = some ⟨.state, .empty⟩
    ∧ (after (exec (.retireRecordGroup 17) town)).reply = some ⟨.range, .empty⟩ := by decide +kernel

/-- An UPDATE_FIELDS of a group that names no field. -/
def noChange : GroupChanges :=
  { kind := .keep, reds := .keep, amber := .keep, green := .keep, minGreen := .keep, amberTime := .keep,
    redAmber := .keep }

/-- An UPDATE_FIELDS of a plan that names no item. -/
def planUnchanged : PlanChanges :=
  { cls := .keep, stages := .keep, edits := [], cycle := .keep, offset := .keep, slack := .keep,
    minDwell := .keep, maxDwell := .keep }

/-- A safety-class write demotes the READY plans (R47; spec/03's worked demotion). -/
theorem test_demotion :
    let t := after (exec (.updateFieldsGroup 3 { noChange with minGreen := .to 200 }) town)
    t.reply = some ⟨.ok, .empty⟩ ∧ t.plan 0 = .draft plan1
    ∧ (after (exec .start (after (exec .chipSelectReleased t)))).reply = some ⟨.noPlan, .empty⟩
    ∧ (t.derive plan1).demand = 800 := by decide +kernel

/-- A dark window on green circuit 9 that reads V 71 locks the junction out (spec/09's worked sequence). -/
def foreign : State :=
  { supplied .startFlash [.flashAmber, .flashAmber, .flashAmber, .dark] with
    now := 260
    channel := { idleChannel with
      state := .measuring, inFlight := some { circuit := 8, kind := .dark .watch 240, start := 240 } } }

theorem test_foreign_green :
    let t := after (exec (.darkWindowEnd 2840 0 0) foreign)
    t.junction.state = .lockout ∧ (t.circuit 8).cable.state = .alarm .foreignVoltage
    ∧ t.junction.lockout.map (·.cause) = some .foreignGreen ∧ t.output.safeEnable = false := by
  decide +kernel

/-- The end of the dwell returns to stage 1 of the base plan. -/
theorem test_dwell_end : (after (exec .dwellEnd (dwelling 80000 false))).pre.chain.length = 1
    ∧ (after (exec .dwellEnd (dwelling 80000 false))).seq.stage = some 1 := by decide +kernel

/-- An assertion over the base context is accepted and truncates stage 1. -/
theorem test_preempt : (after (exec (.preemptAssert 5) (withEntries 40000))).reply = some ⟨.ok, .word 0⟩
    ∧ (after (exec (.preemptAssert 5) (withEntries 40000))).pre.chain.length = 2 := by decide +kernel

/-- READ_STATUS of the state after reset: CAL_LONG, every kind of attention clear, position absent. -/
theorem test_status : State.reset.statusBytes =
    [0, 0, 0, 0, 0, 255, 255, 0, 0, 0, 0, 0, 0, 0, 0, 0, 0, 0, 0, 0, 0, 0, 0, 0, 0, 0, 0, 0, 0, 0] := by
  decide +kernel

/-! ## WellFormed refuses what no source can deliver -/

theorem test_illFormed_reading : (Instr.litWindowEnd 4096).wellFormed = false
    ∧ (Instr.litWindowEnd (-513)).wellFormed = false ∧ (Instr.litWindowEnd (-512)).wellFormed = true := by
  decide +kernel

theorem test_illFormed_dark : (Instr.darkWindowEnd 4096 0 0).wellFormed = false
    ∧ (Instr.darkWindowEnd 0 4096 0).wellFormed = false ∧ (Instr.darkWindowEnd 0 0 4096).wellFormed = false := by
  decide +kernel

theorem test_illFormed_calibration : (Instr.longCalibrationEnd [0] [4000]).wellFormed = false
    ∧ (Instr.shortCalibrationAttemptEnd [0, 0] [4000]).wellFormed = false
    ∧ (Instr.shortCalibrationAttemptEnd [0, -513] [4000, 4000]).wellFormed = false
    ∧ (Instr.shortCalibrationAttemptEnd [0, 0] [4000, 4096]).wellFormed = false := by decide +kernel

theorem test_illFormed_number : (Instr.prqAsserted 5).wellFormed = false
    ∧ (Instr.prqReleased 0).wellFormed = false ∧ (Instr.prqLineChange 5 true).wellFormed = false
    ∧ (Instr.redAmberBegin 17).wellFormed = false ∧ (Instr.greenStart 0).wellFormed = false
    ∧ (Instr.amberEnd 17).wellFormed = false ∧ (Instr.provingRequestDue 49).wellFormed = false
    ∧ (Instr.provingRequestDrop 0).wellFormed = false ∧ (Instr.watchCheckDue 49).wellFormed = false
    ∧ (Instr.monitorLate 49).wellFormed = false ∧ (Instr.watchAgeLimit 0).wellFormed = false
    ∧ (Instr.roundEligible 49).wellFormed = false := by decide +kernel

theorem test_illFormed_frame : (Instr.requestRefused (List.replicate 65 0)).wellFormed = false
    ∧ (Instr.requestRefused (List.replicate 64 0)).wellFormed = true := by decide +kernel

/-! ## Hypotheses met: for each obligation with hypotheses, a state and operands that meet them -/

theorem test_idleStepsAndEvents_met :
    town.pending = [] ∧ town.resetHeld = false ∧ town.dueEvents = []
    ∧ ({ town with now := 1000 } : State).dueEvents ≠ [] ∧ { town with now := 999 }.dueEvents = []
    ∧ town.redAmberDue 0 = false ∧ town.greenDue 0 = false ∧ town.amberDue 0 = false
    ∧ town.flashDue = false ∧ town.stageEndDue = false ∧ town.latchDue = false ∧ town.dwellEndDue = false
    ∧ town.loseDue .clearance = false ∧ town.loseDue .interstage = false
    ∧ town.maxDwellDue = false ∧ town.syncExpired = false ∧ town.now < town.sched.nextSecond
    ∧ town.startFlashEndDue = false ∧ town.startRedEndDue = false ∧ town.allRedEndDue = false
    ∧ town.prqAssertDue 0 = false ∧ town.prqReleaseDue 0 = false ∧ town.shortDueNow = false
    ∧ town.requestDue 0 = false ∧ town.dropDue 0 = false ∧ town.settlingDue = false
    ∧ town.checkDue 0 = false ∧ town.lateDue 0 = false ∧ town.ageReached 0 4000 = false
    ∧ town.eligible 0 = false ∧ town.litWindow = none ∧ town.darkWindow = none
    ∧ town.attemptEnding .long 2000 = none ∧ town.attemptEnding .short 100 = none := by decide +kernel

theorem test_nothingRunsWhileResetIsHeld_met : ({ town with resetHeld := true } : State).resetHeld = true
    ∧ isCommand .readStatus = true ∧ town.link.transaction = .idle
    ∧ (town.accept .empty).link.transaction ≠ .idle
    ∧ isCommand .syncPulse = false ∧ Instr.syncPulse ≠ .resetNAsserted ∧ Instr.syncPulse ≠ .lineReset
    ∧ Instr.syncPulse ≠ .powerOnReset ∧ Instr.syncPulse ≠ .chipSelectReleased
    ∧ ∀ a, Instr.syncPulse ≠ .prqLineChange 1 a := by
  exact ⟨rfl, rfl, rfl, nofun, rfl, by decide, by decide, by decide, by decide, by decide⟩

/-- A live state, with SAFE_ENABLE active and inactive (the soft reset, status, attention and lock
statements). -/
theorem test_live_met : town.Listens ∧ town.output.safeEnable = false
    ∧ (running 9000).Listens ∧ (running 9000).output.safeEnable = true := by decide +kernel

theorem test_lockLevelsRefuse_met :
    let locked := fun l : LockLevel => { town with link := { town.link with lock := l } }
    (locked .safety).link.lock ≠ .openLevel ∧ (locked .all).link.lock = .all
    ∧ (recordKinds .write).contains 10 = false ∧ (recordKinds .retire).contains 2 = false
    ∧ (recordKinds .update).contains 0 = false := by decide +kernel

/-- A length byte of 61 and of 60, a CRC that differs, an unknown opcode, a payload on READ_STATUS. -/
theorem test_portChecksInOrder_met :
    60 < (61 : Byte).toNat ∧ (60 : Byte).toNat ≤ 60 ∧ (60 : Byte).toNat + 2 ≤ (List.replicate 62 (0 : Byte)).length
    ∧ crc (([0x30, 60] ++ List.replicate 62 0 : List Byte).take 62) ≠
        crcAt ([0x30, 60] ++ List.replicate 62 0) 62
    ∧ crc (([0xFF, 0x00, 0x1E, 0xF0] : List Byte).take 2) = crcAt [0xFF, 0x00, 0x1E, 0xF0] 2
    ∧ (0xFF : Byte).toNat ∉ opcodes
    ∧ crc (([0x30, 0x01, 0x00, 0x3A, 0x08] : List Byte).take 3) = crcAt [0x30, 0x01, 0x00, 0x3A, 0x08] 3
    ∧ 0 < (0x01 : Byte).toNat
    ∧ commandOf [0x30, 0x00, 0x18, 0x9A] = some .readStatus ∧ isCommand .readStatus = true
    ∧ commandOf (closeFrame [0x32, 3, 0x01, 0x02, 0x03]) = some (.setAttentionMask 0x010203)
    ∧ (after (exec .readStatus town)).link.transaction ≠ .idle ∧ town.Listens
    ∧ ([] : List Byte).length < (0 : Byte).toNat + 2 ∧ ([0x30] : List Byte).length < 2 := by decide +kernel

theorem test_refusedCommandsChangeNothing_met : isCommand .flash = true
    ∧ exec .flash town = .next (town.refuse .state)
    ∧ (town.refuse .state).reply = some { status := .state, payload := .empty } :=
  ⟨rfl, rfl, rfl⟩

/-- A two-byte number of a payload, its most significant byte first (R175). -/
theorem test_wideNumber :
    PayloadForm.layOut { lead := [7], rank := id, spare := fun _ => 0, behind := fun _ => [9] }
      [.plain 2 300] = [7, 0x01, 0x2C, 9] := by decide +kernel

theorem partsOf_pos (n : Nat) : 0 < partsOf n := by unfold partsOf; split <;> omega

/-- Refused kinds and indices at their ends. -/
theorem test_recordReads_refused : town.view 0 1 .full = none ∧ town.view 11 1 .full = none
    ∧ town.view 1 17 .full = none ∧ town.view 2 49 .full = none ∧ town.view 5 9 .full = none
    ∧ town.Listens := by decide +kernel

/-- A record with its first part, and one beyond the last. -/
theorem test_recordReadsInParts_met : ∃ w, town.view 1 16 .full = some w
    ∧ 0 < partsOf w.toBytes.length
    ∧ ∃ part, partsOf w.toBytes.length ≤ part :=
  ⟨_, rfl, partsOf_pos _, _, le_refl _⟩

/-- A whole vehicle record in the empty group 5, its amber time equal to the default intergreen 50; group 1
for the update and the retirement. -/
def newGroup : GroupConfig :=
  { reds := [12, 13], green := 15, minGreen := 50,
    vehicle := some { amber := 14, amberTime := 50, redAmber := 0 } }

theorem test_groupWritesStore_met :
    town.Listens ∧ town.link.lock = .openLevel ∧ town.output.safeEnable = false ∧ newGroup.circuits.Nodup
    ∧ (∀ h : GroupIx, ∀ m ∈ (town.group h).config, h ≠ 4 → ∀ c ∈ newGroup.circuits, c ∉ m.circuits)
    ∧ (∀ v ∈ newGroup.vehicle, ∀ l : GroupIx, ∀ n ∈ town.intergreen 4 l, v.amberTime ≤ n)
    ∧ newGroup.toFields.check = some newGroup
    ∧ (town.group 0).config = some (veh 0 1 2 70)
    ∧ (GroupChanges.apply { noChange with minGreen := .to 300 } (veh 0 1 2 70).toFields).check =
        some (veh 0 1 2 300) := by decide +kernel

/-- The refusals: numbers 0 and 17, an empty group, a record and an update out of range, a circuit taken by group 1
and one named twice, an amber over the intergreen. -/
theorem test_groupWritesRefuseInOrder_met :
    (running 9000).output.safeEnable = true ∧ town.output.safeEnable = false ∧ 16 < 17
    ∧ number (4 : GroupIx) = 5 ∧ (town.group 4).config = none
    ∧ { newGroup with minGreen := 49 }.toFields.check = none
    ∧ (GroupChanges.apply { noChange with minGreen := .to 301 } (veh 0 1 2 70).toFields).check = none
    ∧ { newGroup with green := 0 }.toFields.check = some { newGroup with green := 0 }
    ∧ (0 : CircuitIx) ∈ (veh 0 1 2 70).circuits ∧ (town.group 0).config = some (veh 0 1 2 70)
    ∧ 2 ≤ { newGroup with green := 12 }.circuits.count 12
    ∧ (let s := town.setPair 4 5 (some (29, 0))
       (veh 12 13 14 70).toFields.check = some (veh 12 13 14 70) ∧ s.intergreen 4 5 = some 29
       ∧ ∀ c ∈ (veh 12 13 14 70).circuits, (veh 12 13 14 70).circuits.count c < 2
          ∧ ∀ h : GroupIx, ∀ m ∈ (s.group h).config, h ≠ 4 → c ∉ m.circuits) := by decide +kernel

/-- A record at the ends of its ranges and one past each, one that changes nothing, one that changes the technology
under SAFETY and under SAFE_ENABLE, and partial updates. -/
theorem test_circuitWritesStore_met : town.Listens ∧ town.link.lock ≠ .all ∧ town.link.lock = .openLevel
    ∧ (some Technology.led ≠ some (town.circuit 0).technology)
    ∧ (1 ≤ 4 ∧ 8 ≤ 8 ∧ (Technology.led = .incandescent → 8 = 0))
    ∧ ¬((Technology.incandescent = .incandescent → 1 = 0) ∧ 4 ≤ 4)
    ∧ (1 = (town.circuit 0).heads ∧ 0 = (town.circuit 0).residual
      ∧ Technology.incandescent = (town.circuit 0).technology)
    ∧ (running 9000).output.safeEnable = true ∧ (running 9000).link.lock = .openLevel
    ∧ ({ town with link := { town.link with lock := .safety } } : State).link.lock = .safety
    ∧ Change.apply (.to 4) (some (town.circuit 0).heads) = some 4
    ∧ Change.apply .keep (some (town.circuit 0).residual) = some 0
    ∧ Change.apply (.absent : Change Nat) (some (town.circuit 0).heads) = none := by decide +kernel

/-- Group 1 RED in RUNNING on red circuits 1 and 13, circuit 1 lit and circuit 13 confirmed OUT. -/
def twoReds : State :=
  let s := supplied .running [.red, .red, .red, .red]
  let s := s.setGroup 0 { s.group 0 with config := some { veh 0 1 2 70 with reds := [0, 12] } }
  let s := s.setLamp 0 { (s.circuit 0).lamp with fullRef := some 300, state := .proven }
  s.setLamp 12 { (s.circuit 12).lamp with fullRef := some 300, state := .out }

/-- FORGET_CIRCUIT of the lit one leaves the group LOST: RED_LOST names group 1 and circuit 13 (R8, R145). -/
theorem test_forget_red_lost :
    let t := after (exec (.forgetCircuit 1) twoReds)
    twoReds.redStatus 0 = .lit ∧ t.junction.state = .lockout ∧ t.reply = some ⟨.ok, .empty⟩
    ∧ t.junction.lockout.map (fun r => (r.cause, r.group, r.circuit)) = some (.redLost, some 0, some 12) := by
  decide +kernel

theorem test_forgetJudges_met :
    let u := twoReds.setLamp 0 (twoReds.circuit 0).lamp.forgotten
    twoReds.assignment 0 = some { group := 0, aspect := .red } ∧ twoReds.Listens ∧ twoReds.link.lock ≠ .all
    ∧ (twoReds.circuit 0).lamp.state ≠ .unmeasured ∧ twoReds.output.safeEnable = true
    ∧ u.redLost 0 = true := by decide +kernel

/-- Pair {1, 3} written with the group 1 intergreen at its amber time, 30, and 150; one below it; made not
conflicting; and an update of one intergreen alone. -/
theorem test_conflictWritesStore_met : town.Listens ∧ (0 : GroupIx) ≠ 2 ∧ town.conflicting 0 2 = true
    ∧ (∀ k ∈ (town.group 0).config, ∀ w ∈ k.vehicle, w.amberTime ≤ 30)
    ∧ (∀ k ∈ (town.group 2).config, ∀ w ∈ k.vehicle, w.amberTime ≤ 150)
    ∧ (town.group 0).config = some (veh 0 1 2 70) ∧ ¬(30 ≤ 29)
    ∧ Change.apply .keep (some (town.conflicting 0 2)) = some true
    ∧ Change.apply (.to 40) (town.intergreen 0 2) = some 40
    ∧ Change.apply .keep (town.intergreen 2 0) = some 50
    ∧ (running 9000).Listens ∧ (running 9000).output.safeEnable = true := by decide +kernel

/-- Times at the ends of their ranges, one past, and an update of one alone; a kind that is never retired. -/
theorem test_junctionWritesStore_met : town.Listens ∧ town.link.lock = .openLevel
    ∧ town.output.safeEnable = false ∧ 50 ≤ 50 ∧ 300 ≤ 300 ∧ 30 ≤ 30 ∧ 100 ≤ 100 ∧ ¬(301 ≤ 300)
    ∧ Change.apply (.to 300) (some town.junction.startFlash) = some 300
    ∧ Change.apply .keep (some town.junction.startRed) = some 50
    ∧ Change.apply .keep (some town.junction.allRed) = some 30
    ∧ (running 9000).output.safeEnable = true
    ∧ (recordKinds .retire).contains 3 = false := by decide +kernel

/-- Plan 5 not in use with fields of plan 5's own, a split out of range, an update past its list and one that names a
split as absent; plan 1 in use as SELECTED, ACTIVE and current. -/
theorem test_planWritesMakeDraft_met : town.planBusy 4 = false
    ∧ (town.plan 4).toFields.check = some plan5 ∧ town.plan 4 ≠ .free
    ∧ (PlanChanges.indicesHeld { planUnchanged with edits := [⟨2, .keep, .to 1200⟩] } (town.plan 4).toFields
        = true
      ∧ (PlanChanges.apply { planUnchanged with edits := [⟨2, .keep, .to 1200⟩] } (town.plan 4).toFields).check
        = some { plan5 with stages := [⟨[0, 1], 300⟩, ⟨[3], 1200⟩] })
    ∧ { plan5 with stages := [⟨[0, 1], 1201⟩] }.toFields.check = none
    ∧ (PlanChanges.apply { planUnchanged with edits := [⟨2, .keep, .absent⟩] } (town.plan 4).toFields).check = none
    ∧ ((town.plan 4).toFields.stages.getD []).length < 3 ∧ town.plan 1 = .free
    ∧ ((running 9000).plan 0).phase = some .active ∧ ((lastStage 80000).plan 4).phase = some .selected
    ∧ ((dwelling 80000 true).plan 8).phase = some .invoked
    ∧ (supplied .startFlash []).junction.state = .startFlash
    ∧ (supplied .startFlash []).seq.current = some 0 := by decide +kernel

/-- A FREE plan, a READY one, a DRAFT that fails and one that passes. -/
theorem test_validationMakesReady_met : town.plan 1 = .free ∧ town.plan 0 = .valid .ready plan1 derived1
    ∧ (town.setPlan 1 (.draft plan5)).plan 1 = .draft plan5
    ∧ (town.setPlan 1 (.draft plan5)).validationFailure plan5 = none
    ∧ (town.setPlan 1 (.draft { plan5 with fields := .base 600 600 1 })).validationFailure
        { plan5 with fields := .base 600 600 1 } = some (.vRange false) := by decide +kernel

/-- Ascending green sets: no stage at all; a missing group in stage 2, the lowest of two; a conflicting pair with none
missing; a slack index of 3 in 2 stages, and one in range with the offset at C; dwells out of order. -/
theorem test_validationNamesTheFirst_met :
    let stages : List Stage := [⟨[0, 2], 50⟩, ⟨[1, 5, 6], 50⟩]
    (∀ x ∈ stages ++ plan5.stages, x.green.Pairwise (· < ·)) ∧ (town.group 5).config = none
    ∧ (town.group 6).config = none ∧ (∀ g : GroupIx, g < 4 → (town.group g).config ≠ none)
    ∧ town.validationFailure { plan5 with stages := [] } = some (.vStages 0)
    ∧ town.validationFailure { plan5 with stages := stages } = some (.vGroup 2 6)
    ∧ town.validationFailure { plan5 with stages := stages.take 1 } = some (.vConflict 1 1 3)
    ∧ (∀ x ∈ plan5.stages, ∀ g ∈ x.green, ∀ h ∈ x.green, town.conflicting g h = false)
    ∧ town.validationFailure { plan5 with fields := .base 600 50 3 } = some (.vSlack 3 2)
    ∧ town.validationFailure { plan5 with fields := .base 600 600 2 } = some (.vRange false)
    ∧ town.validationFailure { plan5 with fields := .preempt 101 100 } = some (.vRange true) := by decide +kernel

/-- The worked plan's first transition: group 1 gains in it and group 4 loses. -/
theorem test_cycleArithmetic_met : plan1.fields = .base 900 200 (0 + 1) ∧ 0 < plan1.stages.length
    ∧ (0 : GroupIx) ∈ plan1.greens 1 ∧ (0 : GroupIx) ∉ plan1.greens 3 ∧ (3 : GroupIx) ∈ plan1.greens 3
    ∧ (3 : GroupIx) ∉ plan1.greens 1 ∧ town.intergreen 3 0 = some 80 ∧ (town.derive plan1).interstage 1 = 80
    ∧ (town.derive plan1).base =
        some { ceff := 900, stretched := false, slackSplit := 450, slackFloor := 70 } := by decide +kernel

/-- Entry 5 not engaged with fields as held, an update to them, its retirement; entry 1 engaged, lengths 0, 1
and 8. -/
theorem test_entryWritesStore_met :
    (4 : EntryIx) ∉ (withEntries 9000).engaged ∧ entry5.toFields.check 4 = some (some entry5)
    ∧ ((withEntries 9000).entry 4).config = some entry5
    ∧ EntryChanges.apply { present := .keep, plan := .keep, priority := .keep, source := .keep }
        entry5.toFields = some entry5.toFields
    ∧ (0 : EntryIx) ∈ (dwelling 80000 true).engaged ∧ 0 ≤ 8 ∧ 0 < number (0 : EntryIx)
    ∧ ((dwelling 80000 true).entry 0).config ≠ none ∧ ((withEntries 9000).entry 1).config = none ∧ 8 < 9
    ∧ (∀ i ∈ (dwelling 80000 true).engaged, number i ≤ 1) := by decide +kernel

/-- Check 5 at its edges: present no with nothing given and with a plan out of range; priority 4 and 5; LINE for
entries 4 and 5; a source that is none of the two; a present entry without a plan; the present flag as absent. -/
theorem test_entryChecks_met :
    let off : EntryFields := { present := false, plan := none, priority := none, source := none }
    let four := { entry1.toFields with priority := some 4 }
    off.check 1 = some none ∧ { off with plan := some 17 }.check 1 = none
    ∧ four.check 3 = some (some { entry1 with priority := 4 }) ∧ { four with priority := some 5 }.check 3 = none
    ∧ four.check 4 = none ∧ { four with source := some .other }.check 3 = none
    ∧ { four with plan := none }.check 3 = none
    ∧ EntryChanges.apply { present := .absent, plan := .keep, priority := .keep, source := .keep } four = none := by
  decide +kernel

/-- One point at 1439, and a full table of points at minutes 0 to 23. -/
def withPoints (points : List SwitchPoint) (clock : Nat) : State :=
  { town with sched := { town.sched with points := points, clock := clock, clockSet := true } }

theorem test_schedulePointsAndClock_met :
    let one := withPoints [{ time := 1439, plan := 0, dim := .on }] 86339
    let full := withPoints ((List.range 24).map fun m => { time := m, plan := 0, dim := .keep }) 0
    one.sched.points.Pairwise (fun x y => x.time < y.time) ∧ one.sched.points.length < 24
    ∧ (∃ x ∈ one.sched.points, x.time = 1439) ∧ (∀ x ∈ one.sched.points, x.time ≠ 0)
    ∧ full.sched.points.Pairwise (fun x y => x.time < y.time) ∧ 24 ≤ full.sched.points.length
    ∧ (∃ x ∈ full.sched.points, x.time = 23) ∧ (∀ x ∈ full.sched.points, x.time ≠ 24)
    ∧ ({ one with now := 1000 } : State).sched.nextSecond ≤ 1000 ∧ one.sched.clockSet = true
    ∧ (86339 + 1) % 86400 % 60 = 0
    ∧ one.pointAt ((86339 + 1) % 86400 / 60) = some { time := 1439, plan := 0, dim := .on }
    ∧ full.pointAt 24 = none ∧ town.sched.clockSet = false ∧ one.Listens ∧ full.Listens := by decide +kernel

/-- A point's dim action ON at 23:59 begins the settling interval of a DIM command (R111, R136). -/
theorem test_point_dims :
    let t := after (exec .clockSecond { withPoints [{ time := 1439, plan := 0, dim := .on }] 86339 with now := 1000 })
    t.output.dim = true ∧ t.sup.settlingEnd = some 2000 ∧ t.sched.current = some 1439 := by decide +kernel

/-- An assigned and a SPARE circuit; a table of groups with none present; LEARN_CABLE's circuits. -/
theorem test_learningBegins_met : town.link.lock ≠ .all ∧ town.assigned 0 = true ∧ town.assigned 47 = false
    ∧ (∀ c : CircuitIx, State.reset.assigned c = false)
    ∧ (town.circuit 0).cable.state.isAlarm = false
    ∧ ({ town with link := { town.link with lock := .all } } : State).link.lock = .all := by decide +kernel

def inAlarm (count : Nat) : State :=
  town.setCable 0 { (town.circuit 0).cable with
    state := .alarm .leak, count := count, counted := some .clear }

theorem test_acknowledgementLeavesAlarm_met : ((inAlarm 3).circuit 0).cable.state.isAlarm = true
    ∧ ((inAlarm 2).circuit 0).cable.state.isAlarm = true
    ∧ ((inAlarm 3).circuit 1).cable.state.isAlarm = false
    ∧ (after (exec .ackCableAll (inAlarm 3))).holds .cableAlarm = true
    ∧ (after (exec .ackCableAll (inAlarm 2))).holds .cableAlarm = false := by decide +kernel

theorem test_recalibrateByChannelState_met : town.channel.state = .ready ∧ foreign.channel.state = .measuring
    ∧ State.reset.channel.state = .calLong := by decide +kernel

theorem test_dimChangesTheLevel_met : town.output.dim = false ∧ town.output.dim ≠ true := by decide +kernel

/-- DARK and FLASH with groups, RUNNING, no groups; a channel in FAULT; a plan not READY; the plan ready. -/
theorem test_startBeginsTheSequence_met :
    (running 9000).junction.state ≠ .dark ∧ (running 9000).junction.state ≠ .flash
    ∧ (∀ g : GroupIx, (State.reset.group g).config = none)
    ∧ town.junction.state = .dark ∧ (∃ g : GroupIx, (town.group g).config ≠ none)
    ∧ (supplied .flash []).junction.state = .flash ∧ (∃ g : GroupIx, ((supplied .flash []).group g).config ≠ none)
    ∧ town.channel.state ≠ .fault ∧ town.seq.current = some 0 ∧ (town.plan 0).phase = some .ready
    ∧ (town.plan 0).isBase = true
    ∧ ({ town with plans := plansIn .selected } : State).plan 0 = .valid .selected plan1 derived1 := by
  decide +kernel

/-- The greens of stage 1 began at 8.0 s with min green 7.0 s: FLASH at 9.0 s ends them at 15.0 s, and at 15.0 s at
once; one taken in a dwell leaves the invoked plan 9 READY (R81, R103). -/
theorem test_flash_greens :
    (after (exec .flash (running 9000))).seq.loseAt = some 15000
    ∧ ((after (exec .flash (running 9000))).group 0).aspect = .green
    ∧ ((after (exec .flash (running 15000))).group 0).aspect = .amber
    ∧ (after (exec .flash (running 15000))).seq.loseAt = none
    ∧ ((after (exec .flash (dwelling 80000 true))).plan 8).phase = some .ready := by decide +kernel

theorem test_flashBeginsTheClearance_met :
    (running 9000).junction.state = .running ∧ (running 9000).junction.clearance = none
    ∧ (running 9000).seq.greenStarts.get 0 = some 8000 ∧ ¬(8000 + 100 * (running 9000).minGreen 0 ≤ 9000)
    ∧ (lastStage 80000).seq.pendingPlan = some 4 ∧ (dwelling 80000 true).pre.chain.length = 2
    ∧ (supplied .startRed []).junction.state = .startRed ∧ (supplied .startRed []).junction.clearance = none
    ∧ (supplied .flash []).junction.state = .flash ∧ town.junction.state = .dark
    ∧ (dwelling 80000 true).preempted = true := by decide +kernel

theorem test_darkTurnsTheOutputsOff_met : (running 9000).junction.state.supplied = true
    ∧ (running 9000).junction.state = .running ∧ town.junction.state = .dark
    ∧ ({ town with junction := { town.junction with state := .lockout } } : State).junction.state = .lockout := by
  decide +kernel

/-- DARK in a window, lit on circuit 3 or dark on circuit 9: it is void, and a lit circuit's period is closed; an owed
calibration begins (R124, R125, R131, R133). -/
theorem test_dark_voids :
    let lit := after (exec .dark (measuring 2 (.lit .full) false (running 9000)))
    let dark := after (exec .dark (measuring 8 (.dark .watch 300) true (running 9000)))
    lit.channel = idleChannel ∧ (lit.circuit 2).schedule = { litSince := none, nextDue := none, presented := none }
    ∧ ((running 9000).circuit 2).drive.on = true ∧ ((running 9000).circuit 8).drive.on = false
    ∧ dark.channel = idleChannel.beginLong 9000 := by decide +kernel

theorem test_lockoutIsTakenAndCleared_met :
    let locked := { town with junction := { town.junction with state := .lockout } }
    (running 9000).output.safeEnable = true ∧ (running 9000).junction.state ≠ .dark
    ∧ town.junction.state = .dark ∧ locked.junction.state = .lockout ∧ locked.output.safeEnable = false
    ∧ town.junction.state ≠ .lockout := by decide +kernel

/-- A point of a plan at minute 0, current. -/
def held (p : PlanIx) : State :=
  let s := withPoints [{ time := 0, plan := p, dim := .keep }] 0
  { s with sched := { s.sched with current := some 0 } }

/-- A selection of plan 5 owed in START_RED, paid at the entry to DARK, LOCKOUT and FLASH (R113). -/
theorem test_owed_paid :
    let s := { held 4 with
      output := { safeEnable := true, safeSince := 0, dim := false, flash := none }
      now := 9000
      junction := { town.junction with state := .startRed, clearance := some (.allRed 6000) }
      sched := { (held 4).sched with owed := true } }
    s.sched.owed = true ∧ s.sched.hold = false ∧ s.pointAt 0 = some { time := 0, plan := 4, dim := .keep }
    ∧ (after (exec .dark s)).seq.current = some 4 ∧ (after (exec .dark s)).sched.owed = false
    ∧ (after (exec .lockout s)).seq.current = some 4 ∧ (after (exec .allRedEnd s)).seq.current = some 4 := by
  decide +kernel

/-- Barred in START_RED, allowed in DARK and RUNNING; plans READY, SELECTED, ACTIVE, PREEMPT and FREE. -/
theorem test_selectionMakesCurrentOrPending_met :
    (supplied .startRed []).Barred ∧ ¬town.Barred ∧ ¬(running 9000).Barred
    ∧ ¬town.Acceptable 8 ∧ ¬town.Acceptable 1 ∧ town.Acceptable 4
    ∧ (running 9000).Acceptable 4 ∧ (running 9000).Acceptable 0 ∧ (lastStage 80000).Acceptable 4
    ∧ ((lastStage 80000).plan 4).phase = some .selected
    ∧ (running 9000).junction.state = .running ∧ town.junction.state ≠ .running := by
  decide +kernel

/-- A release with no current entry, with one of an acceptable plan, of a FREE one, and in START_RED. -/
theorem test_releases_met : town.sched.current = none
    ∧ (held 1).sched.current = some 0 ∧ (held 1).pointAt 0 = some { time := 0, plan := 1, dim := .keep }
    ∧ ¬(held 1).Barred ∧ ¬(held 1).Acceptable 1 ∧ (held 4).Acceptable 4
    ∧ ({ held 4 with junction := { town.junction with state := .startRed } } : State).Barred := by
  decide +kernel

def mode (m : Mode) (s : State) : State := { s with junction := { s.junction with mode := m } }

/-- Each change of mode in stage 1; from STEPPED in an interstage, in a stage that has run its effective split, 30.0 s
from 8.0 s, and in one 1 ms short of it and 1 ms past it, and under a preemption. -/
theorem test_setModeActsByTheChange_met : town.junction.mode = .free ∧ town.junction.mode ≠ .synced
    ∧ town.seq.state = .idle ∧ (running 9000).seq.state = .stage
    ∧ (mode .synced (running 9000)).junction.mode ≠ .free
    ∧ (mode .stepped (running 9000)).junction.mode = .stepped
    ∧ (running 9000).topPreemption = none
    ∧ (running 9000).baseData = some (plan1, derived1,
        { ceff := 900, stretched := false, slackSplit := 450, slackFloor := 70 })
    ∧ (running 9000).seq.stage = some 1 ∧ 8000 + 100 * derived1.split 1 ≤ 38000
    ∧ ¬(8000 + 100 * derived1.split 1 ≤ 37999) ∧ 8000 + 100 * derived1.split 1 < 38001
    ∧ (∀ g ∈ (running 38000).seq.gaining, ∀ a ∈ (running 38000).seq.greenStarts.get g,
        a + 100 * (running 38000).minGreen g ≤ 38000)
    ∧ (let s := mode .stepped (dwelling 80000 true)
       s.topPreemption ≠ none ∧ s.stageEndDue = false) := by decide +kernel

/-- STEPPED in stage 1 at its groups' min-green expiry, 15.0 s, and 1 ms before; with the latch set; and
FREE. -/
theorem test_advancesEndOrLatch_met :
    let s := mode .stepped (running 15000)
    s.junction.mode = .stepped ∧ s.seq.state = .stage ∧ s.topPreemption = none ∧ s.seq.latch = false
    ∧ (s.setLatch true).seq.latch = true ∧ s.Listens
    ∧ (∀ g ∈ s.seq.gaining, ∀ a ∈ s.seq.greenStarts.get g, a + 100 * s.minGreen g ≤ s.now)
    ∧ ¬(8000 + 100 * s.minGreen 0 ≤ 14999) ∧ s.seq.greenStarts.get 0 = some 8000
    ∧ (running 15000).junction.mode ≠ .stepped := by decide +kernel

/-- A pulse 45.0 s after the last, half of C, and 1 ms earlier; the watch at 2 Ceff + 50, 185.0 s. -/
theorem test_pulsesAndTheSyncWatch_met :
    let s := mode .synced (running 53000)
    let s := { s with seq := { s.seq with lastPulse := some 8000, watchStart := some 8000, sync := .held } }
    s.junction.mode = .synced ∧ s.seq.state = .stage
    ∧ s.baseData = some (plan1, derived1,
        { ceff := 900, stretched := false, slackSplit := 450, slackFloor := 70 })
    ∧ 100 * plan1.cycleTime ≤ 2 * (s.now - 8000) ∧ 2 * (52999 - 8000) < 100 * plan1.cycleTime
    ∧ s.preempted = false ∧ s.positionNow = some 530 ∧ s.seq.sync ≠ .lost
    ∧ 8000 + 100 * (2 * 900 + 50) ≤ 193000 ∧ 192999 < 8000 + 100 * (2 * 900 + 50) := by decide +kernel

/-- The clauses at their edges, C 900 and O 200: e of 2, 898, 3, 450, 451, and a plan of capacity 0. -/
theorem test_correctionByTheError_met :
    let e := fun p => (p + 900 - (900 - 200) % 900) % 900
    4 < 900 ∧ 200 < 900 ∧ e 702 = 2 ∧ e 698 = 898 ∧ e 703 = 3 ∧ e 250 = 450 ∧ e 251 = 451 ∧ e 697 = 897
    ∧ 0 < min (900 / 8) (450 - 70) ∧ min (900 / 8) (70 - 70) = 0 := by decide +kernel

/-- Entry 1 of the table of source LINE; entry 5 engaged or not; a release beyond the length, of an empty
entry, of a RELEASED and of an ASSERTED one. -/
theorem test_preemptCommandsAnswer_met :
    let s := withEntries 9000
    let served := (dwelling 80000 true).setEntry 4 { config := some entry5, stuck := false, asserted := true }
    let served := { served with pre := { served.pre with waiting := [{ entry := 4, priority := 3 }] } }
    s.lineEntryInTable 0 = true ∧ s.lineEntryInTable 4 = false
    ∧ (4 : EntryIx) ∈ served.engaged ∧ (served.entry 4).asserted = true ∧ served.lineEntryInTable 4 = false
    ∧ s.pre.length < number (5 : EntryIx) ∧ s.lineEntryInTable 5 = false
    ∧ number (3 : EntryIx) ≤ s.pre.length ∧ (s.entry 3).config = none ∧ s.lineEntryInTable 3 = false
    ∧ number (4 : EntryIx) ≤ s.pre.length ∧ (s.entry 4).config ≠ none ∧ (s.entry 4).asserted = false := by
  decide +kernel

/-- Entry 5 pending with its request RELEASED: PREEMPT ASSERT makes it ASSERTED again and leaves the list (R88). -/
def releasedAgain : State :=
  let s := dwelling 80000 true
  { s with pre := { s.pre with waiting := [{ entry := 4, priority := 3 }] } }

theorem test_asserted_again :
    let t := after (exec (.preemptAssert 5) releasedAgain)
    (4 : EntryIx) ∈ releasedAgain.engaged ∧ (releasedAgain.entry 4).asserted = false
    ∧ releasedAgain.lineEntryInTable 4 = false ∧ releasedAgain.Listens
    ∧ (t.entry 4).asserted = true ∧ t.pre.waiting = releasedAgain.pre.waiting
    ∧ t.pre.chain = releasedAgain.pre.chain ∧ t.reply.map (·.status) = some .ok := by decide +kernel

/-- Entry 1 in the chain with its request RELEASED, as its line qualifies ASSERTED: it is asserted again, and nothing
is judged (R88, R97). -/
theorem test_line_asserted_again :
    let s := (dwelling 70000 false).setLine 0 { active := true, since := 69800, asserted := false }
    let t := after (exec (.prqAsserted 1) s)
    s.prqAssertDue 0 = true ∧ s.lineBound 0 = true ∧ lineEntry 0 ∈ s.engaged ∧ (s.entry 0).asserted = false
    ∧ (t.entry 0).asserted = true ∧ t.pre.chain = s.pre.chain ∧ t.link.attention = s.link.attention := by
  decide +kernel

/-- Entry 5 accepted over the base; refused P_STATE outside RUNNING; joined to the list under a running
priority as high; and line 1's assertion at its 0.2 s. -/
theorem test_assertionsAreJudged_met :
    let s := withEntries 9000
    let line := { s with now := 200 }.setLine 0 { active := true, since := 0, asserted := false }
    let low := (dwelling 80000 true).setEntry 4 { config := some { entry5 with plan := 9, priority := 2 },
                                                  stuck := false, asserted := false }
    let low := low.setPlan 9 (.valid .ready plan9 derived9)
    (4 : EntryIx) ∉ s.engaged ∧ s.lineEntryInTable 4 = false ∧ s.Listens
    ∧ s.seq.state = .stage ∧ s.seq.above = 0 ∧ s.pre.chain = [baseContext 1]
    ∧ s.planData 8 = some (plan9, derived9)
    ∧ (s.setAsserted 4 true).entryCheck 4 = none ∧ (s.setAsserted 4 true).outranks 3 = true
    ∧ (let d := { town with pre := s.pre }
       (4 : EntryIx) ∉ d.engaged ∧ (d.setAsserted 4 true).entryCheck 4 = some .state)
    ∧ ((4 : EntryIx) ∉ low.engaged ∧ (low.setAsserted 4 true).entryCheck 4 = none
      ∧ (low.setAsserted 4 true).outranks ((low.setAsserted 4 true).entryPriority 4) = false)
    ∧ (0 : EntryIx) ∉ line.engaged ∧ line.prqAssertDue 0 = true ∧ line.lineBound 0 = true := by
  decide +kernel

/-- Entry 5 accepted over the base interstage into stage 1. -/
theorem test_acceptedInAnInterstage_met :
    let s := withEntries 9000
    let s := s.setSeq { s.seq with state := .interstage }
    (4 : EntryIx) ∉ s.engaged ∧ s.lineEntryInTable 4 = false ∧ s.Listens
    ∧ s.seq.state = .interstage ∧ s.seq.above = 0 ∧ s.pre.chain = [baseContext 1]
    ∧ (s.setAsserted 4 true).entryCheck 4 = none ∧ (s.setAsserted 4 true).outranks 3 = true := by
  decide +kernel

/-- Line 4, unbound, at 0.2 s active; line 1, bound, and line 4 at 1.0 s inactive. -/
theorem test_requestLinesQualify_met :
    let s := { withEntries 9000 with now := 1000 }
    let up := s.setLine 3 { active := true, since := 800, asserted := false }
    let down := (s.setLine 0 { active := false, since := 0, asserted := true }).setLine 3
      { active := false, since := 0, asserted := true }
    (s.pre.lines.get 0).active ≠ true ∧ (s.pre.lines.get 0).active = false
    ∧ (up.pre.lines.get 3).active = true ∧ (up.pre.lines.get 3).since + 200 ≤ up.now
    ∧ up.lineBound 3 = false
    ∧ (down.pre.lines.get 0).since + 1000 ≤ down.now ∧ down.lineBound 0 = true
    ∧ (down.pre.lines.get 3).asserted = true ∧ down.lineBound 3 = false := by decide +kernel

/-- The dwell's end by release, at its 10.0 s; and max dwell, 120.0 s, with the min greens passed, and with
them still running. -/
theorem test_dwellsEndAndStick_met :
    let s := dwelling 80000 false
    let m := dwelling 190000 true
    let early := m.setSeq { m.seq with greenStarts := startsAt [2] 185000 }
    s.dwellEndDue = true ∧ (dwelling 79999 false).dwellEndDue = false
    ∧ (s.pre.chain.map (·.plan)) = [8, 0] ∧ (s.pre.chain.map (·.invoker)) =
        [some { entry := 0, priority := 2 }, none]
    ∧ s.pre.waiting = [] ∧ s.planData 0 = some (plan1, derived1)
    ∧ m.seq.state = .stage ∧ m.pre.chain.head?.map (·.inDwell) = some true
    ∧ m.planData 8 = some (plan9, derived9) ∧ (m.entry 0).asserted = true ∧ m.seq.dwellOver = false
    ∧ 100 * plan9.dwells.2 ≤ 100 * 0 + (m.now - m.seq.greenStart)
    ∧ m.expired m.seq.gaining = true ∧ early.expired early.seq.gaining = false := by decide +kernel

/-- A try of the pending list: entry 8, beyond the length, is dropped, and entry 5 is served. -/
theorem test_pendingTried_met :
    let w := withEntries 9000
    let v := { w with pre := { w.pre with waiting := [{ entry := 7, priority := 4 }, { entry := 4, priority := 3 }] } }
    v.Drops [{ entry := 7, priority := 4 }] [{ entry := 4, priority := 3 }]
    ∧ v.outranks 3 = true ∧ v.entryCheck 4 = none ∧ (v.entry 4).config = some entry5
    ∧ v.pre.chain = [baseContext 1] ∧ v.planData 0 = some (plan1, derived1)
    ∧ v.planData 8 = some (plan9, derived9) := by
  refine ⟨⟨by decide +kernel, by decide +kernel, fun x later h => ?_⟩, by decide +kernel⟩
  cases h
  decide +kernel

/-- A context popped through: released, and past its min dwell of 10.0 s. -/
theorem test_popThrough_met :
    let s := dwelling 80000 false
    let c := { baseContext 2 with plan := 8, invoker := some { entry := 0, priority := 2 }, inDwell := true,
                                  dwell := 100 : Context }
    let v := { s with pre := { s.pre with chain := [c, baseContext 1] } }
    v.Drops [] [] ∧ v.planData 8 = some (plan9, derived9) ∧ plan9.dwells.1 ≤ c.dwell
    ∧ (v.entry 0).asserted = false ∧ (v.entry 0).config = some entry1 := by
  refine ⟨⟨by decide +kernel, by decide +kernel, fun x later h => ?_⟩, by decide +kernel⟩
  cases h

/-- A request that waits behind a conflicting green, and one answered. -/
theorem test_guardAnswers_met :
    let s := (running 9000).setGuard [{ group := 2, change := 9000 }]
    let clear := (supplied .running [.red, .red, .red, .red]).setGuard [{ group := 2, change := 0 }]
    s.intergreen 0 2 = some 50 ∧ s.guardJudge.guard = [] ++ { group := 2, change := 9000 } :: []
    ∧ (clear.guardJudge.group 2).awaited ≠ (clear.group 2).awaited
    ∧ (clear.guard.map (·.group)).Nodup ∧ clear.guardJudge.guard = [] ∧ (clear.group 2).config ≠ none
    ∧ (clear.group 2).aspect = .red ∧ s.conflicting 0 2 = true := by decide +kernel

/-- Group 3's request waits behind the greens of stage 1, of which an interstage out of it goes on. -/
def requested : State :=
  let s := (running 9000).setGuard [{ group := 2, change := 9000 }]
  s.setSeq { s.seq with state := .interstage }

def awaiting (now tg : Instant) (a : Aspect) : State :=
  let s := { supplied .running [.red, .red, a, .red] with now := now }
  s.setGroup 2 { s.group 2 with awaited := some tg }

/-- Red-amber 1.5 s before Tg, the green at Tg, in IDLE and as the last of an interstage, the amber's end at
3.0 s, and the flash half. -/
theorem test_aspectsFollowInTime_met :
    let inter := awaiting 7500 7500 .redAmber
    let inter := { inter with seq := { inter.seq with state := .interstage, gaining := [2], losing := [0] } }
    let amber := { supplied .running [.amber] with now := 3000 }
    let flash := supplied .flash [.flashAmber]
    let flash := { flash with output := { flash.output with flash := some { on := true, next := 500 } }, now := 500 }
    (awaiting 6000 7500 .red).redAmberDue 2 = true ∧ (awaiting 5999 7500 .red).redAmberDue 2 = false
    ∧ (∀ r ∈ (awaiting 6000 7500 .red).guard, r.group ≠ 2)
    ∧ (awaiting 7500 7500 .redAmber).greenDue 2 = true ∧ (awaiting 7499 7500 .redAmber).greenDue 2 = false
    ∧ (awaiting 7500 7500 .redAmber).seq.above = 0 ∧ (awaiting 7500 7500 .redAmber).seq.state ≠ .interstage
    ∧ inter.greenDue 2 = true ∧ inter.seq.above = 0 ∧ inter.seq.state = .interstage ∧ inter.seq.loseAt = none
    ∧ (∀ l ∈ inter.seq.losing, l ≠ 2 ∧ (inter.group l).aspect ≠ .green)
    ∧ amber.amberDue 0 = true ∧ ({ amber with now := 2999 } : State).amberDue 0 = false
    ∧ flash.output.safeEnable = true ∧ flash.output.flash = some { on := true, next := 500 }
    ∧ flash.now = 500 ∧ (flash.group 0).aspect = .flashAmber := by decide +kernel

/-- Group 1 in AMBER since its green went off at 12.0 s, group 3 in RED_AMBER awaiting 15.0 s, IG[1][3] equal to group
1's amber time, 30: both instants are 15.0 s. -/
def meeting : State :=
  let s := (awaiting 15000 15000 .redAmber).setPair 0 2 (some (30, 50))
  s.setGroup 0 { s.group 0 with aspect := .amber, aspectEntry := 12000, greenOff := 12000 }

/-- The conflicting amber ends first, and the green follows at the same instant (R26). -/
theorem test_amber_ends_before_green : let t := after (exec (.amberEnd 1) meeting)
    meeting.greenDue 2 = false ∧ meeting.amberDue 0 = true
    ∧ after (exec (.greenStart 3) meeting) = meeting ∧ .greenStart 3 ∉ meeting.runningEvents
    ∧ .amberEnd 1 ∈ meeting.runningEvents
    ∧ (t.group 0).aspect = .red ∧ t.greenDue 2 = true ∧ t.now = 15000
    ∧ ((after (exec (.greenStart 3) t)).group 2).aspect = .green := by decide +kernel

/-- The amber of group 3 ends in a window on its amber circuit 8, and its green starts in a watch window on its green
circuit 9: each voids its window; the red and the green circuit open their lit periods, first due 150 ms later
(R124, R133, R153). -/
theorem test_switches :
    let amber := { supplied .running [.red, .red, .amber, .red] with now := 3000 }
    let t := after (exec (.amberEnd 3) (measuring 7 (.lit .full) false amber))
    let s := measuring 8 (.dark .watch 300) true (awaiting 15000 15000 .redAmber)
    let u := after (exec (.greenStart 3) s)
    t.channel.inFlight.map (·.circuit) ≠ some 7
    ∧ (t.circuit 6).schedule = { litSince := some 3000, nextDue := some 3150, presented := none }
    ∧ (t.circuit 7).schedule.litSince = none ∧ u.channel = idleChannel.beginLong 15000
    ∧ (u.circuit 8).schedule.nextDue = some 15150 ∧ (u.circuit 8).cable.watchPresented = false := by decide +kernel

theorem unique_of (s : State) (h : ∀ g : GroupIx, ∀ k ∈ (s.group g).config, k.circuits.Nodup
    ∧ ∀ i : GroupIx, ∀ m ∈ (s.group i).config, i ≠ g → ∀ c ∈ k.circuits, c ∉ m.circuits) : s.UniqueLaw :=
  fun g k hk => ⟨(h g k hk).1, fun i m hm hi => (h g k hk).2 i m hm hi⟩

theorem test_flashHalf_met : (supplied .flash [.flashAmber]).UniqueLaw := by
  apply unique_of; decide +kernel

/-- Plan 9 running its stage 1 since 60.0 s, of entry 1 over the base context. -/
def preempting (aspects : List Aspect) (now : Instant) : State :=
  let s := dwelling now true
  { s with
    groups := groupsIn aspects
    circuits := lamps (groupsIn aspects)
    pre := { s.pre with
      chain := [{ baseContext 1 with plan := 8, invoker := some { entry := 0, priority := 2 } }, baseContext 1] }
    seq := { s.seq with stage := some 1, greenStart := 60000, length := some 50, gaining := [] } }

/-- The interstage into a stage of plan 1, the groups in RED_AMBER awaiting their green at 70.0 s, now. -/
def gaining (stage : Nat) (aspects : List Aspect) : State :=
  let s := running 70000
  let now := fun a => if a = Aspect.redAmber then some 70000 else none
  { s with
    groups := (groupsIn aspects).map fun r => { r with awaited := now r.aspect }
    circuits := lamps (groupsIn aspects)
    seq := { s.seq with
      state := .interstage, stage := some stage, interStart := 62000, length := none, position := none
      gaining := if stage = 1 then [0, 1] else [2], losing := [] } }

/-- A stage of plan 1 that is not the last, its last with and without a pending plan, and stage 1 of plan 9. -/
theorem test_stageEndsIntoTheNext_met :
    let s := running 53000
    let l := lastStage 90000
    let alone := l.setSeq { l.seq with pendingPlan := none }
    let p := preempting [.red, .red, .green] 70000
    s.stageEndDue = true ∧ s.pre.chain.head? = some (baseContext 1) ∧ (baseContext 1).invoker = none
    ∧ s.seq.current = some 0 ∧ s.planData 0 = some (plan1, derived1) ∧ derived1.base.isSome = true
    ∧ s.seq.stage = some 1 ∧ 1 < plan1.stages.length
    ∧ (∀ g ∈ plan1.greens 1, (s.group g).config ≠ none)
    ∧ alone.stageEndDue = true ∧ alone.seq.stage = some 3 ∧ alone.seq.pendingPlan = none
    ∧ l.stageEndDue = true ∧ l.pre.chain = [baseContext 3] ∧ l.plan 0 = .valid .active plan1 derived1
    ∧ l.seq.stage = some plan1.stages.length ∧ l.seq.pendingPlan = some 4 ∧ (0 : PlanIx) ≠ 4
    ∧ l.plan 4 = .valid .selected plan5 derived5 ∧ plan5.cls = .base ∧ derived5.base.isSome = true
    ∧ p.stageEndDue = true ∧ p.pre.chain.head?.any (fun c => c.invoker.isSome) = true
    ∧ p.planData 8 = some (plan9, derived9) ∧ p.seq.stage = some 1 ∧ 1 < plan9.stages.length
    ∧ plan9.greens 1 = [] := by
  decide +kernel

/-- The green of a group is due and ends the running interstage. -/
def completes (s : State) (g : GroupIx) : Bool :=
  decide (s.greenDue g = true ∧ s.seq.state = .interstage ∧ s.seq.loseAt = none
    ∧ (∀ h ∈ s.seq.gaining, h = g ∨ (s.group h).aspect = .green)
    ∧ ∀ l ∈ s.seq.losing, l ≠ g ∧ (s.group l).aspect ≠ .green)

/-- Group 2's green ends an interstage into the slack stage of plan 1, FREE, STEPPED, and resumed. -/
theorem test_greensBeginTheStage_met :
    let s := gaining 1 [.green, .redAmber, .red, .red]
    completes s 1 = true ∧ s.junction.mode ≠ .stepped ∧ s.seq.resumed = none ∧ s.seq.stage = some plan1.slackIndex
    ∧ completes (mode .stepped s) 1 = true
    ∧ completes (s.setSeq { s.seq with resumed := some 100 }) 1 = true
    ∧ s.pre.chain.head? = some (baseContext 1) ∧ s.planData 0 = some (plan1, derived1)
    ∧ derived1.base ≠ none := by decide +kernel

/-- Group 3's green ends the interstage into stage 2, which is not the slack stage. -/
theorem test_greenBeginsAStage_met : let t := gaining 2 [.red, .red, .redAmber, .red]
    completes t 2 = true ∧ t.seq.stage = some 2 ∧ 2 ≠ plan1.slackIndex := by decide +kernel

/-- Group 3's green ends the interstage into stage 2 of plan 9, its last. -/
theorem test_greenBeginsTheDwell_met :
    let p := preempting [.red, .red, .redAmber] 70000
    let p := (p.setGroup 2 { p.group 2 with awaited := some 70000 }).setSeq { p.seq with
      state := .interstage, stage := some 2, gaining := [2] }
    completes p 2 = true ∧ p.planData 8 = some (plan9, derived9) ∧ plan9.stages.length ≤ 2 := by decide +kernel

/-- The slack stage repays the excess of its interstage and lengthens by an eighth of the cycle (R68, R73): 450 +
100 − 20. -/
theorem test_slack_stage :
    let s := gaining 1 [.green, .redAmber, .red, .red]
    let s := s.setSeq { s.seq with remainder := some ⟨.lengthen, 100⟩, interStart := 60000 }
    let t := after (exec (.greenStart 2) s)
    t.seq.length = some 530 ∧ t.seq.remainder = none ∧ t.seq.excess = 0
    ∧ t.seq.position = some { value := 80, since := some 70000, limit := 530 } := by decide +kernel

/-- The worked sequence of spec/04 section 4.6 with SET_MODE FREE at 30.0 s: stage 2, green since 21.0 s, is to end
after its 15.0 s, and p is 590 + 90; 16.0 s later it has passed, and the stage ends at once (R78). -/
theorem test_stepped_to_free :
    let s := gaining 2 [.red, .red, .green, .red]
    let stage2 := fun now : Instant =>
      { mode .stepped (s.setSeq { s.seq with state := .stage, greenStart := 21000 }) with now := now }
    let t := after (exec .setModeFree (stage2 30000))
    t.seq.length = some 150 ∧ t.seq.holdMinGreen = false ∧ t.positionShown = some 680
    ∧ (after (exec .setModeFree (stage2 46000))).seq.stage = some 3 := by decide +kernel

/-- A position absent since STEPPED mode is saved absent when a preemption has been accepted over the base interstage
(R78). -/
theorem test_absent_position_saved :
    let s := gaining 2 [.red, .red, .redAmber, .red]
    let p := preempting [.red, .red, .redAmber] 70000
    let s := { s with
      plans := p.plans, pre := { p.pre with chain := p.pre.chain.map fun c => { c with stage := 1 } },
      seq := { s.seq with above := 1 } }
    ((after (exec (.greenStart 3) s)).pre.chain.map fun c => (c.stage, c.position)) = [(1, none), (2, none)] := by
  decide +kernel

/-- The base interstage into stage 2 at 70.0 s, p at its boundary 590, over which entry 1 was accepted at p 560, and
entry 5 of priority 3, naming plan 10. -/
def overInterstage : State :=
  let s := gaining 2 [.red, .red, .redAmber, .red]
  let p := preempting [.red, .red, .redAmber] 70000
  let s := { s with
    plans := p.plans.set 9 (.valid .ready plan9 derived9), junction := p.junction
    pre := { p.pre with chain := [{ baseContext 1 with plan := 8, invoker := some { entry := 0, priority := 2 } },
                                  { baseContext 2 with position := some 560 }] }
    seq := { s.seq with above := 1, position := some { value := 530, since := some 62000, limit := 590 } } }
  s.setEntry 4 { config := some { entry5 with plan := 9 }, stuck := false, asserted := false }

/-- A second acceptance before the interstage ends leaves the base record, and so the position shown (R61, R93,
R94). -/
theorem test_second_acceptance :
    let t := after (exec (.preemptAssert 5) overInterstage)
    (4 : EntryIx) ∉ overInterstage.engaged ∧ overInterstage.lineEntryInTable 4 = false ∧ overInterstage.Listens
    ∧ (overInterstage.setAsserted 4 true).entryCheck 4 = none ∧ overInterstage.seq.above ≠ 0
    ∧ overInterstage.positionShown = some 560
    ∧ (t.pre.chain.map (·.plan)) = [9, 8, 0] ∧ t.pre.chain.tail = overInterstage.pre.chain
    ∧ t.seq.above = 2 ∧ t.positionShown = some 560 := by decide +kernel

/-- Group 3's green at 70.0 s ends the interstage over which entry 1 was accepted: the base record holds stage 2 with
green elapsed 0, p of its green start, 590, and E, 20 over the nominal 60; and the truncation into stage 1 of plan 9
waits for group 3's min green (R94, R95). -/
theorem test_truncation_begins :
    let t := after (exec (.greenStart 3) overInterstage)
    completes overInterstage 2 = true ∧ overInterstage.pre.chain[overInterstage.seq.above]?.map (·.plan) = some 0
    ∧ overInterstage.planData 0 = some (plan1, derived1) ∧ overInterstage.planData 8 = some (plan9, derived9)
    ∧ (t.pre.chain.map fun c => (c.stage, c.elapsed, c.position, c.excess)) = [(1, 0, none, 0), (2, 0, some 590, 20)]
    ∧ t.seq.stage = some 1 ∧ t.seq.state = .interstage ∧ t.seq.interStart = 70000 ∧ t.seq.above = 0
    ∧ t.seq.position = none ∧ t.seq.excess = 0 ∧ t.seq.losing = [2] ∧ t.seq.loseAt = some 76000 := by
  decide +kernel

/-- A clearance and a truncation whose LOSE falls due now; and one, over which a preemption has been accepted, whose
stage begins with it. -/
theorem test_delayedLosesEndTheGreens_met :
    let c := running 15000
    let clear := { c with
      seq := { c.seq with state := .clearance, loseAt := some 15000 },
      junction := { c.junction with clearance := some .awaitingRed } }
    let cut := { c with seq := { c.seq with
                                  state := .interstage, loseAt := some 15000, losing := [0, 1], gaining := [2] } }
    clear.seq.loseAt = some 15000 ∧ 15000 ≤ clear.now ∧ clear.seq.state = .clearance
    ∧ clear.junction.clearance = some .awaitingRed
    ∧ cut.seq.loseAt = some 15000 ∧ cut.seq.state = .interstage ∧ cut.seq.losing.Nodup
    ∧ (let o := overInterstage.setSeq { overInterstage.seq with loseAt := some 70000, losing := [0], gaining := [] }
      o.seq.state = .interstage ∧ o.seq.above ≠ 0 ∧ o.seq.losing.Nodup
      ∧ (after (exec .truncationLose o)).seq.above = 0) := by
  decide +kernel

/-- The ends of START_FLASH at 10.0 s, of START_RED at 5.0 s, with an asserted entry and a selection owed, and of the
all-red at 3.0 s. -/
theorem test_junctionStatesEnd_met :
    let f := { supplied .startFlash [.flashAmber, .flashAmber, .flashAmber] with now := 10000 }
    let r := { supplied .startRed [.red, .red, .red, .red] with now := 5000 }
    let owed := { r with
      pre := { r.pre with entries := entries true, length := 5 }
      sched := { r.sched with
        points := [{ time := 0, plan := 4, dim := .keep }], clockSet := true, current := some 0, owed := true } }
    let a := running 9000
    let a := { a with junction := { a.junction with clearance := some (.allRed 6000) } }
    f.junction.entry + 100 * f.junction.startFlash ≤ f.now ∧ f.channel.state = .ready
    ∧ (∀ g : GroupIx, ∀ k ∈ (f.group g).config, f.junction.entry ≤ (f.circuit k.green).cable.lastCheck)
    ∧ r.junction.state = .startRed ∧ r.junction.clearance = none
    ∧ r.junction.entry + 100 * r.junction.startRed ≤ r.now
    ∧ (∀ g : GroupIx, (r.group g).config ≠ none → r.redStatus g = .lit ∨ r.redStatus g = .unsupervised)
    ∧ r.seq.current = some 0 ∧ r.plan 0 = .valid .ready plan1 derived1 ∧ plan1.cls = .base
    ∧ derived1.base.isSome = true ∧ r.sched.owed = false
    ∧ (owed.entry 0).asserted = true ∧ (owed.entry 0).config = some entry1 ∧ owed.sched.hold = false
    ∧ owed.pointAt 0 = some { time := 0, plan := 4, dim := .keep }
    ∧ a.junction.clearance = some (.allRed 6000) ∧ 6000 + 100 * a.junction.allRed ≤ a.now := by
  decide +kernel

/-- The classes at their edges: no reference; 450 of 300 and 449; k of n, of 0 and between. -/
theorem test_currentsAreClassified_met : 8 ≤ 8 ∧ 0 < 300 ∧ 3 * 300 ≤ 2 * 450 ∧ 2 * 449 < 3 * 300
    ∧ (classify 3 4 (some 300) 300).2 = some 3 ∧ (classify 3 4 (some 300) 75).2 = some 0
    ∧ (classify 3 4 (some 300) 225).2 = some 2 := by decide +kernel

def litAt (start : Instant) (settling : Option Instant) : State :=
  { town with
    now := start + 20
    channel := { idleChannel with
      state := .measuring, inFlight := some { circuit := 0, kind := .lit .full, start := start } }
    sup := { town.sup with settlingEnd := settling } }

theorem test_litWindow_unique : (litAt 1000 none).UniqueLaw := by apply unique_of; decide +kernel

/-- A window ended at its 20 ms, discarded and kept by a settling end 1 ms after and at its start; a state
taken at once and one that waits for a second result. -/
theorem test_litWindowsProveLamps_met :
    let s := litAt 1000 (some 1000)
    let proven := s.setLamp 0 { (s.circuit 0).lamp with state := .proven, fullRef := some 300 }
    (litAt 1000 none).channel.inFlight = some { circuit := 0, kind := .lit .full, start := 1000 }
    ∧ 1000 + 20 ≤ (litAt 1000 none).now ∧ (litAt 1000 (some 1001)).sup.settlingEnd = some 1001
    ∧ s.sup.settlingEnd = some 1000
    ∧ (s.circuit 0).lamp.state = .unmeasured
    ∧ (proven.circuit 0).lamp.state = .proven ∧ (classify 1 0 (some 300) 0).1 = .out
    ∧ (proven.circuit 0).lamp.pendingResult = none := by decide +kernel

/-- Group 1 RED with its red circuit 1 confirmed OUT by a second reading of 0: RED_LOST names both (R145). -/
theorem test_red_lost :
    let s := { supplied .running [.red, .red, .red, .red] with now := 1020, channel := (litAt 1000 none).channel }
    let s := s.setLamp 0 { (s.circuit 0).lamp with
      fullRef := some 400, state := .proven, pendingResult := some .out, agreement := 1 }
    let t := after (exec (.litWindowEnd 0) s)
    (t.circuit 0).lamp.state = .out ∧ t.junction.state = .lockout
    ∧ t.junction.lockout.map (fun r => (r.cause, r.group, r.circuit)) = some (.redLost, some 0, some 0)
    ∧ t.holds .lampAlarm = true := by decide +kernel

/-- The fourth sample of spec/08's training: attempt 2 gives the reference 301, attempt 1 begins another, and a third
attempt that fails ends the training (R149). -/
def sampled (attempt : Nat) (l : List Nat) : State :=
  (litAt 1000 none).setLamp 0 { ((litAt 1000 none).circuit 0).lamp with
    training := some (l.foldl Training.sample { Training.begun .full with attempt := attempt }) }

theorem test_training_ends :
    let pass := after (exec (.litWindowEnd 300) (sampled 2 [298, 305, 301]))
    let again := after (exec (.litWindowEnd 299) (sampled 1 [296, 350, 301]))
    let failed := after (exec (.litWindowEnd 299) (sampled 3 [296, 350, 301]))
    (pass.circuit 0).lamp.fullRef = some 301 ∧ pass.holds .trainDone = true
    ∧ (again.circuit 0).lamp.training.map (·.attempt) = some 2 ∧ (again.circuit 0).lamp.fullRef = none
    ∧ (failed.circuit 0).lamp.training = none ∧ failed.holds .trainFail = true := by decide +kernel

/-- Darkness of 199, 200, 999 and 1000 ms, and the foreign green at V 50. -/
theorem test_darkWindowsCheckCables_met :
    foreign.channel.inFlight = some { circuit := 8, kind := .dark .watch 240, start := 240 }
    ∧ 240 + 20 ≤ foreign.now ∧ 199 < 200 ∧ 200 ≤ 240 ∧ 240 < 1000
    ∧ foreign.assignment 8 = some { group := 2, aspect := .green }
    ∧ 50 ≤ min 100 (foreign.channel.corrected 2000 / 40) ∧ foreign.output.safeEnable = true
    ∧ foreign.assignment 7 = some { group := 2, aspect := .amber } := by decide +kernel

/-- A dark window of red circuit 1, dark for 1.0 s: its fourth sample gives the baselines, and an entry to ALARM by
its second FOREIGN removes the learning (R163). -/
def darkAt (k : CablePart) : State :=
  let s := { town with
    now := 5020
    channel := { idleChannel with
      state := .measuring, inFlight := some { circuit := 0, kind := .dark .round 1000, start := 5000 } } }
  s.setCable 0 k

theorem test_learning_ends :
    let k := { (town.circuit 0).cable with
      learning := some { samples := 3, leakageSum := 36, chargeSum := 180 } }
    let done := after (exec (.darkWindowEnd 0 (16 * 12) (16 * 61)) (darkAt k))
    let gone := after (exec (.darkWindowEnd 2000 0 0) (darkAt { k with counted := some .foreign, count := 1 }))
    (done.circuit 0).cable.baseline = some { leakage := 12, charge := 60 }
    ∧ (done.circuit 0).cable.state = .normal ∧ done.holds .cableLearned = true
    ∧ (gone.circuit 0).cable.state = .alarm .foreignVoltage ∧ (gone.circuit 0).cable.learning = none
    ∧ gone.holds .cableAlarm = true := by decide +kernel

/-- A run short of and at its length, OPEN and LEAK, no condition with and without a full measurement; ALARM kept by a
clear measurement, by one that is not, by a harmless voltage alone, and left. -/
theorem test_cableRunsAlarmAndClear_met :
    let k : CablePart := { (Circuit.atReset 0).cable with baseline := some ⟨12, 60⟩, state := .normal }
    let once := { k with counted := some .foreign, count := 1 }
    let alarm := { k with
      state := .alarm .leak, acknowledged := true, counted := some .clear, count := 2 }
    k.condition true true ⟨50, 12, 60⟩ = some .foreign ∧ 29 * 2 < 60 ∧ 12 + 50 < 63 ∧ ¬(12 + 50 < 62)
    ∧ k.condition true true ⟨49, 12, 60⟩ = none ∧ k.state.isAlarm = false ∧ alarm.state.isAlarm = true
    ∧ (once.judged true true ⟨50, 12, 60⟩).2 = .entered ∧ (k.judged true true ⟨50, 12, 60⟩).2 = .unchanged
    ∧ (k.judged true true ⟨0, 33, 60⟩).1.state = .suspect ∧ (k.judged true false ⟨0, 33, 60⟩).1 = k
    ∧ (alarm.judged true true ⟨0, 32, 30⟩).2 = .left
    ∧ ({ alarm with acknowledged := false }.judged true true ⟨0, 32, 30⟩).1.count = 3
    ∧ (alarm.judged true true ⟨0, 33, 30⟩).1.count = 0
    ∧ (alarm.judged true false ⟨0, 33, 30⟩).1.count = 2 := by decide +kernel

def calibrating (kind : CalKind) (attempt : Nat) (now : Instant) : State :=
  { town with
    now := now
    channel := { idleChannel with
      state := if kind = .long then .calLong else .calShort
      calibration := some { kind := kind, start := 0, attempt := attempt } } }

/-- The long calibration at 2.0 s, the short attempts at 100 ms; readings that pass and that fail. -/
theorem test_calibrationsEnd_met :
    (calibrating .long 1 2000).channel.calibration = some { kind := .long, start := 0, attempt := 1 }
    ∧ 0 + 2000 ≤ (calibrating .long 1 2000).now ∧ 0 + 100 ≤ (calibrating .short 1 100).now
    ∧ (calibrating .short 2 100).channel.calibration = some { kind := .short, start := 0, attempt := 2 }
    ∧ (calibrating .long 1 2000).channel.inFlight = none
    ∧ calAccepted (List.replicate 40 64) (List.replicate 40 4064) = true
    ∧ calAccepted (List.replicate 40 65) (List.replicate 40 4065) = false
    ∧ calAccepted [0, 0] [0, 0] = false := by decide +kernel

theorem test_channelLaw_met : (calibrating .long 1 2000).ChannelLaw ∧ (calibrating .short 1 100).ChannelLaw ∧ (calibrating .short 2 100).ChannelLaw
    ∧ foreign.ChannelLaw ∧ town.ChannelLaw := by
  unfold State.ChannelLaw
  exact ⟨⟨rfl, rfl⟩, ⟨rfl, rfl⟩, ⟨rfl, rfl⟩, ⟨rfl, rfl⟩, ⟨rfl, rfl⟩⟩

/-- The first failed attempt of a short calibration begins the second; an accepted one leaves the channel READY
(R127, R128). -/
theorem test_calibration_ends :
    let t := after (exec (.shortCalibrationAttemptEnd [0, 0] [0, 0]) (calibrating .short 1 100))
    let u := after (exec (.shortCalibrationAttemptEnd [0, 0] [4000, 4000]) (calibrating .short 1 100))
    t.channel.calibration = some { kind := .short, start := 100, attempt := 2 } ∧ t.channel.failFlag = true
    ∧ u.channel.state = .ready ∧ u.channel.shortDue = some 60100 := by decide +kernel

/-- Circuit 9 of group 3, lit or dark; the limits at their edges. -/
def watchAt (now : Instant) : State := { supplied .running [.red, .red, .red, .red] with now := now }

/-- Circuit 9 of age 4.0 s: MONITOR names it and group 3. With its window's end taken between the age and the fall, the
foreign voltage it reads is recorded beside the lockout, and its cause is a further one (R155, R172). -/
theorem test_age_limit :
    let t := after (exec (.watchAgeLimit 9) (watchAt 4000))
    let x : DarkValues := { voltage := 60, leakage := 0, charge := 0 }
    let s := { watchAt 4000 with channel := foreign.channel }
    let u := (s.recordDark 8 4000 x).handCauses (s.lateCauses 8 ++ s.darkCauses 8 4000 x)
    t.junction.lockout.map (fun r => (r.cause, r.group, r.circuit)) = some (.monitor, some 2, some 8)
    ∧ (t.circuit 8).cable.state = .noBaseline
    ∧ u.junction.lockout.map (fun r => (r.cause, r.circuit)) = some (.monitor, some 8)
    ∧ u.junction.lockout.map (·.further) = some true
    ∧ (u.circuit 8).cable.state = .alarm .foreignVoltage := by decide +kernel

/-- Circuit 2 dark for 1.0 s at the instant a lit window ends, circuit 3 for longer: the arbitration takes circuit 3,
or circuit 2 where its ROUND_ELIGIBLE comes first (R123). -/
def ripening : State :=
  let s := { watchAt 1100 with channel := (litAt 1080 none).channel }
  s.setCircuit 1 { s.circuit 1 with drive := { on := false, lastSwitch := 100 } }

theorem test_round_orders :
    let chosen := fun l : List Instr =>
      (l.foldl (fun s i => after (exec i s)) ripening).channel.inFlight.map (·.circuit)
    chosen [.litWindowEnd 300, .roundEligible 2] = some 2
    ∧ chosen [.roundEligible 2, .litWindowEnd 300] = some 1
    ∧ ripening.eligible 1 = true ∧ ripening.inRound 1 = false ∧ ripening.inRound 2 = true
    ∧ ripening.roundNext = some 2 ∧ .roundEligible 2 ∈ ripening.roundEvents := by decide +kernel

theorem test_requestsAndLateness_met :
    let due := (watchAt 2150).setSchedule 0 { litSince := some 0, nextDue := some 2150, presented := none }
    let shown := (watchAt 2150).setSchedule 0 { litSince := some 0, nextDue := none, presented := some 1950 }
    let settling := { watchAt 1000 with sup := { town.sup with settlingEnd := some 1000 } }
    let short := { watchAt 1000 with channel := { idleChannel with shortDue := some 1000 } }
    let checked := (watchAt 1100).setCable 8 { ((watchAt 0).circuit 8).cable with lastCheck := 100 }
    let unchecked := (watchAt 300).setCircuit 8 { (watchAt 0).circuit 8 with
                       drive := { on := false, lastSwitch := 100 } }
    (due.circuit 0).schedule = { litSince := some 0, nextDue := some 2150, presented := none }
    ∧ 2150 ≤ due.now ∧ due.sup.settlingEnd = none
    ∧ (shown.circuit 0).schedule.presented = some 1950 ∧ 1950 + 200 ≤ shown.now
    ∧ settling.sup.settlingEnd = some 1000 ∧ 1000 ≤ settling.now
    ∧ short.channel.shortDue = some 1000 ∧ short.channel.shortPresented = false
    ∧ short.channel.state ≠ .calShort
    ∧ checked.watched 8 = true ∧ (checked.circuit 8).cable.watchPresented = false
    ∧ checked.watchInFlight 8 = false ∧ checked.watchStart 8 ≤ 100 ∧ 100 + 1000 ≤ checked.now
    ∧ unchecked.watched 8 = true ∧ (unchecked.circuit 8).cable.lastCheck < unchecked.watchStart 8
    ∧ unchecked.watchStart 8 + 200 ≤ unchecked.now
    ∧ (watchAt 1000).eligible 8 = true ∧ (watchAt 999).eligible 8 = false
    ∧ (watchAt 2000).watchReference 8 + 2000 ≤ 2000
    ∧ ((watchAt 2000).circuit 8).cable.lateFor ≠ some ((watchAt 2000).watchReference 8)
    ∧ (watchAt 4000).watchReference 8 + 4000 ≤ 4000 ∧ foreign.channel.state ≠ .ready
    ∧ ({ watchAt 4000 with channel := foreign.channel } : State).darkWindow = some (8, 240) := by decide +kernel

theorem test_arbitrationTakesTheFirstClass_met :
    let s := { watchAt 9000 with sup := { town.sup with roundOffer := some 3 } }
    let p := s.setSchedule 0 { litSince := some 0, nextDue := none, presented := some 8950 }
    let w := s.setPresented 8 true
    let c := { s with channel := { idleChannel with shortDue := some 8000, shortPresented := true } }
    foreign.channel.state ≠ .ready ∧ s.channel.state = .ready ∧ p.choice = some (.proving 0)
    ∧ w.choice = some (.watch 8) ∧ c.choice = some .shortCal ∧ s.choice = some (.round 3)
    ∧ (watchAt 9000).choice = none ∧ c.shortOverdue = false
    ∧ ({ c with now := 18001 } : State).shortOverdue = true ∧ ({ c with now := 18000 } : State).shortOverdue = false := by
  decide +kernel

/-- Group 1 RED with its one red circuit OUT, at an entry to RUNNING, and newly RED. -/
theorem test_redLostLocksOut_met :
    let before := supplied .startRed [.redAmber, .red, .red, .red]
    let u := supplied .running [.red, .red, .red, .red]
    let u := u.setLamp 0 { (u.circuit 0).lamp with fullRef := some 300, state := .out }
    u.output.safeEnable = true ∧ (u.group 0).config ≠ none ∧ u.redLost 0 = true
    ∧ before.judgesAllReds u = true ∧ (before.group 0).aspect ≠ (u.group 0).aspect := by decide +kernel

theorem test_planOrdersMoveStates_met :
    (town.plan 0).phase = some .ready ∧ (town.plan 0).isBase = true ∧ (town.plan 8).isBase = false
    ∧ ((lastStage 0).plan 4).phase = some .selected ∧ ((lastStage 0).plan 0).phase = some .active
    ∧ (town.plan 8).phase = some .ready ∧ (town.plan 8).cls = some .preempt
    ∧ (town.plan 0).cls = some .base ∧ (town.plan 1).phase = none
    ∧ town.plan 0 = .valid .ready plan1 derived1 := by decide +kernel

/-! The laws hold in the running worked case, and it takes a step. -/

theorem test_stepsKeepTheSupplyLaws_met : (running 53000).SupplyInv
    ∧ ∃ t, step (running 53000) = .next t := by
  refine ⟨?_, _, rfl⟩
  unfold State.SupplyInv State.EnableLaw State.ClearanceLaw State.SequencerLaw State.DrivesLaw
  decide +kernel

theorem conflict_of (s : State) (h : s.SupplyInv) (d : s.DarkLaw) (e : s.EmptyLaw) (c : s.ClearLaw) :
    s.ConflictInv := ⟨h, d, e, c⟩

theorem guard_of (s : State) (r : GuardRequest) (h : s.guard = [r]) (a : s.answerable [] r = false)
    (q : s.seq.state = .interstage ∨ s.seq.state = .stage) (c : s.junction.clearance = none) : s.GuardLaw := by
  refine ⟨by simp [h], fun older x newer e => ?_, fun _ => q, fun n => absurd c n⟩
  rw [h] at e
  cases older with
  | nil => cases e; exact a
  | cons y l => simp at e

theorem await_of (s : State) (h : ∀ l g : GroupIx, ∀ n ∈ s.intergreen l g, ∀ a ∈ (s.group g).awaited,
    (s.group l).greenOff + 100 * n ≤ a) : s.AwaitLaw :=
  fun l g n a hn ha => h l g n hn a ha

theorem amber_of (s : State) (h : ∀ l g : GroupIx, ∀ k ∈ (s.group l).config, ∀ v ∈ k.vehicle,
      ∀ n ∈ s.intergreen l g, v.amberTime ≤ n)
    (j : ∀ l : GroupIx, (s.group l).aspect = .amber → (s.group l).aspectEntry = (s.group l).greenOff
      ∧ ((s.group l).config.bind (·.vehicle)).isSome = true)
    (m : ∀ l g : GroupIx, s.conflicting l g = true → (s.group l).aspect = .amber → (s.group g).aspect ≠ .green) :
    s.AmberLaw := by
  refine ⟨fun l g k v n hk hv hn => h l g k hk v hv n hn, fun l hl => ⟨(j l hl).1, ?_⟩, m⟩
  obtain ⟨v, hv⟩ := Option.isSome_iff_exists.1 (j l hl).2
  obtain ⟨k, hk, hkv⟩ := Option.bind_eq_some_iff.1 hv
  exact ⟨k, v, hk, hkv⟩

theorem test_amberLaw_met : (running 53000).AmberLaw :=
  amber_of _ (by decide +kernel) (by decide +kernel) (by decide +kernel)

/-- A green whose instant has come waits for a conflicting amber whose end is due (R26). -/
theorem test_greenWaitsForAmber_met : meeting.AwaitLaw ∧ meeting.AmberLaw
    ∧ (meeting.group 2).config = some (veh 6 7 8 60) ∧ (meeting.group 2).awaited = some 15000
    ∧ 15000 ≤ meeting.now ∧ meeting.conflicting 0 2 = true ∧ (meeting.group 0).aspect = .amber :=
  ⟨await_of _ (by decide +kernel), amber_of _ (by decide +kernel) (by decide +kernel) (by decide +kernel),
    by decide +kernel⟩

theorem lit_of (s : State) (h : ∀ g : GroupIx, ∀ k ∈ (s.group g).config, ∀ c ∈ k.circuits,
      (s.circuit c).drive.on = true → k.lights (s.group g).aspect s.flashOn c = true)
    (j : ∀ c : CircuitIx, (s.circuit c).drive.on = true →
      ∃ g : GroupIx, ((s.group g).config.any fun k => k.circuits.contains c) = true) : s.LitLaw := by
  refine ⟨fun g k hk => h g k hk, fun c hc => ?_⟩
  obtain ⟨g, hg⟩ := j c hc
  cases hk : (s.group g).config with
  | none => simp [hk] at hg
  | some k => exact ⟨g, k, hk, by simpa [hk] using hg⟩

theorem test_stepsKeepConflictsApart_met : (running 53000).ConflictInv ∧ (running 53000).AwaitLaw := by
  refine ⟨conflict_of _ test_stepsKeepTheSupplyLaws_met.1 ?_ ?_ ?_, await_of _ (by decide +kernel)⟩
  · unfold State.DarkLaw; decide +kernel
  · unfold State.EmptyLaw; decide +kernel
  · unfold State.ClearLaw; decide +kernel

theorem test_stepsKeepOutputsWithAspects_met : (running 53000).OutputInv :=
  ⟨test_stepsKeepTheSupplyLaws_met.1, unique_of _ (by decide +kernel),
    lit_of _ (by decide +kernel) (by decide +kernel)⟩

theorem test_shownLaw_met : (running 53000).ShownLaw ∧ (running 53000).output.safeEnable = true := by
  have h : ∀ s : State, (∀ g : GroupIx, ∀ k ∈ (s.group g).config, ∀ c : CircuitIx,
      k.lights (s.group g).aspect s.flashOn c = true → (s.circuit c).drive.on = true) →
      (∀ g : GroupIx, (s.group g).aspect ≠ .flashAmber) → s.ShownLaw :=
    fun s a b _ => ⟨fun g k hk => a g k hk, fun ⟨g, hg⟩ => absurd hg (b g)⟩
  exact ⟨h _ (by decide +kernel) (by decide +kernel), by decide +kernel⟩

/-- Group 1's greens lost at 15.0 s: AMBER and RED_AMBER entered, and the green-off instant, at that instant. -/
theorem test_lose_times : let t := (running 15000).lose 0
    ((running 15000).group 0).aspect = .green ∧ (t.group 0).aspect = .amber ∧ (t.group 0).greenOff = 15000
    ∧ (t.group 0).aspectEntry = 15000 ∧ (t.circuit 1).drive.on = true ∧ (t.circuit 2).drive.on = false := by
  decide +kernel

theorem test_stepsKeepOneMeasurement_met :
    ((running 53000).setPresented 8 true).MeasureLaw := by
  refine ⟨by decide +kernel, fun w hw => ?_⟩
  have h : ((running 53000).setPresented 8 true).channel.inFlight = none := by decide +kernel
  rw [h] at hw
  cases hw

/-- The guard's law with an open request, in a step. -/
theorem test_stepsLeaveTheGuardJudged_met : requested.ConflictInv ∧ requested.GuardLaw
    ∧ requested.guard ≠ [] ∧ ∃ t, step requested = .next t := by
  have h : requested.SupplyInv := by
    unfold State.SupplyInv State.EnableLaw State.ClearanceLaw State.SequencerLaw State.DrivesLaw
    decide +kernel
  refine ⟨conflict_of _ h ?_ ?_ ?_, guard_of _ { group := 2, change := 9000 } (by decide +kernel)
    (by decide +kernel) (by decide +kernel)
    (by decide +kernel), by decide +kernel, _, rfl⟩
  · unfold State.DarkLaw; decide +kernel
  · unfold State.EmptyLaw; decide +kernel
  · unfold State.ClearLaw; decide +kernel

/-- The channel READY with no candidate. -/
theorem test_arbitratedLaw_met : (running 53000).ArbitratedLaw ∧ (running 53000).channel.state = .ready := by
  unfold State.ArbitratedLaw; decide +kernel

/-- A watched green circuit's candidate is withdrawn as its group goes green (R153). -/
theorem test_green_withdraws_watch : let s := (awaiting 15000 15000 .redAmber).setPresented 8 true
    s.watched 8 = true ∧ ((after (exec (.greenStart 3) s)).circuit 8).drive.on = true
    ∧ ((after (exec (.greenStart 3) s)).circuit 8).cable.watchPresented = false := by decide +kernel

theorem test_noConflictingGreenOutputs_met : (running 53000).conflicting 0 2 = true
    ∧ ((running 53000).group 0).config = some (veh 0 1 2 70)
    ∧ ((running 53000).group 2).config = some (veh 6 7 8 60) := by decide +kernel

/-- Group 3's green switched on by the step at its awaited instant, 15.0 s. -/
def turning : State := { awaiting 15000 15000 .redAmber with pending := [.greenStart 3] }

theorem test_greenSwitchedOn_met : turning.ConflictInv ∧ turning.OutputInv ∧ turning.AwaitLaw := by
  have h : turning.SupplyInv := by
    unfold State.SupplyInv State.EnableLaw State.ClearanceLaw State.SequencerLaw State.DrivesLaw
    decide +kernel
  refine ⟨conflict_of _ h ?_ ?_ ?_, ⟨h, unique_of _ (by decide +kernel),
    lit_of _ (by decide +kernel) (by decide +kernel)⟩, await_of _ (by decide +kernel)⟩
  · unfold State.DarkLaw; decide +kernel
  · unfold State.EmptyLaw; decide +kernel
  · unfold State.ClearLaw; decide +kernel

theorem test_greenSwitchedOn : (turning.group 2).config = some (veh 6 7 8 60)
    ∧ (turning.circuit 8).drive.on = false ∧ ((after (step turning)).circuit 8).drive.on = true
    ∧ turning.intergreen 0 2 = some 50 := by decide +kernel

theorem test_turningSteps : ∃ t, step turning = .next t := ⟨_, rfl⟩

theorem test_stepsKeepTheStores_met : (running 53000).OneActive ∧ (running 53000).PointsLaw
    ∧ ∃ t, step (running 53000) = .next t := by
  refine ⟨?_, ?_, _, rfl⟩
  · unfold State.OneActive; decide +kernel
  · unfold State.PointsLaw; decide +kernel

theorem test_circuitLaw_met : (running 53000).CircuitLaw := by
  have h : ∀ c : CircuitIx, let k := (running 53000).circuit c
      (1 ≤ k.heads ∧ k.heads ≤ 4 ∧ k.residual ≤ 8 ∧ (k.technology = .incandescent → k.residual = 0))
      ∧ (∀ r ∈ k.lamp.fullRef, 20 ≤ r ∧ r ≤ 4000) ∧ (∀ r ∈ k.lamp.dimRef, 20 ≤ r ∧ r ≤ 4000)
      ∧ k.lamp.agreement ≤ 1 ∧ k.cable.count ≤ 3 ∧ (k.cable.counted = none → k.cable.count = 0)
      ∧ ∀ t ∈ k.lamp.training, t.samples < 4 ∧ 1 ≤ t.attempt ∧ t.attempt ≤ 3 := by
    decide +kernel
  exact h

theorem test_stepsKeepThePreemptionLaws_met : (dwelling 80000 true).PreemptLaw
    ∧ ∃ t, step (dwelling 80000 true) = .next t := by
  refine ⟨?_, _, rfl⟩
  unfold State.PreemptLaw; decide +kernel

/-- The events of the sequencer, the schedule and the junction in their conditions (log entry 5). -/
theorem test_dueEvents_met :
    let c := running 15000
    let step := (mode .stepped c).setLatch true
    let sync := mode .synced (running 193000)
    let sync := sync.setSeq { sync.seq with sync := .held, watchStart := some 8000 }
    let flash := { supplied .flash [.flashAmber] with
      now := 500, output := { town.output with flash := some { on := true, next := 500 } } }
    let all := { c with junction := { c.junction with clearance := some (.allRed 6000) } }
    let line := { withEntries 9000 with now := 1000 }
    flash.flashDue = true ∧ step.latchDue = true ∧ sync.syncExpired = true ∧ all.allRedEndDue = true
    ∧ (c.setSeq { c.seq with state := .clearance, loseAt := some 15000 }).loseDue .clearance = true
    ∧ (c.setSeq { c.seq with state := .interstage, loseAt := some 15000 }).loseDue .interstage = true
    ∧ (dwelling 190000 true).maxDwellDue = true
    ∧ ({ supplied .startFlash [.flashAmber] with now := 10000 } : State).startFlashEndDue = true
    ∧ ({ supplied .startRed [.red, .red, .red, .red] with now := 5000 } : State).startRedEndDue = true
    ∧ (line.setLine 0 { active := true, since := 800, asserted := false }).prqAssertDue 0 = true
    ∧ (line.setLine 0 { active := false, since := 0, asserted := true }).prqReleaseDue 0 = true := by
  decide +kernel

/-- The events of the channel and of supervision in their conditions. -/
theorem test_dueMeasurements_met :
    let due := (watchAt 2150).setSchedule 0 { litSince := some 0, nextDue := some 2150, presented := none }
    let shown := (watchAt 2150).setSchedule 0 { litSince := some 0, nextDue := none, presented := some 1950 }
    let settling := { watchAt 1000 with sup := { town.sup with settlingEnd := some 1000 } }
    due.requestDue 0 = true ∧ shown.dropDue 0 = true ∧ settling.settlingDue = true
    ∧ ({ watchAt 1000 with channel := { idleChannel with shortDue := some 1000 } } : State).shortDueNow = true
    ∧ (watchAt 4000).checkDue 8 = true ∧ (watchAt 4000).lateDue 8 = true ∧ (watchAt 4000).ageReached 8 4000 = true
    ∧ (watchAt 4000).roundNext = some 1 ∧ (watchAt 4000).sup.roundOffer ≠ some 1
    ∧ (litAt 1000 none).litWindow ≠ none ∧ foreign.darkWindow ≠ none
    ∧ (calibrating .long 1 2000).attemptEnding .long 2000 ≠ none
    ∧ (calibrating .short 1 100).attemptEnding .short 100 ≠ none := by decide +kernel

end Sys2Proof.Tests
end

section
/-! The four orders of the plan store (R45, R46): what each writes, and O52 from it. -/

namespace Sys2Proof

/-- A record written with what it holds changes nothing. -/
theorem Table.set_get {n : Nat} {α : Type} (t : Table n α) (i : Fin n) : t.set i (t.get i) = t := by
  simp [Table.set, Table.get]

namespace Machine

variable {s : State} {p : PlanIx}

/-- The common write of MAKE_SELECTED and MAKE_ACTIVE (R45): one plan moves to a state that only one plan
holds, and any other plan that held it returns to READY. -/
def State.promotePlan (s : State) (p : PlanIx) (ph : PlanPhase) : State :=
  { s with plans := (s.plans.map (Plan.unless ph)).set p ((s.plan p).toPhase ph) }

theorem State.promotePlan_plan_self (ph : PlanPhase) :
    (s.promotePlan p ph).plan p = (s.plan p).toPhase ph := Table.get_set_self ..

theorem State.promotePlan_plan_of_ne {q : PlanIx} (ph : PlanPhase) (h : q ≠ p) :
    (s.promotePlan p ph).plan q =
      if (s.plan q).phase = some ph then (s.plan q).toPhase .ready else s.plan q :=
  (Table.get_set_ne _ _ h).trans (Table.get_map ..)

/-! ## Where each order acts, and where it does not -/

/-- A plan outside the states that hold derived fields has nothing to move. -/
theorem Plan.toPhase_of_phase_none {r : Plan} (ph : PlanPhase) (h : r.phase = none) :
    r.toPhase ph = r := by
  cases r with
  | free => rfl
  | draft b => rfl
  | valid ph' b d => cases h

theorem makeSelected_eq_promotePlan (hr : (s.plan p).phase = some .ready)
    (hb : (s.plan p).isBase = true) : s.makeSelected p = s.promotePlan p .selected := if_pos ⟨hr, hb⟩

theorem makeSelected_eq_self (h : (s.plan p).phase ≠ some .ready ∨ (s.plan p).isBase = false) :
    s.makeSelected p = s := by
  refine if_neg fun ⟨hr, hb⟩ => ?_
  cases h with
  | inl hn => exact hn hr
  | inr hn => exact absurd hb (by simp [hn])

theorem makeActive_eq_promotePlan
    (hr : (s.plan p).phase = some .ready ∨ (s.plan p).phase = some .selected)
    (hb : (s.plan p).isBase = true) :
    s.makeActive p = if (s.plan p).stretched then (s.promotePlan p .active).raise .cycleStretched
      else s.promotePlan p .active := if_pos ⟨hr, hb⟩

theorem makeActive_eq_self
    (h : ((s.plan p).phase ≠ some .ready ∧ (s.plan p).phase ≠ some .selected)
      ∨ (s.plan p).isBase = false) : s.makeActive p = s := by
  refine if_neg fun ⟨hr, hb⟩ => ?_
  cases h with
  | inl hn => exact hr.elim hn.1 hn.2
  | inr hn => exact absurd hb (by simp [hn])

/-- CYCLE_STRETCHED touches no plan, so the plans after MAKE_ACTIVE are those of the move (R45). -/
theorem makeActive_plan
    (hr : (s.plan p).phase = some .ready ∨ (s.plan p).phase = some .selected)
    (hb : (s.plan p).isBase = true) (q : PlanIx) :
    (s.makeActive p).plan q = (s.promotePlan p .active).plan q := by
  rw [makeActive_eq_promotePlan hr hb]
  split
  · exact State.raise_plan ..
  · rfl

theorem makeActive_frame
    (hr : (s.plan p).phase = some .ready ∨ (s.plan p).phase = some .selected)
    (hb : (s.plan p).isBase = true) :
    s.makeActive p = { s with
      plans := (s.makeActive p).plans,
      link := if (s.plan p).stretched then (s.raise .cycleStretched).link else s.link } := by
  rw [makeActive_eq_promotePlan hr hb]
  split <;> rfl

theorem makeInvoked_eq_setPlan (hr : (s.plan p).phase = some .ready)
    (hc : (s.plan p).cls = some .preempt) :
    s.makeInvoked p = s.setPlan p ((s.plan p).toPhase .invoked) := if_pos ⟨hr, hc⟩

theorem makeInvoked_eq_self (h : (s.plan p).phase ≠ some .ready ∨ (s.plan p).cls = some .base) :
    s.makeInvoked p = s := by
  refine if_neg fun ⟨hr, hc⟩ => ?_
  cases h with
  | inl hn => exact hn hr
  | inr hb => exact absurd (hb.symm.trans hc) (by decide)

theorem returnReady_of_valid {ph : PlanPhase} {b : PlanBody} {d : Derived}
    (h : s.plan p = .valid ph b d) : s.returnReady p = s.setPlan p (.valid .ready b d) := by
  rw [State.returnReady, h, Plan.toPhase]

theorem returnReady_eq_self (h : (s.plan p).phase = none) : s.returnReady p = s := by
  rw [State.returnReady, Plan.toPhase_of_phase_none _ h, State.setPlan, State.plan, Table.set_get]

/-- Settles O52: each order is read off its guard, and the two of R45 through their common write. -/
theorem planOrdersMoveStates : Obligations.PlanOrdersMoveStates := by
  intro s p
  refine ⟨fun hr hb => ?selected, makeSelected_eq_self, fun hr hb => ?active, makeActive_eq_self,
    makeInvoked_eq_setPlan, makeInvoked_eq_self, fun _ _ _ => returnReady_of_valid,
    returnReady_eq_self⟩
  case selected =>
    rw [makeSelected_eq_promotePlan hr hb]
    exact ⟨rfl, State.promotePlan_plan_self _, fun _ hq => State.promotePlan_plan_of_ne _ hq⟩
  case active =>
    exact ⟨makeActive_frame hr hb,
      (makeActive_plan hr hb p).trans (State.promotePlan_plan_self _),
      fun q hq => (makeActive_plan hr hb q).trans (State.promotePlan_plan_of_ne _ hq)⟩

end Machine

end Sys2Proof
end

section
/-! RECALIBRATE (R130): what it does in each class of channel states, and O24 from it. -/

namespace Sys2Proof.Machine

variable {s : State}

/-- A channel that is neither measuring nor in a long calibration begins one. -/
theorem exec_recalibrate_of_startable (hs : s.Listens)
    (hc : s.channel.state = .ready ∨ s.channel.state = .fault ∨ s.channel.state = .calShort) :
    exec .recalibrate s = .next ((s.setChannel (s.channel.beginLong s.now)).accept (.word 0)) := by
  obtain ⟨hreset, hidle⟩ := hs
  change execRecalibrate s = _
  rw [execRecalibrate, State.taken_of_idle hreset hidle]
  rcases hc with hready | hfault | hshort
  · simp only [hready]
  · simp only [hfault]
  · simp only [hshort]

/-- A measurement in flight is left to end, and the calibration is owed (R131). -/
theorem exec_recalibrate_of_measuring (hs : s.Listens) (hc : s.channel.state = .measuring) :
    exec .recalibrate s =
      .next ((s.setChannel { s.channel with owed := true }).accept (.word 1)) := by
  obtain ⟨hreset, hidle⟩ := hs
  change execRecalibrate s = _
  rw [execRecalibrate, State.taken_of_idle hreset hidle]
  simp only [hc]

/-- A long calibration under way goes on as it stands. -/
theorem exec_recalibrate_of_calLong (hs : s.Listens) (hc : s.channel.state = .calLong) :
    exec .recalibrate s = .next (s.accept (.word 2)) := by
  obtain ⟨hreset, hidle⟩ := hs
  change execRecalibrate s = _
  rw [execRecalibrate, State.taken_of_idle hreset hidle]
  simp only [hc]

/-- Settles O24: the rows of R130's table, the first with `Channel.beginLong` for its effect. -/
theorem recalibrateByChannelState : Obligations.RecalibrateByChannelState := fun _ hs =>
  ⟨exec_recalibrate_of_startable hs, exec_recalibrate_of_measuring hs, exec_recalibrate_of_calLong hs⟩

end Sys2Proof.Machine
end

section
/-! The classification of a current (R137, R138): what `classify` answers in each class of currents, the
lit-head estimate as the integer arithmetic of R138, what a measurement records, and O44 from them. -/

namespace Sys2Proof.Machine

variable {n r iref i : Nat}

/-- R137 step 1. -/
@[simp] theorem classify_none (n r i : Nat) : classify n r none i = (.unproven, none) := rfl

/-- R137 step 2. -/
theorem classify_of_overcurrent (n r : Nat) (h : i = 4095 ∨ 3 * iref ≤ 2 * i) :
    classify n r (some iref) i = (.overcurrent, none) := if_pos h

/-- R138 step 5: a current that passes both steps of R137 is classified by its estimate. -/
theorem classify_of_countable (n r : Nat) (hsat : i ≠ 4095) (hlow : 2 * i < 3 * iref) :
    classify n r (some iref) i =
      (if litEstimate n r iref i = n then .proven
        else if litEstimate n r iref i = 0 then .out else .partialOut, some (litEstimate n r iref i)) :=
  if_neg (not_or.mpr ⟨hsat, hlow.not_ge⟩)

/-- R138 steps 3 and 4: the truncated subtractions of `litEstimate` lose nothing, since N is cut off at 0
exactly where R138 answers 0, and r stays below 16. -/
theorem litEstimate_cast (n iref i : Nat) (hr : r ≤ 16) :
    let N : Int := 16 * n * i - n * r * iref
    let D : Int := (16 - r) * iref
    (litEstimate n r iref i : Int) = if N ≤ 0 then 0 else min (n : Int) ((2 * N + D) / (2 * D)) := by
  intro N D
  have hD : (((16 - r) * iref : Nat) : Int) = D := by push_cast [Nat.cast_sub hr]; rfl
  have hN : N = ((16 * n * i : Nat) : Int) - ((n * r * iref : Nat) : Int) := by push_cast; rfl
  by_cases hpos : N ≤ 0
  · have hnum : 16 * n * i - n * r * iref = 0 := by omega
    simp only [litEstimate, hnum, hpos, if_true, Nat.cast_zero]
  · have hnum : ((16 * n * i - n * r * iref : Nat) : Int) = N := by omega
    have hne : 16 * n * i - n * r * iref ≠ 0 := by omega
    simp only [litEstimate, hne, hpos, if_false]
    rw [← hnum, ← hD]
    norm_cast

/-- R137: every valid measurement sets the last current. -/
@[simp] theorem LampPart.measured_lastCurrent (l : LampPart) (cable : CableState) (i : Nat)
    (res : LampState × Option Nat) : (l.measured cable i res).lastCurrent = i := by
  simp only [LampPart.measured]
  split <;> rfl

/-- R138: the lamps lit estimate is set exactly where the heads were counted. -/
@[simp] theorem LampPart.measured_lit (l : LampPart) (cable : CableState) (i : Nat)
    (res : LampState × Option Nat) : (l.measured cable i res).lit = res.2.getD l.lit := by
  simp only [LampPart.measured]
  split <;> rfl

/-- Settles O44: the three classes of R137, and for a counted current the estimate of R138 in whole
numbers. -/
theorem currentsAreClassified : Obligations.CurrentsAreClassified := by
  intro l cable n r i ref hr
  refine ⟨l.measured_lastCurrent .., ?unproven, ?referenced⟩
  case unproven =>
    rintro rfl
    simp
  case referenced =>
    rintro iref rfl -
    refine ⟨fun hover => ?overcurrent, fun hsat hlow => ?counted⟩
    case overcurrent => simp [classify_of_overcurrent n r hover]
    case counted =>
      intro N D k
      have hk : (litEstimate n r iref i : Int) = k := litEstimate_cast n iref i (by omega)
      rw [LampPart.measured_lit, classify_of_countable n r hsat hlow, ← hk]
      norm_cast
      exact ⟨rfl, fun hall => if_pos hall, fun hall hzero => by rw [if_neg hall, if_pos hzero],
        fun hall hzero => by rw [if_neg hall, if_neg hzero]⟩

end Sys2Proof.Machine
end

section
/-! What a step answers. -/
namespace Sys2Proof.Machine

/-- The state an outcome goes on to; every outcome of the model is one (there is no fault and no refusal). -/
def stateOf (s : State) : Host.Outcome State Fault Refusal → State
  | .next t => t
  | _ => s

/-- Every command and event goes on to a state. -/
theorem exec_eq_next (i : Instr) (s : State) : exec i s = .next (stateOf s (exec i s)) := by
  cases i <;> rfl

end Sys2Proof.Machine
end

section
/-! The guard's laws across a step (R31, R32): O39 asks that every step keeps `GuardLaw`, and a preemption accepted
while a flash clearance runs over an IDLE sequencer does not. -/

namespace Sys2Proof.Machine

/-- RUNNING with a flash clearance and the sequencer IDLE, which the laws of the guard allow, and a preemption in the
queue. -/
def State.clearanceOverIdle : State :=
  { State.reset with
    output := { State.reset.output with safeEnable := true }
    junction := { State.reset.junction with state := .running, clearance := some .awaitingRed }
    plans := State.reset.plans.set 0 (.valid .ready { stages := [], fields := .preempt 50 100 }
      { interstages := [], effective := [], demand := 0, base := none })
    pre := { State.reset.pre with
      length := 1
      entries := State.reset.pre.entries.set 0
        { config := some { plan := 0, priority := 1, source := .command }, stuck := false, asserted := false } }
    pending := [.preemptAssert 1] }

theorem clearanceOverIdle_conflictInv : State.clearanceOverIdle.ConflictInv := by
  unfold State.ConflictInv State.SupplyInv State.EnableLaw State.ClearanceLaw State.SequencerLaw State.DrivesLaw
    State.DarkLaw State.EmptyLaw State.ClearLaw
  decide +kernel

theorem clearanceOverIdle_guardLaw : State.clearanceOverIdle.GuardLaw := by
  refine ⟨List.nodup_nil, fun older r newer h => ?_, fun h => absurd rfl h, fun _ => by decide +kernel⟩
  have : older ++ r :: newer = [] := h.symm
  simp at this

/-- The preemption is judged only against CLEARANCE (R90), so it is accepted, and its truncation begins its stage. -/
theorem clearanceOverIdle_begins_stage :
    let t := stateOf State.clearanceOverIdle (step State.clearanceOverIdle)
    t.junction.clearance ≠ none ∧ t.seq.state = .stage := by
  decide +kernel

/-- Refutes O39: the last of its clauses fails, at a preemption accepted over an IDLE sequencer in a clearance. -/
theorem not_guardAnswers : ¬ Obligations.GuardAnswers := by
  rintro ⟨-, -, -, keeps⟩
  obtain ⟨-, -, -, apart⟩ := keeps _ _ clearanceOverIdle_conflictInv clearanceOverIdle_guardLaw
    (exec_eq_next (.preemptAssert 1) { State.clearanceOverIdle with pending := [] })
  obtain ⟨clearance, stage⟩ := clearanceOverIdle_begins_stage
  exact (apart clearance).2 stage

end Sys2Proof.Machine
end

section
/-! The green-off instants across a step (R16): O54 asks that one moves only where the group was GREEN before the step,
and a group without a min green takes and loses GREEN in one. -/

namespace Sys2Proof.Machine

/-- An interstage that waits for the green of a group of min green 0, with a preemption accepted over it. -/
def State.greenForAnInstant : State :=
  { State.reset with
    now := 1000
    groups := State.reset.groups.set 0
      { config := some { reds := [], green := 0, minGreen := 0, vehicle := none }, aspect := .red,
        aspectEntry := 0, awaited := some 1000, greenOff := 0 }
    output := { State.reset.output with safeEnable := true }
    junction := { State.reset.junction with state := .running }
    plans := State.reset.plans.set 1 (.valid .invoked { stages := [], fields := .preempt 50 100 }
      { interstages := [], effective := [], demand := 0, base := none })
    seq := { Sequencer.atReset 1000 with state := .interstage, stage := some 1, gaining := [0], above := 1 }
    pre := { State.reset.pre with
      chain := [
        { plan := 1, invoker := some { entry := 0, priority := 1 }, stage := 1, elapsed := 0, slackLength := none,
          position := none, excess := 0, inDwell := false, dwell := 0 },
        { plan := 0, invoker := none, stage := 1, elapsed := 0, slackLength := none, position := none, excess := 0,
          inDwell := false, dwell := 0 }] }
    pending := [.greenStart 1] }

theorem greenForAnInstant_conflictInv : State.greenForAnInstant.ConflictInv := by
  unfold State.ConflictInv State.SupplyInv State.EnableLaw State.ClearanceLaw State.SequencerLaw State.DrivesLaw
    State.DarkLaw State.EmptyLaw State.ClearLaw
  decide +kernel

/-- The green ends the interstage, and the truncation that waited for it ends the green at its min-green expiry. -/
theorem greenForAnInstant_loses_green :
    let s := State.greenForAnInstant
    let t := stateOf s (step s)
    (t.group 0).greenOff ≠ (s.group 0).greenOff ∧ (s.group 0).aspect ≠ .green ∧ t.output.safeEnable = true := by
  decide +kernel

/-- Refutes O54: the green-off instant of a group that was RED before the step moves under SAFE_ENABLE. -/
theorem not_stepsKeepConflictsApart : ¬ Obligations.StepsKeepConflictsApart := by
  intro keeps
  obtain ⟨-, -, -, times⟩ := keeps _ _ greenForAnInstant_conflictInv
    (exec_eq_next (.greenStart 1) { State.greenForAnInstant with pending := [] })
  obtain ⟨-, -, off, -⟩ := times 0
  obtain ⟨moved, red, safe⟩ := greenForAnInstant_loses_green
  rcases (off moved).2 with green | dark
  · exact red green
  · exact absurd (safe.symm.trans dark) (by decide)

end Sys2Proof.Machine
end

section
/-! The machine and the commands of the link: the queue, the port, the resets, the idle step, the status and the
attention set. -/

namespace Sys2Proof.Machine

/-! ## Commands and events -/

/-- Settles O1. -/
theorem stepRunsTheFrontCommand : Obligations.StepRunsTheFrontCommand := fun _ _ _ => rfl

/-- A request of the link acts as its command where the port takes it (R175). -/
theorem exec_eq_taken (i : Instr) (h : isCommand i = true) : ∃ f, ∀ s, exec i s = .next (s.taken f) := by
  cases i <;> first | exact ⟨_, fun _ => rfl⟩ | cases h

/-- An event but a reset, the release of the chip select and a line's level acts while RESET_N is not held (R1). -/
theorem exec_eq_live (i : Instr) (h : isCommand i = false) (hn : i ≠ .resetNAsserted) (hl : i ≠ .lineReset)
    (hp : i ≠ .powerOnReset) (hc : i ≠ .chipSelectReleased) (hq : ∀ n a, i ≠ .prqLineChange n a) :
    ∃ f, ∀ s, exec i s = .next (s.live f) := by
  cases i with
  | resetNAsserted => exact absurd rfl hn
  | lineReset => exact absurd rfl hl
  | powerOnReset => exact absurd rfl hp
  | chipSelectReleased => exact absurd rfl hc
  | prqLineChange n a => exact absurd rfl (hq n a)
  | recordWriteUnsupported op _ => cases op <;> cases h
  | _ => first | exact ⟨_, fun _ => rfl⟩ | cases h

/-- A request that the port takes has its command's effect. -/
theorem exec_of_listens {i : Instr} {s : State} {f : State → State} (h : s.Listens)
    (e : exec i s = .next (s.taken f)) : exec i s = .next (f s) := by
  rw [e, State.taken_of_idle h.1 h.2]

/-- An event acts while RESET_N is not held. -/
theorem exec_of_live {i : Instr} {s : State} {f : State → State} (h : s.resetHeld = false)
    (e : exec i s = .next (s.live f)) : exec i s = .next (f s) := by
  rw [e, State.live_of_not_held h]

/-! ## Resets (R1) -/

theorem Transaction.atReset_of_ne {x : Transaction} (h : x ≠ .idle) : x.atReset = .discarded := by
  cases x with
  | idle => exact absurd rfl h
  | _ => rfl

/-- Settles O3. -/
theorem nothingRunsWhileResetIsHeld : Obligations.NothingRunsWhileResetIsHeld := by
  intro s
  refine ⟨rfl, fun held => ⟨?_, ?_, ?_, ?_⟩⟩
  · intro i hi hn hl hp hc hq
    obtain ⟨f, hf⟩ := exec_eq_live i hi hn hl hp hc hq
    rw [hf, State.live_of_held held]
  · intro i hi
    obtain ⟨f, hf⟩ := exec_eq_taken i hi
    rw [hf, State.taken_of_held held]
    unfold State.passOver
    exact ⟨fun idle => by rw [if_pos idle]; rfl, fun busy => by rw [if_neg busy]⟩
  · exact fun busy => ⟨_, rfl, Transaction.atReset_of_ne busy⟩
  · simp [State.attnPin, State.safeEnablePin, State.dimPin, State.drivePin, held]

theorem intergreen_replicate {s : State} (h : s.conflicts = Table.replicate 256 (some { up := 50, down := 50 }))
    {l g : GroupIx} (ne : l ≠ g) : s.intergreen l g = some 50 := by
  unfold State.intergreen State.pairOf
  rw [h]
  rcases lt_or_gt_of_ne ne with lt | gt
  · simp [lt]
  · simp [gt, not_lt_of_gt gt]

theorem allOnes_enables (k : Attention) : (BitVec.allOnes 18).getLsbD k.bit = true := by cases k <;> rfl

theorem afterReset_atReset (s : State) (cause : ResetCause) : (s.afterReset cause).AtReset := by
  refine ⟨⟨rfl, rfl, allOnes_enables⟩, fun g => ?_, fun c => ?_, ⟨rfl, rfl, rfl⟩,
    fun l g ne => intergreen_replicate rfl ne, rfl, fun p => ?_, rfl,
    ⟨rfl, rfl, rfl, rfl, fun e => ?_, fun n => ?_⟩, ⟨rfl, rfl, rfl, rfl, rfl, rfl, rfl⟩,
    ⟨rfl, rfl, rfl, rfl, rfl, rfl, rfl, rfl, rfl⟩, ⟨rfl, rfl, rfl⟩, ⟨rfl, rfl, rfl, rfl, rfl, rfl, rfl, rfl⟩⟩
  · simp [State.afterReset, State.group, Group.atReset]
  · simp [State.afterReset, State.circuit, Circuit.atReset]
  · simp [State.afterReset, State.plan, State.reset]
  · simp [State.afterReset, State.entry, State.reset]
  · simp [State.afterReset, PrqLine.atReset]

theorem afterReset_line (s : State) (cause : ResetCause) (n : LineIx) :
    ((s.afterReset cause).pre.lines.get n).active = (s.pre.lines.get n).active := by
  simp [State.afterReset, PrqLine.atReset]

theorem afterReset_transaction (s : State) (cause : ResetCause) : (s.afterReset cause).link.transaction =
    if s.link.transaction = .idle then .idle else .discarded := by
  unfold State.afterReset
  cases h : s.link.transaction <;> rfl

theorem afterReset_reply (s : State) (cause : ResetCause) : (s.afterReset cause).reply = none := by
  unfold State.reply
  rw [afterReset_transaction]
  split
  · rename_i h; split at h <;> cases h
  · rfl

/-- The machine right after a power-on reset is one reset at instant 0. -/
theorem reset_atReset : State.reset.AtReset := by
  have h : State.reset = (State.reset.afterReset .powerOn) := by decide +kernel
  rw [h]
  exact afterReset_atReset ..

/-- Settles O4. -/
theorem resetsGiveTheFirstColumn : Obligations.ResetsGiveTheFirstColumn := by
  refine ⟨fun s => ⟨?_, ?_⟩, reset_atReset, rfl, rfl, rfl⟩
  · exact ⟨_, rfl, afterReset_atReset s _, rfl, rfl, afterReset_line s _, rfl, afterReset_reply s _,
      afterReset_transaction s _⟩
  · exact ⟨_, rfl, afterReset_atReset s .line, rfl, rfl, afterReset_line s .line, rfl, afterReset_reply s .line,
      afterReset_transaction s .line, rfl,
      by simp [State.attnPin, State.afterReset, State.reset]⟩

/-! ## Attention and lock levels (R179 to R182) -/
/-- Every bit of the set stands for a kind (section 11.4). -/
theorem Attention.exists_bit {i : Nat} (h : i < 18) : ∃ k : Attention, k.bit = i :=
  match i, h with
  | 0, _ => ⟨.lampAlarm, rfl⟩
  | 1, _ => ⟨.cableAlarm, rfl⟩
  | 2, _ => ⟨.lockout, rfl⟩
  | 3, _ => ⟨.junctionState, rfl⟩
  | 4, _ => ⟨.trainDone, rfl⟩
  | 5, _ => ⟨.trainFail, rfl⟩
  | 6, _ => ⟨.cableLearned, rfl⟩
  | 7, _ => ⟨.calFail, rfl⟩
  | 8, _ => ⟨.monitorLate, rfl⟩
  | 9, _ => ⟨.syncLost, rfl⟩
  | 10, _ => ⟨.syncRegained, rfl⟩
  | 11, _ => ⟨.cycleStretched, rfl⟩
  | 12, _ => ⟨.planChanged, rfl⟩
  | 13, _ => ⟨.preemptStart, rfl⟩
  | 14, _ => ⟨.preemptEnd, rfl⟩
  | 15, _ => ⟨.preemptRefused, rfl⟩
  | 16, _ => ⟨.preemptStuck, rfl⟩
  | 17, _ => ⟨.schedulePlanInvalid, rfl⟩
  | n + 18, h => absurd h (by omega)

theorem Attention.bit_lt (k : Attention) : k.bit < 18 := by cases k <;> decide

/-- The three bytes are the set as a number, its most significant byte first. -/
theorem attentionBytes_value (a : BitVec 18) :
    (attentionBytes a).foldl (fun (n : Nat) (b : Byte) => 256 * n + b.toNat) 0 = a.toNat := by
  have := a.isLt
  simp only [attentionBytes, byte, List.foldl_cons, List.foldl_nil, BitVec.toNat_ofNat]
  omega

/-- A set meets a mask exactly in a kind that both hold. -/
theorem and_ne_zero_iff (a m : BitVec 18) :
    (a &&& m != 0) = true ↔ ∃ k : Attention, a.getLsbD k.bit = true ∧ m.getLsbD k.bit = true := by
  rw [bne_iff_ne, Ne, BitVec.eq_of_getLsbD_eq_iff]
  simp only [BitVec.getLsbD_and, BitVec.ofNat_eq_ofNat, BitVec.getLsbD_zero, not_forall, Bool.not_eq_false,
    Bool.and_eq_true]
  constructor
  · rintro ⟨i, hi, h⟩
    obtain ⟨k, rfl⟩ := Attention.exists_bit hi
    exact ⟨k, h⟩
  · rintro ⟨k, h⟩
    exact ⟨k.bit, k.bit_lt, h⟩

/-- Settles O7. -/
theorem attentionReadAndMask : Obligations.AttentionReadAndMask := by
  refine ⟨fun s listens => ⟨(exec_of_listens (i := .readAttention) listens rfl).trans rfl, rfl, fun k => ?_⟩,
    fun s m listens => ⟨_, exec_of_listens listens rfl, rfl, ?_⟩⟩
  · rw [attentionBytes_value, State.holds, ← BitVec.testBit_toNat]
  · simp only [State.attnPin, State.accept_resetHeld, State.setLink_resetHeld, listens.1, Bool.not_false, Bool.true_and]
    refine (and_ne_zero_iff _ _).trans (exists_congr fun k => and_congr Iff.rfl ?_)
    change (m.setWidth 18).getLsbD k.bit = true ↔ _
    simp [k.bit_lt]

/-- Settles O8. -/
theorem lockLevelsRefuse : Obligations.LockLevelsRefuse := by
  refine ⟨fun s ⟨held, idle⟩ => ⟨fun lock => ?_, fun lock => ?_⟩,
    fun s => ⟨fun ⟨held, idle⟩ => ⟨fun l => ?_, ?_⟩, rfl⟩⟩
  · have locked : s.safetyLocked = true := by simp [State.safetyLocked, lock]
    have refused : ∀ f : State → State, s.taken (fun t => t.safetyWrite f) = s.refuse .locked := fun f => by
      rw [State.taken_of_idle held idle, State.safetyWrite, if_pos locked]
    exact ⟨fun _ _ => congrArg _ (refused _), fun _ _ => congrArg _ (refused _), fun _ => congrArg _ (refused _),
      fun _ _ _ _ _ => congrArg _ (refused _), fun _ _ _ _ _ => congrArg _ (refused _),
      fun _ _ _ _ => congrArg _ (refused _), fun _ _ _ _ => congrArg _ (refused _)⟩
  · have locked : s.locked = true := by simp [State.locked, lock]
    have refused : ∀ f : State → State, s.taken (fun t => if t.locked then t.refuse .locked else f t) =
        s.refuse .locked := fun f => by rw [State.taken_of_idle held idle, if_pos locked]
    refine ⟨fun _ _ _ _ => congrArg _ (refused _), fun _ _ _ _ => congrArg _ (refused _),
      fun _ => congrArg _ (refused _), fun _ _ => congrArg _ (refused _), fun _ _ => congrArg _ (refused _),
      fun _ => congrArg _ (refused _), fun _ => congrArg _ (refused _), fun _ _ => congrArg _ (refused _),
      fun _ _ => congrArg _ (refused _), fun _ => congrArg _ (refused _), fun _ => congrArg _ (refused _),
      fun _ _ _ => congrArg _ (refused _), fun _ => congrArg _ (refused _), fun op kind unsupported => ?_,
      fun _ _ => congrArg _ (refused _), fun _ => congrArg _ (refused _), fun _ => congrArg _ (refused _),
      congrArg _ (refused _), fun _ => congrArg _ (refused _)⟩
    change Host.Outcome.next (s.taken _) = _
    rw [State.taken_of_idle held idle]
    simp only [unsupported, locked, if_true]
    rfl
  · exact congrArg _ (State.taken_of_idle held idle _)
  · exact congrArg _ (State.taken_of_idle held idle _)

/-! ## The status reply (R180) -/

/-- The stage index to show for each context, the top context first. -/
def State.stagesShown (s : State) : List Nat :=
  match s.pre.chain with
  | [] => []
  | c :: rest => s.stageShown.getD c.stage :: rest.map (·.stage)

/-- The bytes of the contexts shown, from the base upward. -/
def State.usedBytes (s : State) : List Byte :=
  ((s.pre.chain.zip s.stagesShown).reverse.take 3).flatMap fun x => x.1.bytes x.2

theorem contextBytes_eq (s : State) :
    s.contextBytes = s.usedBytes ++ List.replicate (9 - s.usedBytes.length) 0 := rfl

@[simp] theorem Context.bytes_length (c : Context) (i : Nat) : (c.bytes i).length = 3 := rfl

@[simp] theorem stagesShown_length (s : State) : s.stagesShown.length = s.pre.chain.length := by
  unfold State.stagesShown
  split
  · simp [*]
  · rename_i h; simp [h]

theorem flatMap_bytes_length (l : List (Context × Nat)) : (l.flatMap fun x => x.1.bytes x.2).length = 3 * l.length := by
  induction l with
  | nil => rfl
  | cons x l ih => simp only [List.flatMap_cons, List.length_append, Context.bytes_length, List.length_cons, ih]; omega

theorem usedBytes_length (s : State) : s.usedBytes.length = 3 * min 3 s.pre.chain.length := by
  rw [State.usedBytes, flatMap_bytes_length]
  simp

@[simp] theorem contextBytes_length (s : State) : s.contextBytes.length = 9 := by
  have := usedBytes_length s
  rw [contextBytes_eq, List.length_append, List.length_replicate]
  omega

/-- Three bytes at a place of the contexts' bytes. -/
theorem flatMap_bytes_at (l : List (Context × Nat)) (k : Nat) (x : Context × Nat) (rest : List Byte)
    (h : l[k]? = some x) :
    (((l.flatMap fun x => x.1.bytes x.2) ++ rest).drop (3 * k)).take 3 = x.1.bytes x.2 := by
  induction l generalizing k with
  | nil => cases h
  | cons y l ih =>
    cases k with
    | zero =>
      cases h
      rfl
    | succ k =>
      rw [List.flatMap_cons, List.append_assoc, List.drop_append, List.drop_of_length_le (by simp),
        List.nil_append, Context.bytes_length, show 3 * (k + 1) - 3 = 3 * k by omega]
      exact ih k h

/-- The stage index shown for the context at a place, counted from the base. -/
theorem zip_stagesShown (s : State) (k : Nat) (c : Context) (h : s.pre.chain.reverse[k]? = some c) :
    (s.pre.chain.zip s.stagesShown).reverse[k]? =
      some (c, if k + 1 = s.pre.chain.length then s.stageShown.getD c.stage else c.stage) := by
  obtain ⟨lt, -⟩ := List.getElem?_eq_some_iff.1 h
  rw [List.length_reverse] at lt
  rw [List.getElem?_reverse lt] at h
  rw [List.getElem?_reverse (by simpa using lt), List.length_zip, stagesShown_length, min_self]
  unfold State.stagesShown
  cases hc : s.pre.chain with
  | nil => rw [hc] at lt; cases lt
  | cons y rest =>
    rw [hc] at h lt
    dsimp only
    rw [List.length_cons] at h lt ⊢
    by_cases e : k + 1 = rest.length + 1
    · obtain rfl : k = rest.length := by omega
      simp only [Nat.add_sub_cancel, Nat.sub_self, List.getElem?_cons_zero, Option.some.injEq] at h
      subst h
      simp
    · obtain ⟨j, hj⟩ : ∃ j, rest.length + 1 - 1 - k = j + 1 := ⟨rest.length - 1 - k, by omega⟩
      rw [hj] at h ⊢
      rw [List.getElem?_cons_succ] at h
      have ne : k ≠ rest.length := by omega
      simp [List.getElem?_zip_eq_some, h, ne]

theorem contextBytes_at (s : State) (k : Nat) (c : Context) (lt : k < 3) (h : s.pre.chain.reverse[k]? = some c) :
    (s.contextBytes.drop (3 * k)).take 3 =
      c.bytes (if k + 1 = s.pre.chain.length then s.stageShown.getD c.stage else c.stage) := by
  rw [contextBytes_eq, State.usedBytes]
  refine flatMap_bytes_at _ k (c, _) _ ?_
  rw [List.getElem?_take_of_lt lt]
  exact zip_stagesShown s k c h

theorem contextBytes_unused (s : State) (k : Nat) (lt : k < 3) (h : s.pre.chain.length ≤ k) :
    (s.contextBytes.drop (3 * k)).take 3 = [0, 0, 0] := by
  have len := usedBytes_length s
  rw [contextBytes_eq, List.drop_append, List.drop_of_length_le (by omega), List.nil_append, List.drop_replicate,
    List.take_replicate, show min 3 (9 - s.usedBytes.length - (3 * k - s.usedBytes.length)) = 3 by omega]
  rfl

/-- Bytes 0 to 12. -/
def State.statusHead (s : State) : List Byte :=
  let p := s.positionShown.getD 65535
  [byte s.junction.state.code, byte (FlashClearance.code s.junction.clearance),
   byte s.junction.resetCause.code, byte s.seq.state.code, byte (s.stageShown.getD 0),
   byte (p / 256), byte p, byte s.junction.mode.code, byte s.seq.sync.code,
   byte (shown s.seq.current), byte (shown s.seq.pendingPlan), byte s.statusFlags,
   byte s.pre.chain.length]

/-- Bytes 22 to 29. -/
def State.statusTail (s : State) : List Byte :=
  [byte s.pre.waiting.length, byte s.channel.state.code,
    byte (s.sched.clock / 65536), byte (s.sched.clock / 256), byte s.sched.clock]
  ++ attentionBytes s.link.attention

theorem statusBytes_eq (s : State) : s.statusBytes = s.statusHead ++ (s.contextBytes ++ s.statusTail) := by
  simp only [State.statusBytes, State.statusHead, State.statusTail, List.append_assoc]

theorem statusBytes_head (s : State) {k : Nat} (h : k < 13) : s.statusBytes[k]? = s.statusHead[k]? := by
  rw [statusBytes_eq, List.getElem?_append_left h]

theorem statusBytes_contexts (s : State) {k : Nat} (h : k < 3) :
    (s.statusBytes.drop (13 + 3 * k)).take 3 = (s.contextBytes.drop (3 * k)).take 3 := by
  have : s.statusHead.length = 13 := rfl
  rw [statusBytes_eq, List.drop_append, List.drop_of_length_le (by omega), List.nil_append, this,
    Nat.add_sub_cancel_left, List.drop_append_of_le_length (by rw [contextBytes_length]; omega),
    List.take_append_of_le_length (by rw [List.length_drop, contextBytes_length]; omega)]

theorem statusBytes_tail (s : State) : s.statusBytes.drop 22 = s.statusTail := by
  have : s.statusHead.length = 13 := rfl
  rw [statusBytes_eq, ← List.append_assoc, List.drop_left' (by simp [this])]

/-- Byte 11: the latch, DIM and the clock's flag below the lock level. -/
theorem statusFlags_bits (s : State) :
    (byte s.statusFlags).getLsbD 0 = s.seq.latch ∧ (byte s.statusFlags).getLsbD 1 = s.output.dim
      ∧ (byte s.statusFlags).getLsbD 2 = s.sched.clockSet ∧ (byte s.statusFlags).getLsbD 3 = false
      ∧ byte s.statusFlags >>> 4 = byte (lockCode s.link.lock) := by
  unfold State.statusFlags
  cases s.seq.latch <;> cases s.output.dim <;> cases s.sched.clockSet <;> cases s.link.lock <;> decide

/-- The stage index's low four bits, with the dwell's flag above them. -/
theorem stageByte (i : Nat) (b : Bool) :
    byte (i % 16 + if b then 128 else 0) = byte (i % 16) ||| if b then 0x80 else 0 := by
  have lt : i % 16 < 16 := Nat.mod_lt _ (by decide)
  generalize i % 16 = n at lt
  interval_cases n <;> cases b <;> decide

/-- Settles O6. -/
theorem statusReplyShowsTheState : Obligations.StatusReplyShowsTheState := by
  intro s listens
  have at_ (k : Nat) (h : k < 13) := statusBytes_head s h
  refine ⟨exec_of_listens (i := .readStatus) listens rfl, by simp [statusBytes_eq, State.statusHead, State.statusTail,
      attentionBytes], at_ 0 (by decide), at_ 1 (by decide), at_ 2 (by decide), at_ 3 (by decide), ?_, ?_,
    at_ 7 (by decide), at_ 8 (by decide), ?_, ?_, ?_, at_ 12 (by decide), ?_, ?_,
    ?_, ?_, ?_⟩
  · rw [at_ 4 (by decide)]
    unfold State.statusHead
    cases s.stageShown <;> rfl
  · rw [statusBytes_eq]
    unfold State.statusHead
    cases s.positionShown <;> rfl
  · rw [at_ 9 (by decide)]
    unfold State.statusHead
    cases s.seq.current <;> rfl
  · rw [at_ 10 (by decide)]
    unfold State.statusHead
    cases s.seq.pendingPlan <;> rfl
  · exact ⟨_, at_ 11 (by decide), statusFlags_bits s⟩
  · intro k c lt h
    dsimp only
    rw [statusBytes_contexts s lt, contextBytes_at s k c lt h, Context.bytes, stageByte]
    cases c.invoker <;> rfl
  · intro k lt h
    rw [statusBytes_contexts s lt, contextBytes_unused s k lt h]
  · exact List.getElem?_drop.symm.trans (congrArg (·[0]?) (statusBytes_tail s))
  · exact List.getElem?_drop.symm.trans (congrArg (·[1]?) (statusBytes_tail s))
  · exact List.drop_drop.symm.trans (congrArg (List.drop 2) (statusBytes_tail s))

/-! ## The idle step (log entries 2, 4, 5) -/

/-- An event that would move nothing where it acts changes nothing. -/
theorem exec_live_unmoved {i : Instr} {s : State} {f : State → State} (e : exec i s = .next (s.live f))
    (h : f s = s) : exec i s = .next s := by
  rw [e, State.live, h, ite_self]

@[simp] theorem whenDue_false (s : State) (f : State → State) : s.whenDue false f = s := rfl

/-- What a free number picks stands in the list. -/
theorem pick_mem {α : Type} (s : State) {l : List α} (h : l ≠ []) : ∃ a ∈ l, s.pick l = some a := by
  match l, h with
  | [a], _ => exact ⟨a, List.mem_singleton_self a, rfl⟩
  | a :: b :: l, _ =>
    have lt : s.free % (a :: b :: l).length < (a :: b :: l).length := Nat.mod_lt _ (Nat.succ_pos _)
    exact ⟨_, List.getElem_mem lt, List.getElem?_eq_getElem lt⟩

@[simp] theorem mem_eventIf {due : Bool} {i j : Instr} : j ∈ eventIf due i ↔ due = true ∧ j = i := by
  cases due <;> simp [eventIf]

@[simp] theorem mem_eventsOf {n : Nat} {due : Fin n → Bool} {i : Nat → Instr} {j : Instr} :
    j ∈ eventsOf n due i ↔ ∃ k, due k = true ∧ i (number k) = j := by
  simp [eventsOf]

@[simp] theorem number_inj {n : Nat} {i j : Fin n} : number i = number j ↔ i = j := by
  simp [number, Fin.ext_iff]

theorem indexOf_outside {n k : Nat} (h : k = 0 ∨ n < k) : indexOf n k = none := by
  unfold indexOf
  rw [dif_neg (by omega)]

theorem numbered_number {n : Nat} (k : Fin n) : numbered n (number k) = true := by
  have := k.isLt
  simp [numbered, number]

theorem freeReading_inConverterRange (s : State) (place : Nat) : inConverterRange (s.freeReading place) = true := by
  have := freeReading_range s place
  simpa [inConverterRange] using this

theorem freeReadings_ok (s : State) (n a b : Nat) : readingsOk n (s.freeReadings n a) (s.freeReadings n b) = true := by
  simp [readingsOk, State.freeReadings, freeReading_inConverterRange]

/-- The due event of the cable round. -/
theorem mem_roundEvents {s : State} {j : Instr} : j ∈ s.roundEvents ↔
    ∃ c, s.roundOrder.find? s.eligible = some c ∧ s.sup.roundOffer ≠ some c ∧ j = .roundEligible (number c) := by
  unfold State.roundEvents
  split
  · rename_i c h
    simp [h]
  · rename_i h
    simp [h]

/-- Events a condition picks among numbered things are of operands their source can deliver. -/
theorem eventsOf_wellFormed {n : Nat} (due : Fin n → Bool) (i : Nat → Instr)
    (h : ∀ k : Fin n, (i (number k)).wellFormed = true) : ∀ j ∈ eventsOf n due i, j.wellFormed = true := by
  intro j hj
  obtain ⟨k, -, rfl⟩ := mem_eventsOf.1 hj
  exact h k

theorem eventIf_wellFormed (due : Bool) {i : Instr} (h : i.wellFormed = true) :
    ∀ j ∈ eventIf due i, j.wellFormed = true := by
  intro j hj
  rw [(mem_eventIf.1 hj).2]
  exact h

theorem runningEvents_wellFormed (s : State) : ∀ i ∈ s.runningEvents, i.wellFormed = true := by
  simp only [State.runningEvents, List.forall_mem_append]
  refine ⟨⟨⟨⟨⟨⟨⟨⟨⟨⟨eventsOf_wellFormed _ _ numbered_number, eventsOf_wellFormed _ _ numbered_number⟩,
    eventsOf_wellFormed _ _ numbered_number⟩, ?_⟩, ?_⟩, ?_⟩, ?_⟩, ?_⟩, ?_⟩, ?_⟩, ?_⟩
  all_goals exact eventIf_wellFormed _ rfl

theorem junctionEvents_wellFormed (s : State) : ∀ i ∈ s.junctionEvents, i.wellFormed = true := by
  simp only [State.junctionEvents, List.forall_mem_append]
  refine ⟨⟨⟨⟨⟨?_, eventsOf_wellFormed _ _ numbered_number⟩, eventsOf_wellFormed _ _ numbered_number⟩, ?_⟩, ?_⟩, ?_⟩
  all_goals exact eventIf_wellFormed _ rfl

theorem readingEvents_wellFormed (s : State) : ∀ i ∈ s.readingEvents, i.wellFormed = true := by
  simp only [State.readingEvents, List.forall_mem_append]
  refine ⟨⟨⟨eventIf_wellFormed _ ?_, eventIf_wellFormed _ ?_⟩, eventIf_wellFormed _ ?_⟩, eventIf_wellFormed _ ?_⟩
  all_goals simp [Instr.wellFormed, freeReading_inConverterRange, freeReadings_ok]

theorem measurementEvents_wellFormed (s : State) : ∀ i ∈ s.measurementEvents, i.wellFormed = true := by
  simp only [State.measurementEvents, List.forall_mem_append]
  refine ⟨⟨⟨⟨⟨⟨⟨⟨readingEvents_wellFormed s, eventIf_wellFormed _ rfl⟩, eventsOf_wellFormed _ _ numbered_number⟩,
    eventsOf_wellFormed _ _ numbered_number⟩, eventIf_wellFormed _ rfl⟩, eventsOf_wellFormed _ _ numbered_number⟩,
    eventsOf_wellFormed _ _ numbered_number⟩, eventsOf_wellFormed _ _ numbered_number⟩, fun i h => ?_⟩
  obtain ⟨c, -, -, rfl⟩ := mem_roundEvents.1 h
  exact numbered_number c

/-- Every due event is of operands its source can deliver. -/
theorem dueEvents_wellFormed (s : State) : ∀ i ∈ s.dueEvents, i.wellFormed = true := by
  simp only [State.dueEvents, List.forall_mem_append]
  exact ⟨⟨runningEvents_wellFormed s, junctionEvents_wellFormed s⟩, measurementEvents_wellFormed s⟩

theorem tick_of_due {s : State} (held : s.resetHeld = false) (due : s.dueEvents ≠ []) :
    ∃ i ∈ s.dueEvents, s.tick = s.place i := by
  obtain ⟨i, mem, picked⟩ := pick_mem s due
  exact ⟨i, mem, by simp [State.tick, held, picked]⟩

theorem tick_of_quiet {s : State} (h : s.resetHeld = true ∨ s.dueEvents = []) : s.tick = s.pass := by
  unfold State.tick
  rcases h with held | quiet
  · rw [if_pos held]
  · rw [quiet]; exact ite_self _

/-- Settles O2. -/
theorem idleStepsAndEvents : Obligations.IdleStepsAndEvents := by
  refine ⟨fun s empty => ⟨fun quiet => ?_, fun held due => ?_⟩, fun s g c n => ?_, fun s n => ?_, fun s g c n => ?_⟩
  · have : step s = .next s.tick := by unfold step; rw [empty]
    rw [this, tick_of_quiet quiet]
    rfl
  · have : step s = .next s.tick := by unfold step; rw [empty]
    obtain ⟨i, mem, e⟩ := tick_of_due held due
    exact ⟨i, mem, dueEvents_wellFormed s i mem, by rw [this, e]; rfl⟩
  · refine ⟨fun h => ?_, fun h => ?_, fun h => ?_, fun h => ?_, fun h => ?_, fun h => ?_, fun h => ?_, fun h => ?_,
      fun h => ?_, fun h => ?_, fun h => ?_, fun h => ?_, fun h => ?_, fun h => ?_, fun h => ?_, fun h => ?_,
      fun h => ?_, fun h => ?_, fun h => ?_, fun h => ?_, fun h => ?_, fun h => ?_, fun h => ?_, fun h => ?_,
      fun h => ?_, fun _ h => ?_, fun _ _ _ h => ?_, fun _ _ h => ?_, fun _ _ h => ?_⟩
    all_goals
      refine exec_live_unmoved rfl ?_
      simp [indexOf_number, h, State.whenDue]
  · refine ⟨fun h => ?_, fun h => ?_, fun h => ?_⟩
    · refine ⟨?_, ?_, ?_⟩
      all_goals
        refine exec_live_unmoved rfl ?_
        simp [indexOf_outside h]
    · refine ⟨?_, ?_, ?_, ?_, ?_, ?_⟩
      all_goals
        refine exec_live_unmoved rfl ?_
        simp [indexOf_outside h]
    · refine ⟨?_, ?_, fun a => ?_⟩
      · refine exec_live_unmoved rfl ?_
        simp [indexOf_outside h]
      · refine exec_live_unmoved rfl ?_
        simp [indexOf_outside h]
      · change Host.Outcome.next (match indexOf 4 n with | none => s | some _ => _) = _
        rw [indexOf_outside h]
  · simp only [State.dueEvents, State.runningEvents, State.junctionEvents, State.measurementEvents,
      State.readingEvents, List.mem_append, mem_eventIf, mem_eventsOf, mem_roundEvents]
    refine ⟨fun h => ?_, fun h => ?_, fun h => ?_, fun h => ?_, fun h => ?_, fun h => ?_, fun h => ?_, fun h => ?_,
      fun h => ?_, fun h => ?_, fun h => ?_, fun h => ?_, fun h => ?_, fun h => ?_, fun h => ?_, fun h => ?_,
      fun h => ?_, fun h => ?_, fun h => ?_, fun h => ?_, fun h => ?_, fun h => ?_, fun h => ?_, fun h => ?_,
      fun h h' => ?_, fun h => ⟨s.freeReading 0, ?_⟩,
      fun h => ⟨s.freeReading 0, s.freeReading 1, s.freeReading 2, ?_⟩,
      fun h => ⟨s.freeReadings 40 0, s.freeReadings 40 40, ?_⟩,
      fun h => ⟨s.freeReadings 2 0, s.freeReadings 2 2, ?_⟩⟩
    all_goals simp [Option.isSome_iff_ne_none, *]

end Sys2Proof.Machine
end

section
/-! READ_RECORD: the parts of a record and what a read of each kind shows (R178). -/

namespace Sys2Proof.Machine

/-- Slices of 56 one behind another are the bytes up to their end. -/
theorem flatMap_slices {α : Type} (l : List α) (k : Nat) :
    (List.range k).flatMap (fun i => (l.drop (56 * i)).take 56) = l.take (56 * k) := by
  induction k with
  | zero => rfl
  | succ k ih =>
    rw [List.range_succ, List.flatMap_append, ih, List.flatMap_singleton, Nat.mul_succ, List.take_add]

/-- The parts together are the record (R178). -/
theorem flatMap_partOf (l : List Byte) : (List.range (partsOf l.length)).flatMap (partOf l) = l := by
  unfold partsOf partOf
  by_cases h : l.length ≤ 60
  · simp [h]
  · simp only [h, if_false]
    rw [flatMap_slices, List.take_of_length_le (by omega)]

theorem partOf_length (l : List Byte) (q : Nat) :
    (partOf l q).length ≤ if partsOf l.length = 1 then 60 else 56 := by
  unfold partsOf partOf
  by_cases h : l.length ≤ 60
  · simp [h]
  · have : (l.length + 55) / 56 ≠ 1 := by omega
    simp [h, this]

theorem readPart_eq (s : State) (w : RecordView) (part : Nat) : s.readPart w part =
    if part < partsOf w.toBytes.length then
      s.accept (.record w part (partsOf w.toBytes.length) (partOf w.toBytes part))
    else s.refuse .range := rfl

/-- What is answered to a read (R178). -/
theorem exec_readRecord {s : State} (listens : s.Listens) (kind index part : Nat) (v : ReadView) :
    exec (.readRecord kind index .other part) s = .next (s.refuse .range)
    ∧ (s.view kind index v = none → exec (.readRecord kind index (.named v) part) s = .next (s.refuse .range))
    ∧ ∀ w, s.view kind index v = some w →
      exec (.readRecord kind index (.named v) part) s = .next (s.readPart w part) := by
  refine ⟨exec_of_listens (i := .readRecord kind index .other part) listens rfl, fun absent => ?_, fun w shown => ?_⟩
  · refine (exec_of_listens (i := .readRecord kind index (.named v) part) listens rfl).trans ?_
    simp only [absent]
  · refine (exec_of_listens (i := .readRecord kind index (.named v) part) listens rfl).trans ?_
    simp only [shown]

/-- A row of the conflict table in a FULL read (R27). -/
theorem viewConflict_row (s : State) (l : GroupIx) :
    ∃ row, s.viewConflict .full l = .conflictRow ((List.finRange 16).map (s.conflicting l)) (some row)
      ∧ row.length = 16 ∧ ∀ g : GroupIx, (s.conflicting l g = false → row[g.val]? = some none)
        ∧ ∀ a b, s.intergreen l g = some a → s.intergreen g l = some b → row[g.val]? = some (some (a, b)) := by
  refine ⟨_, rfl, by simp, fun g => ⟨fun apart => ?_, fun a b up down => ?_⟩⟩
  · have none : s.intergreen l g = none := by
      rw [State.conflicting, Option.isSome_eq_false_iff, Option.isNone_iff_eq_none] at apart
      simp [State.intergreen, apart]
    simp [none]
  · simp [up, down]

/-- Settles O11. -/
theorem recordReadsInParts : Obligations.RecordReadsInParts := by
  refine ⟨fun s kind index part v listens => ?_, ?_, fun s v => ?_⟩
  · obtain ⟨other, absent, shown⟩ := exec_readRecord listens kind index part v
    refine ⟨other, absent, fun w h => ?_⟩
    rw [shown w h, readPart_eq]
    exact ⟨fun lt => by rw [if_pos lt], fun le => by rw [if_neg (not_lt.2 le)], flatMap_partOf _,
      layOut_holdsNumbers _ _, fun q _ => partOf_length _ q⟩
  · refine ⟨fun _ _ _ k => ?_, fun _ _ _ _ _ k _ _ _ _ _ _ _ n _ => ⟨?_, fun t ht => ?_, fun x hx => ?_⟩,
      fun _ _ _ _ _ => ?_, fun b p hp => ?_, fun ph b d => ⟨?_, fun x hx => ?_⟩, fun _ _ _ _ _ => ?_,
      fun _ _ d => ⟨?_, fun r hr => ⟨?_, fun g hg => ?_⟩⟩, fun _ _ _ _ => ?_, fun r n hn => ?_⟩
    · simp [RecordView.wideNumbers, twoByte]
    · intro n hn
      exact List.mem_append_left _ (List.mem_append_left _ (List.mem_map_of_mem hn))
    · intro n hn
      refine List.mem_append_left _ (List.mem_append_right _ ?_)
      rw [ht]
      exact List.mem_map_of_mem hn
    · subst hx
      intro n hn
      exact List.mem_append_right _ (List.mem_map_of_mem hn)
    · simp [RecordView.wideNumbers, twoByte]
    · rcases hp with rfl | ⟨ph, d, rfl⟩
      · exact fun n hn => List.mem_map_of_mem hn
      · exact fun n hn => List.mem_append_left _ (List.mem_map_of_mem hn)
    · intro n hn
      refine List.mem_append_right _ (List.mem_map_of_mem ?_)
      simp only [List.mem_append, List.mem_cons, List.not_mem_nil, or_false] at hn ⊢
      exact hn.imp_right .inl
    · intro n hn
      refine List.mem_append_right _ (List.mem_map_of_mem ?_)
      rw [hx]
      exact List.mem_append_right _ (List.mem_cons_of_mem _ hn)
    · exact fun n hn => List.mem_map_of_mem hn
    · exact fun n hn => List.mem_append_left _ (List.mem_map_of_mem hn)
    · refine List.mem_append_right _ ?_
      rw [hr]
      exact List.mem_cons_self
    · refine List.mem_append_right _ ?_
      rw [hr]
      refine List.mem_cons_of_mem _ ?_
      rw [hg]
      exact List.mem_singleton_self _
    · simp [RecordView.wideNumbers, twoByte]
    · simp [RecordView.wideNumbers, hn]
  · refine ⟨fun g => ?_, fun c => ?_, fun l => ?_, fun p => ?_, fun e => ?_, rfl, rfl, rfl, rfl, rfl, rfl, rfl,
      fun kind index h => ?_, fun index h => ?_, fun index h => ?_, fun index h => ?_⟩
    · simp [State.view, indexOf_number, State.viewGroup, State.since]
    · simp [State.view, indexOf_number, State.viewCircuit]
    · obtain ⟨row, shown, rest⟩ := viewConflict_row s l
      refine ⟨?_, row, ?_, rest⟩
      · simp [State.view, indexOf_number, State.viewConflict]
      · simp [State.view, indexOf_number, shown]
    · refine ⟨by simp [State.view, indexOf_number, State.viewPlan], ?_⟩
      simp only [State.view, indexOf_number, Option.map_some, State.viewPlan]
      cases s.plan p <;> rfl
    · simp [State.view, indexOf_number, State.viewEntry]
    · unfold State.view
      split
      all_goals first | rfl | omega
    · simp [State.view, indexOf_outside h]
    · simp [State.view, indexOf_outside h]
    · simp [State.view, indexOf_outside h]

end Sys2Proof.Machine
end

section
/-! What the port answers (R175 to R177): the reply of every command, and the port's own checks (R176). -/

namespace Sys2Proof.Machine

/-! ## The reply of a command -/

/-- A payload that a reply can carry (R177). -/
def Payload.Fits (p : Payload) : Prop := p.toBytes.length ≤ 60

theorem detailBytes_le (p : Payload) (place : Nat) (d : Detail) (h : ∀ width value, d = .number width value → width ≤ 2) :
    (p.detailBytes place d).length ≤ 4 := by
  have := detailBytes_length p place d
  cases d with
  | number width value => have := h width value rfl; simp only at *; omega
  | named x => simp only at *; omega

theorem layOut_length (p : Payload) (l : List Detail)
    (h : ∀ d ∈ l, ∀ width value, d = .number width value → width ≤ 2) : (p.layOut l).length ≤ 4 * l.length := by
  have each : ∀ m : List (Detail × Nat), (∀ x ∈ m, x.1 ∈ l) →
      (m.flatMap fun x => p.detailBytes x.2 x.1).length ≤ 4 * m.length := by
    intro m
    induction m with
    | nil => intro _; exact Nat.le_refl 0
    | cons x m ih =>
      intro hm
      have first := detailBytes_le p x.2 x.1 (h _ (hm x List.mem_cons_self))
      have rest := ih fun y hy => hm y (List.mem_cons_of_mem _ hy)
      simp only [List.flatMap_cons, List.length_append, List.length_cons]
      omega
  have := each l.zipIdx fun x hx => List.fst_mem_of_mem_zipIdx hx
  simpa [Payload.layOut] using this

@[simp] theorem Payload.fits_empty : Payload.Fits .empty := by simp [Payload.Fits, Payload.toBytes]
@[simp] theorem Payload.fits_word (n : Nat) : Payload.Fits (.word n) := by simp [Payload.Fits, Payload.toBytes]
@[simp] theorem Payload.fits_taken (c : CircuitIx) : Payload.Fits (.taken c) := by simp [Payload.Fits, Payload.toBytes]
@[simp] theorem Payload.fits_preempt (code : PCode) (e : Nat) : Payload.Fits (.preempt code e) := by
  simp [Payload.Fits, Payload.toBytes]

@[simp] theorem Payload.fits_status (s : State) : Payload.Fits (.bytes s.statusBytes) := by
  simp [Payload.Fits, Payload.toBytes, statusBytes_eq, State.statusHead, State.statusTail, attentionBytes]

@[simp] theorem Payload.fits_attention (a : BitVec 18) : Payload.Fits (.bytes (attentionBytes a)) := by
  simp [Payload.Fits, Payload.toBytes, attentionBytes]

@[simp] theorem Payload.fits_invalid (x : ValidationFailure) : Payload.Fits (.invalid x) := by
  have len := layOut_length (.invalid x) x.details (by cases x <;> simp [ValidationFailure.details])
  have : x.details.length ≤ 3 := by cases x <;> simp [ValidationFailure.details]
  simp only [Payload.Fits, Payload.toBytes, List.length_cons]
  omega

@[simp] theorem Payload.fits_validated (cls : PlanClass) (demand : Nat) (cycle : Option (Nat × Bool)) :
    Payload.Fits (.validated cls demand cycle) := by
  have len := layOut_length (.validated cls demand cycle) (passDetails cls demand cycle)
    (by cases cycle <;> simp [passDetails])
  have : (passDetails cls demand cycle).length ≤ 4 := by cases cycle <;> simp [passDetails]
  simp only [Payload.Fits, Payload.toBytes]
  omega

@[simp] theorem Payload.fits_part (view w : RecordView) (part : Nat) :
    Payload.Fits (.record view part (partsOf w.toBytes.length) (partOf w.toBytes part)) := by
  have len := partOf_length w.toBytes part
  simp only [Payload.Fits, Payload.toBytes]
  split
  · split at len <;> omega
  · rename_i several
    rw [if_neg (by omega)] at len
    simp only [List.length_cons]
    omega

/-- What a command leaves of the port: it is passed over, its request has begun, or its reply stands, of a payload of
at most 60 bytes; and a refusal moves nothing else but the count of free values (R175 to R177). -/
def State.Answered (s t : State) : Prop :=
  t = s ∨ t = s.receive ∨ ∃ r : Reply, t.reply = some r ∧ r.payload.Fits
    ∧ (r.status = .ok ∨ r.status = .preempt
      ∨ t = { s with link := { s.link with transaction := .replying r }, draws := t.draws })

section
variable (s : State)

@[simp] theorem answered_self : s.Answered s := .inl rfl
@[simp] theorem answered_receive : s.Answered s.receive := .inr (.inl rfl)
@[simp] theorem answered_refuse (st : Status) : s.Answered (s.refuse st) :=
  .inr (.inr ⟨_, rfl, Payload.fits_empty, .inr (.inr rfl)⟩)
@[simp] theorem answered_accept (u : State) {p : Payload} (h : p.Fits) : s.Answered (u.accept p) :=
  .inr (.inr ⟨_, rfl, h, .inl rfl⟩)
theorem answered_settle {u : State} {r : Reply} (b : State) (h : u.reply = some r) (fits : r.payload.Fits)
    (ok : r.status = .ok ∨ r.status = .preempt) : s.Answered (b.settle u) :=
  .inr (.inr ⟨r, (still_reply (settle_still b u)).trans h, fits, ok.imp_right .inl⟩)
@[simp] theorem answered_settle_accept (b u : State) {p : Payload} (h : p.Fits) :
    s.Answered (b.settle (u.accept p)) := answered_settle s b rfl h (.inl rfl)
theorem answered_invalid (x : ValidationFailure) : s.Answered (s.answer { status := .invalid, payload := .invalid x }) :=
  .inr (.inr ⟨_, rfl, Payload.fits_invalid x, .inr (.inr rfl)⟩)
theorem answered_preempt (code : PCode) (e : Nat) :
    s.Answered (s.answer { status := .preempt, payload := .preempt code e }) :=
  .inr (.inr ⟨_, rfl, Payload.fits_preempt code e, .inr (.inl rfl)⟩)


theorem answered_of_taken {s t : State} {i : Instr} {f : State → State} (listens : s.Listens)
    (h : exec i s = .next t) (e : exec i s = .next (s.taken f)) (answered : s.Answered (f s)) : s.Answered t := by
  rw [exec_of_listens listens e] at h
  cases h
  exact answered

@[simp] theorem answered_safetyWrite {f : State → State} (h : s.Answered (f s)) : s.Answered (s.safetyWrite f) := by
  unfold State.safetyWrite
  split
  · simp
  · split
    · simp
    · exact h

@[simp] theorem answered_refuseTaken (l : List CircuitIx) : s.Answered (s.refuseTaken l) := by
  unfold State.refuseTaken
  split
  · refine .inr (.inr ⟨_, rfl, Payload.fits_taken _, .inr (.inr ?_)⟩)
    dsimp only
    split <;> rfl
  · simp

@[simp] theorem answered_placeGroup (g : GroupIx) (f : GroupFields) : s.Answered (s.placeGroup g f) := by
  unfold State.placeGroup
  split
  · simp
  · split
    · split
      · exact answered_accept s _ Payload.fits_empty
      · simp
    · exact answered_refuseTaken s _

@[simp] theorem answered_placeCircuit (c : CircuitIx) (t : Option Technology) (n r : Option Nat) :
    s.Answered (s.placeCircuit c t n r) := by
  unfold State.placeCircuit
  dsimp only
  split
  · simp
  · split
    · simp
    · split
      · simp
      · exact answered_settle_accept s _ _ Payload.fits_empty

@[simp] theorem answered_placePair (l g : GroupIx) (flag : Bool) (a b : Option Nat) :
    s.Answered (s.placePair l g flag a b) := by
  unfold State.placePair
  split
  · simp
  · split
    · exact answered_accept s _ Payload.fits_empty
    · simp

@[simp] theorem answered_placeJunction (a b c : Nat) (m : Bool) : s.Answered (s.placeJunction a b c m) := by
  unfold State.placeJunction
  split
  · exact answered_accept s _ Payload.fits_empty
  · simp

@[simp] theorem answered_placePlan (p : PlanIx) (f : PlanFields) : s.Answered (s.placePlan p f) := by
  unfold State.placePlan
  split
  · simp
  · exact answered_accept s _ Payload.fits_empty

@[simp] theorem answered_placeEntry (e : EntryIx) (f : EntryFields) : s.Answered (s.placeEntry e f) := by
  unfold State.placeEntry
  split
  · simp
  · exact answered_accept s _ Payload.fits_empty

@[simp] theorem answered_validate (p : PlanIx) : s.Answered (s.validate p) := by
  unfold State.validate
  split
  · simp
  · exact answered_accept s _ (Payload.fits_validated ..)
  · split
    · exact answered_invalid s _
    · exact answered_accept s _ (Payload.fits_validated ..)

@[simp] theorem answered_readPart (w : RecordView) (part : Nat) : s.Answered (s.readPart w part) := by
  rw [readPart_eq]
  split
  · exact answered_accept s _ (Payload.fits_part ..)
  · simp

@[simp] theorem answered_refuseRequest (frame : List Byte) : s.Answered (s.refuseRequest frame) := by
  unfold State.refuseRequest
  split
  · split
    · split
      · simp
      · split <;> simp
    · simp
  · simp

@[simp] theorem answered_dimCommand (on : Bool) : s.Answered (s.dimCommand on) := by
  unfold State.dimCommand
  split
  · exact answered_accept s _ Payload.fits_empty
  · exact answered_settle_accept s _ _ Payload.fits_empty

@[simp] theorem answered_modeCommand (m : Mode) : s.Answered (s.modeCommand m) := by
  unfold State.modeCommand
  split
  · exact answered_accept s _ Payload.fits_empty
  · exact answered_settle_accept s _ _ Payload.fits_empty

theorem Judgement.reply_fits (e : EntryIx) (j : Judgement) :
    (j.reply e).payload.Fits ∧ ((j.reply e).status = .ok ∨ (j.reply e).status = .preempt) := by
  cases j with
  | accepted => exact ⟨Payload.fits_word _, .inl rfl⟩
  | waits => exact ⟨Payload.fits_word _, .inl rfl⟩
  | refused code => exact ⟨Payload.fits_preempt .., .inr rfl⟩

@[simp] theorem answered_preemptAssert (e : EntryIx) : s.Answered (s.preemptAssert e) := by
  unfold State.preemptAssert
  split
  · split
    · exact answered_accept s _ (Payload.fits_word _)
    · exact answered_accept s _ (Payload.fits_word _)
  · obtain ⟨fits, ok⟩ := Judgement.reply_fits e ((s.setAsserted e true).judgement e)
    exact answered_settle s s rfl fits ok

@[simp] theorem answered_preemptRelease (e : EntryIx) : s.Answered (s.preemptRelease e) := by
  unfold State.preemptRelease
  split
  · exact answered_preempt s _ _
  · split
    · exact answered_preempt s _ _
    · split
      · exact answered_accept s _ Payload.fits_empty
      · exact answered_accept s _ Payload.fits_empty

end

/-- Every command that the port takes is answered: along each branch of its checks it is refused, or accepted with a
payload that fits. -/
theorem command_answered {i : Instr} {s t : State} (h : isCommand i = true) (listens : s.Listens)
    (e : exec i s = .next t) : s.Answered t := by
  cases i with
  | writeRecordGroup | updateFieldsGroup | retireRecordGroup | writeRecordConflict | updateFieldsConflict
  | writeRecordJunction | updateFieldsJunction =>
    refine answered_of_taken listens e rfl (answered_safetyWrite s ?_)
    repeat' split
    all_goals simp
  | releaseToSchedule =>
    refine answered_of_taken listens e rfl ?_
    dsimp only
    split
    all_goals simp
  | _ =>
    first
    | cases h; done
    | refine answered_of_taken listens e rfl ?_
      repeat' split
      all_goals simp

/-- A command that the port does not take leaves no reply but one that stands already (R1, R175). -/
theorem command_ignored {i : Instr} {s t : State} (h : isCommand i = true) (busy : ¬s.Listens)
    (e : exec i s = .next t) : t = s ∨ t.reply = none := by
  obtain ⟨f, hf⟩ := exec_eq_taken i h
  rw [hf] at e
  cases e
  by_cases held : s.resetHeld = true
  · rw [State.taken_of_held held]
    unfold State.passOver
    split
    · exact .inr rfl
    · exact .inl rfl
  · exact .inl (State.taken_of_busy (fun idle => busy ⟨by simpa using held, idle⟩) f)

/-- Settles O10. -/
theorem refusedCommandsChangeNothing : Obligations.RefusedCommandsChangeNothing := by
  intro i s t r command e reply notOk notPreempt
  by_cases listens : s.Listens
  · rcases command_answered command listens e with rfl | rfl | ⟨q, hq, -, ok | preempt | frame⟩
    · rfl
    · rfl
    · rw [reply] at hq; cases hq; exact absurd ok notOk
    · rw [reply] at hq; cases hq; exact absurd preempt notPreempt
    · rw [frame]
  · rcases command_ignored command listens e with rfl | none
    · rfl
    · rw [reply] at none; cases none



end Sys2Proof.Machine
end

section
/-! The port's frames: the checks of a request in their order, the command a frame carries, and the reply's frame
(R175 to R179). -/

namespace Sys2Proof.Machine

/-- The frame of a request or a reply ends with the CRC over the rest, high byte first (R175). -/
theorem crcAt_closeFrame (body rest : List Byte) : crcAt (closeFrame body ++ rest) body.length = crc body := by
  have h : (closeFrame body ++ rest).drop body.length =
      (crc body >>> 8).setWidth 8 :: (crc body).setWidth 8 :: rest := by
    simp [closeFrame]
  unfold crcAt
  rw [h]
  dsimp only
  refine BitVec.eq_of_getLsbD_eq fun i hi => ?_
  simp only [BitVec.getLsbD_or, BitVec.getLsbD_shiftLeft, BitVec.getLsbD_setWidth, BitVec.getLsbD_ushiftRight]
  by_cases lt : i < 8
  · simp [lt, hi]
  · simp [lt, hi, show i - 8 < 16 by omega, show i - 8 < 8 by omega, show 8 + (i - 8) = i by omega]

@[simp] theorem closeFrame_length (body : List Byte) : (closeFrame body).length = body.length + 2 := by
  simp [closeFrame]

theorem closeFrame_take (body : List Byte) : (closeFrame body).take body.length = body := by
  simp [closeFrame]

/-- A frame closed by its CRC, of an opcode of the table and a payload of its form, is the command these carry. -/
theorem commandOf_closeFrame {op len : Byte} {payload : List Byte} (hl : len.toNat = payload.length)
    (le : payload.length ≤ 60) (known : opcodes.contains op.toNat = true) (fits : formFits op.toNat payload = true) :
    commandOf (closeFrame (op :: len :: payload)) = payloadCommand op.toNat payload := by
  have bytes : ((closeFrame (op :: len :: payload)).drop 2).take len.toNat = payload := by
    rw [hl]; simp [closeFrame]
  have body : (closeFrame (op :: len :: payload)).take (len.toNat + 2) = op :: len :: payload := by
    rw [hl]; exact closeFrame_take (op :: len :: payload)
  have sum : crcAt (closeFrame (op :: len :: payload)) (len.toNat + 2) = crc (op :: len :: payload) := by
    rw [hl]; simpa using crcAt_closeFrame (op :: len :: payload) []
  have whole : complete len.toNat (closeFrame (op :: len :: payload)) = true := by
    simp [complete, hl]
  have passes : requestFailure op.toNat len.toNat (closeFrame (op :: len :: payload)) = none := by
    unfold requestFailure
    simp only [bytes, body, sum, known, fits]
    simp [hl, not_lt.2 le]
  have cons : closeFrame (op :: len :: payload) = op :: len :: (payload
      ++ [(crc (op :: len :: payload) >>> 8).setWidth 8, (crc (op :: len :: payload)).setWidth 8]) := rfl
  rw [cons] at bytes whole passes ⊢
  simp only [commandOf, whole, passes, bytes, Option.isNone_none, Bool.and_self, if_true]

theorem maskOf_bytes (a b c : Byte) : maskOf [a, b, c] = a ++ b ++ c := by
  refine BitVec.eq_of_toNat_eq ?_
  have ha := a.isLt
  have hb := b.isLt
  have hc := c.isLt
  simp only [maskOf, List.foldl_cons, List.foldl_nil, BitVec.toNat_ofNat, BitVec.toNat_append]
  rw [← Nat.shiftLeft_add_eq_or_of_lt hb, ← Nat.shiftLeft_add_eq_or_of_lt hc]
  simp only [Nat.shiftLeft_eq]
  omega

theorem fieldBytes_mask (a b c : Byte) : fieldBytes 3 (maskOf [a, b, c]).toNat = [a, b, c] := by
  have ha := a.isLt
  have hb := b.isLt
  have hc := c.isLt
  have h : (maskOf [a, b, c]).toNat = 65536 * a.toNat + 256 * b.toNat + c.toNat := by
    simp only [maskOf, List.foldl_cons, List.foldl_nil, BitVec.toNat_ofNat]
    omega
  have range : List.range 3 = [0, 1, 2] := rfl
  simp only [fieldBytes, range, List.map_cons, List.map_nil, h, byte, List.cons.injEq, and_true]
  refine ⟨BitVec.eq_of_toNat_eq ?_, BitVec.eq_of_toNat_eq ?_, BitVec.eq_of_toNat_eq ?_⟩
  all_goals simp only [BitVec.toNat_ofNat]; omega

theorem holdsNumbers_nil (bytes : List Byte) : HoldsNumbers bytes [] := ⟨[], List.Perm.refl _, trivial⟩

/-- The attention mask stands in its three bytes, the most significant first (R175). -/
theorem mask_holdsNumbers {payload : List Byte} (h : payload.length = 3) :
    HoldsNumbers payload [.plain 3 (maskOf payload).toNat] := by
  obtain ⟨a, b, c, rfl⟩ : ∃ a b c, payload = [a, b, c] := List.length_eq_three.1 h
  refine ⟨_, List.Perm.refl _, [], [], 3, ?_, Nat.le_refl 3, ?_, trivial⟩
  · simp only [List.nil_append, List.append_nil]
    exact (fieldBytes_mask a b c).symm
  · exact lt_of_lt_of_le (maskOf [a, b, c]).isLt (by decide)

/-- A command without an argument is the one of its opcode. -/
theorem bareCommand_spec {op : Nat} {i : Instr} (h : bareCommand op = some i) :
    i.opcode = some op ∧ i.wideNumbers = [] ∧ isCommand i = true := by
  have code : i.opcode = some op := by simpa using List.find?_some h
  have mem : i ∈ bareCommands := List.mem_of_find?_eq_some h
  refine ⟨code, ?_, ?_⟩
  all_goals
    simp only [bareCommands, List.mem_cons, List.not_mem_nil, or_false] at mem
    rcases mem with rfl | rfl | rfl | rfl | rfl | rfl | rfl | rfl | rfl | rfl | rfl
    all_goals rfl

theorem isCommand_of_opcode {i : Instr} {op : Nat} (h : i.opcode = some op) : isCommand i = true := by
  cases i <;> first | rfl | simp [isCommand, h]

/-- The command of a payload is one of its opcode, and the payload holds its wide numbers (R175, R179). -/
theorem payloadCommand_spec {op : Nat} {payload : List Byte} {i : Instr} (fits : formFits op payload = true)
    (h : payloadCommand op payload = some i) : i.opcode = some op ∧ HoldsNumbers payload i.wideNumbers := by
  unfold payloadCommand at h
  split at h
  · rename_i j bare
    cases h
    obtain ⟨code, none, -⟩ := bareCommand_spec bare
    exact ⟨code, by rw [none]; exact holdsNumbers_nil _⟩
  · rename_i notBare
    split at h
    · rename_i mask
      subst mask
      cases h
      refine ⟨rfl, mask_holdsNumbers ?_⟩
      simpa [formFits, notBare] using fits
    · obtain ⟨-, spec⟩ := Option.filter_eq_some_iff.1 h
      simp only [Bool.and_eq_true, beq_iff_eq, carries] at spec
      refine ⟨spec.1, ?_⟩
      rw [← spec.2]
      exact layOut_holdsNumbers _ _

theorem formFits_of_passes {op len : Nat} {frame : List Byte} (h : requestFailure op len frame = none) :
    formFits op ((frame.drop 2).take len) = true := by
  cases fits : formFits op ((frame.drop 2).take len) with
  | true => rfl
  | false =>
    simp only [requestFailure, fits, Bool.not_false, if_true] at h
    split at h
    · cases h
    · split at h
      · cases h
      · split at h <;> cases h

/-- The command of a frame (R179). -/
theorem commandOf_spec {frame : List Byte} {i : Instr} (h : commandOf frame = some i) :
    ∃ op len rest, frame = op :: len :: rest ∧ requestFailure op.toNat len.toNat frame = none
      ∧ complete len.toNat frame = true ∧ i.opcode = some op.toNat
      ∧ HoldsNumbers (rest.take len.toNat) i.wideNumbers := by
  unfold commandOf at h
  split at h
  · rename_i op len rest
    split at h
    · rename_i passes
      simp only [Bool.and_eq_true, Option.isNone_iff_eq_none] at passes
      obtain ⟨code, holds⟩ := payloadCommand_spec (formFits_of_passes passes.2) h
      exact ⟨op, len, rest, rfl, passes.2, passes.1, code, holds⟩
    · cases h
  · cases h

/-- A command of each opcode, in the order of the table of section 11.3. -/
def opcodeRows : List Instr :=
  [.readRecord 1 1 .other 0, .writeRecordPreemptTable 0, .recordWriteUnsupported .update 0,
   .retireRecordGroup 1, .forgetCircuit 1, .insertSwitchpoint 0 1 .other, .deleteSwitchpoint 0, .validatePlan 1,
   .learnLamp 1 .other, .learnCableAll, .ackCableAll, .recalibrate, .dimOn, .readStatus,
   .readAttention, .setAttentionMask 0, .lock .other, .start, .flash, .dark, .lockout, .clearLockout, .softReset,
   .selectPlan 1 .other, .releaseToSchedule, .setModeFree, .advance, .preemptAssert 1, .setClock 0]

/-- The table of section 11.3 lists the opcodes of its commands. -/
theorem mem_opcodes (n : Nat) : n ∈ opcodes ↔ ∃ i : Instr, i.opcode = some n := by
  constructor
  · intro h
    have rows : opcodes.map some = opcodeRows.map Instr.opcode := rfl
    obtain ⟨i, -, code⟩ := List.mem_map.1 (rows ▸ List.mem_map_of_mem (f := some) h)
    exact ⟨i, code⟩
  · rintro ⟨i, h⟩
    cases i with
    | recordWriteUnsupported op kind => cases op <;> cases h <;> decide
    | _ => first | cases h; decide | cases h

/-- The port's own answer to a frame. -/
theorem exec_requestRefused {s : State} (listens : s.Listens) (frame : List Byte) :
    exec (.requestRefused frame) s = .next (s.refuseRequest frame) :=
  exec_of_listens (i := .requestRefused frame) listens rfl

/-- A whole frame that fails a check is refused with its status. -/
theorem refuseRequest_failed {s : State} {op len : Byte} {rest : List Byte} {st : Status}
    (whole : complete len.toNat (op :: len :: rest) = true)
    (h : requestFailure op.toNat len.toNat (op :: len :: rest) = some st) :
    s.refuseRequest (op :: len :: rest) = s.refuse st := by
  simp only [State.refuseRequest, whole, h, if_true]

/-- A whole frame that passes is left to its command, but for an argument that is none of the named ones. -/
theorem refuseRequest_passed {s : State} {op len : Byte} {rest : List Byte}
    (whole : complete len.toNat (op :: len :: rest) = true)
    (h : requestFailure op.toNat len.toNat (op :: len :: rest) = none) :
    s.refuseRequest (op :: len :: rest) =
      if namedArgumentOpcodes.contains op.toNat && (commandOf (op :: len :: rest)).isNone then s.refuse .range
      else s := by
  simp only [State.refuseRequest, whole, h, if_true]

theorem refuseRequest_begun {s : State} {op len : Byte} {rest : List Byte}
    (h : complete len.toNat (op :: len :: rest) = false) : s.refuseRequest (op :: len :: rest) = s.receive := by
  simp [State.refuseRequest, h]

/-- The commands without an argument, with their opcodes (section 11.3). -/
def bareRows : List (Nat × Instr) :=
  [(0x23, .recalibrate), (0x30, .readStatus), (0x31, .readAttention),
    (0x40, .start), (0x41, .flash), (0x42, .dark), (0x43, .lockout), (0x44, .clearLockout),
    (0x45, .softReset), (0x47, .releaseToSchedule), (0x49, .advance)]

theorem bareRows_spec {n : Nat} {i : Instr} (h : (n, i) ∈ bareRows) :
    i.opcode = some n ∧ bareCommand n = some i ∧ opcodes.contains n = true ∧ n < 256 := by
  simp only [bareRows, List.mem_cons, List.not_mem_nil, or_false, Prod.mk.injEq] at h
  rcases h with ⟨rfl, rfl⟩ | ⟨rfl, rfl⟩ | ⟨rfl, rfl⟩ | ⟨rfl, rfl⟩ | ⟨rfl, rfl⟩ | ⟨rfl, rfl⟩ | ⟨rfl, rfl⟩ | ⟨rfl, rfl⟩
    | ⟨rfl, rfl⟩ | ⟨rfl, rfl⟩ | ⟨rfl, rfl⟩
  all_goals exact ⟨rfl, rfl, rfl, by decide⟩

theorem commandOf_bareFrame {n : Nat} {i : Instr} (h : (n, i) ∈ bareRows) :
    commandOf (closeFrame [byte n, 0]) = some i := by
  obtain ⟨-, bare, known, lt⟩ := bareRows_spec h
  have code : (byte n).toNat = n := by simp [byte, Nat.mod_eq_of_lt lt]
  rw [commandOf_closeFrame (payload := []) rfl (by decide) (by rw [code]; exact known)
    (by simp [formFits, code, bare]), payloadCommand, code, bare]

theorem commandOf_maskFrame (a b c : Byte) :
    commandOf (closeFrame [0x32, 3, a, b, c]) = some (.setAttentionMask (a ++ b ++ c)) := by
  rw [commandOf_closeFrame (payload := [a, b, c]) rfl (by simp) rfl rfl, ← maskOf_bytes]
  rfl

/-- The reply's frame: status, length, payload and CRC (R175, R177). -/
theorem reply_frame (r : Reply) :
    let n := r.payload.toBytes.length
    r.frame.length = n + 4 ∧ r.frame[0]? = some (byte r.status.code) ∧ r.frame[1]? = some (byte n)
    ∧ (r.frame.drop 2).take n = r.payload.toBytes ∧ crc (r.frame.take (n + 2)) = crcAt r.frame (n + 2) := by
  intro n
  have sum := crcAt_closeFrame (byte r.status.code :: byte n :: r.payload.toBytes) []
  have body := closeFrame_take (byte r.status.code :: byte n :: r.payload.toBytes)
  rw [List.append_nil] at sum
  refine ⟨by simp [Reply.frame, n], rfl, rfl, by simp [Reply.frame, closeFrame, n], ?_⟩
  exact (congrArg crc body).trans sum.symm

/-- The numbers of the commands of the table (R175). -/
theorem plan_wideNumbers {f : PlanFields} {l : List StageFields} (h : f.stages = some l) {n : Nat}
    (mem : n ∈ l.map (·.split) ∨ some n ∈ [f.cycle, f.offset, f.minDwell, f.maxDwell]) :
    WideNumber.plain 2 n ∈ f.wideNumbers := by
  refine List.mem_map_of_mem ?_
  simp only [List.mem_append, Option.mem_toList, h, Option.getD_some]
  simp only [List.mem_cons, List.not_mem_nil, or_false] at mem
  rcases mem with mem | mem | mem | mem | mem
  · exact .inl (.inl (.inl (.inl mem)))
  · exact .inl (.inl (.inl (.inr mem.symm)))
  · exact .inl (.inl (.inr mem.symm))
  · exact .inl (.inr mem.symm)
  · exact .inr mem.symm

theorem planChanges_wideNumbers {f : PlanChanges} {n : Nat}
    (mem : (∃ e ∈ f.edits, e.split = .to n) ∨ (∃ l, f.stages = .to l ∧ n ∈ l.map (·.split))
      ∨ Change.to n ∈ [f.cycle, f.offset, f.minDwell, f.maxDwell]) :
    WideNumber.plain 2 n ∈ f.wideNumbers := by
  refine List.mem_map_of_mem ?_
  simp only [List.mem_append, Option.mem_toList, List.mem_filterMap]
  simp only [List.mem_cons, List.not_mem_nil, or_false] at mem
  rcases mem with ⟨e, he, hs⟩ | ⟨l, hl, hn⟩ | mem | mem | mem | mem
  · exact .inl (.inl (.inl (.inl (.inr ⟨e, he, by rw [hs]; rfl⟩))))
  · exact .inl (.inl (.inl (.inl (.inl (by rw [hl]; exact hn)))))
  · exact .inl (.inl (.inl (.inr (by rw [← mem]; rfl))))
  · exact .inl (.inl (.inr (by rw [← mem]; rfl)))
  · exact .inl (.inr (by rw [← mem]; rfl))
  · exact .inr (by rw [← mem]; rfl)

/-- The checks of a whole request's frame in their order (R176). -/
theorem requestFailure_order {op len : Nat} {frame : List Byte} (le : len ≤ 60) :
    (crc (frame.take (len + 2)) ≠ crcAt frame (len + 2) → requestFailure op len frame = some .crc)
    ∧ (crc (frame.take (len + 2)) = crcAt frame (len + 2) →
      (op ∉ opcodes → requestFailure op len frame = some .unknown)
      ∧ (op ∈ opcodes → formFits op ((frame.drop 2).take len) = false →
          requestFailure op len frame = some .frame)) := by
  have short : ¬60 < len := not_lt.2 le
  refine ⟨fun bad => ?_, fun good => ⟨fun unknown => ?_, fun known unfit => ?_⟩⟩
  · simp only [requestFailure, if_neg short, if_pos bad]
  · simp [requestFailure, short, good, unknown]
  · simp [requestFailure, short, good, known, unfit]

/-- Settles O9. -/
theorem portChecksInOrder : Obligations.PortChecksInOrder := by
  refine ⟨fun s op len rest listens => ⟨fun long => ?_, fun le whole => ⟨fun bad => ?_, fun good => ⟨fun unknown => ?_,
      fun ⟨i, bare⟩ pos => ?_, fun i command => ?_, fun passes none named => ?_⟩⟩, fun le short => ?_,
      fun frame short => ?_⟩,
    ⟨fun n i row => ⟨(bareRows_spec row).1, commandOf_bareFrame row⟩, commandOf_maskFrame, fun frame i h => ?_,
      fun a b c d u v => ⟨rfl, rfl, fun _ => rfl, fun _ => ⟨rfl, rfl⟩, fun _ => rfl, fun _ => rfl,
        fun _ _ h _ mem => plan_wideNumbers h mem, fun _ _ mem => planChanges_wideNumbers mem⟩, mem_opcodes⟩,
    reply_frame, fun i s command => ⟨fun busy => ?_, fun listens t e => ?_⟩⟩
  · rw [exec_requestRefused listens, refuseRequest_failed (st := .frame) (by simp [complete, long])
      (by simp [requestFailure, long])]
  · rw [exec_requestRefused listens, refuseRequest_failed (by simp [complete, whole])
      ((requestFailure_order le).1 bad)]
  · rw [exec_requestRefused listens, refuseRequest_failed (by simp [complete, whole])
      (((requestFailure_order le).2 good).1 unknown)]
  · obtain ⟨-, isBare, known, -⟩ := bareRows_spec bare
    have unfit : formFits op.toNat (((op :: len :: rest).drop 2).take len.toNat) = false := by
      have : rest ≠ [] := by rintro rfl; simp at whole
      simp [formFits, isBare, this, pos.ne']
    rw [exec_requestRefused listens, refuseRequest_failed (by simp [complete, whole])
      (((requestFailure_order le).2 good).2 (by simpa using known) unfit)]
  · obtain ⟨op', len', rest', e, passes, whole, -, -⟩ := commandOf_spec command
    cases e
    rw [exec_requestRefused listens, refuseRequest_passed whole passes, command]
    simp
  · rw [exec_requestRefused listens, refuseRequest_passed (by simp [complete, whole]) passes, none, if_pos]
    rcases named with h | h | h <;> rw [h] <;> rfl
  · rw [exec_requestRefused listens, refuseRequest_begun (by simp [complete]; omega)]
    rfl
  · rw [exec_requestRefused listens]
    match frame, short with
    | [], _ => rfl
    | [_], _ => rfl
  · obtain ⟨op, len, rest, e, -, -, code, holds⟩ := commandOf_spec h
    exact ⟨isCommand_of_opcode code, op, len, rest, e, code, holds⟩
  · obtain ⟨f, hf⟩ := exec_eq_taken i command
    rw [hf, State.taken_of_busy busy]
  · rcases command_answered command listens e with same | begun | ⟨r, reply, fits, -⟩
    · exact .inl same
    · exact .inr (.inl begun)
    · exact .inr (.inr ⟨r, reply, fits⟩)


end Sys2Proof.Machine
end

section
/-! The arithmetic of a correction, the cable judgement, the arbitration, and the laws of the state after reset. -/

namespace Sys2Proof.Machine

/-! ## The correction (R71) -/

/-- Settles O34. -/
theorem correctionByTheError : Obligations.CorrectionByTheError := by
  intro c o p x hc ho hp
  dsimp only
  have desired_lt : (c - o) % c < c := Nat.mod_lt _ (by omega)
  generalize hd : (c - o) % c = desired at desired_lt
  have error_lt : (p + c - desired) % c < c := Nat.mod_lt _ (by omega)
  have error : (p + c - desired) % c = if desired ≤ p then p - desired else p + c - desired := by
    split
    · rw [show p + c - desired = p - desired + c by omega, Nat.add_mod_right, Nat.mod_eq_of_lt (by omega)]
    · exact Nat.mod_eq_of_lt (by omega)
  unfold correction shorteningCapacity
  rw [hd]
  dsimp only
  generalize (p + c - desired) % c = e at error_lt error ⊢
  refine ⟨?_, error_lt, fun near => if_pos near, fun lo hi half => ?_, fun half hi room => ?_, fun half lo hi none => ?_⟩
  · split at error
    · rw [error, Nat.add_sub_cancel' ‹_›, Nat.mod_eq_of_lt hp]
    · rw [error, show desired + (p + c - desired) = p + c by omega, Nat.add_mod_right, Nat.mod_eq_of_lt hp]
  · rw [if_neg (by omega), if_pos half]
  · rw [if_neg (by omega), if_neg (by omega), if_neg (by omega)]
  · rw [if_neg (by omega), if_neg (by omega), if_pos none]

/-! ## Arbitration (R121, R122) -/

/-- The least of a list in ascending order: no element has a smaller key, and none of its key comes before it. -/
theorem leastBy_spec (key : CircuitIx → Nat) (l : List CircuitIx) (sorted : l.Pairwise (· < ·)) :
    (leastBy key l = none ↔ l = []) ∧ ∀ c, leastBy key l = some c →
      c ∈ l ∧ ∀ d ∈ l, key c < key d ∨ (key c = key d ∧ c ≤ d) := by
  induction l with
  | nil => exact ⟨by simp [leastBy], fun c h => by cases h⟩
  | cons x l ih =>
    obtain ⟨first, rest⟩ := List.pairwise_cons.1 sorted
    obtain ⟨empty, least⟩ := ih rest
    cases h : leastBy key l with
    | none =>
      rw [empty.1 h]
      refine ⟨by simp [leastBy], fun c hc => ?_⟩
      cases hc
      simp
    | some d =>
      obtain ⟨mem, all⟩ := least d h
      by_cases lt : key d < key x
      · refine ⟨by simp [leastBy, h, lt], fun c hc => ?_⟩
        obtain rfl : d = c := by simpa [leastBy, h, lt] using hc
        refine ⟨List.mem_cons_of_mem _ mem, fun e he => ?_⟩
        rcases List.mem_cons.1 he with rfl | he
        · exact .inl lt
        · exact all e he
      · refine ⟨by simp [leastBy, h, lt], fun c hc => ?_⟩
        obtain rfl : x = c := by simpa [leastBy, h, lt] using hc
        refine ⟨List.mem_cons_self, fun e he => ?_⟩
        rcases List.mem_cons.1 he with rfl | he
        · exact .inr ⟨rfl, le_refl _⟩
        · have below := first e he
          rcases all e he with less | ⟨same, -⟩
          · exact .inl (by omega)
          · rcases Nat.lt_or_eq_of_le (not_lt.1 lt) with less | eq
            · exact .inl (by omega)
            · exact .inr ⟨by omega, below.le⟩

theorem finRange_filter_sorted (p : CircuitIx → Bool) : ((List.finRange 48).filter p).Pairwise (· < ·) :=
  List.Pairwise.sublist List.filter_sublist (List.pairwise_lt_finRange 48)

/-- No proving request is presented exactly when there is none to choose. -/
theorem provingChoice_none (s : State) :
    s.provingChoice = none ↔ ∀ d : CircuitIx, (s.circuit d).schedule.presented = none := by
  rw [State.provingChoice, (leastBy_spec _ _ (finRange_filter_sorted _)).1]
  simp [List.filter_eq_nil_iff]

/-- The proving request chosen is due longest (R122). -/
theorem provingChoice_some {s : State} {c : CircuitIx} (h : s.provingChoice = some c) :
    ∃ a, (s.circuit c).schedule.presented = some a
      ∧ ∀ (d : CircuitIx) b, (s.circuit d).schedule.presented = some b → a < b ∨ (a = b ∧ c ≤ d) := by
  obtain ⟨mem, least⟩ := (leastBy_spec _ _ (finRange_filter_sorted _)).2 c h
  obtain ⟨a, ha⟩ := Option.isSome_iff_exists.1 (List.mem_filter.1 mem).2
  refine ⟨a, ha, fun d b hb => ?_⟩
  have := least d (List.mem_filter.2 ⟨List.mem_finRange d, by simp [hb]⟩)
  simpa [ha, hb] using this

theorem watchChoice_none (s : State) :
    s.watchChoice = none ↔ ∀ d : CircuitIx, (s.circuit d).cable.watchPresented = false := by
  rw [State.watchChoice, (leastBy_spec _ _ (finRange_filter_sorted _)).1]
  simp [List.filter_eq_nil_iff]

/-- The green watch chosen was checked longest ago (R122). -/
theorem watchChoice_some {s : State} {c : CircuitIx} (h : s.watchChoice = some c) :
    (s.circuit c).cable.watchPresented = true ∧ ∀ d : CircuitIx, (s.circuit d).cable.watchPresented = true →
      (s.circuit c).cable.lastCheck < (s.circuit d).cable.lastCheck
        ∨ ((s.circuit c).cable.lastCheck = (s.circuit d).cable.lastCheck ∧ c ≤ d) := by
  obtain ⟨mem, least⟩ := (leastBy_spec _ _ (finRange_filter_sorted _)).2 c h
  exact ⟨(List.mem_filter.1 mem).2, fun d hd => least d (List.mem_filter.2 ⟨List.mem_finRange d, hd⟩)⟩

/-- What each choice says of the classes before it (R122). -/
theorem choice_spec (s : State) :
    (∀ c, s.choice = some (.proving c) → s.provingChoice = some c)
    ∧ (∀ c, s.choice = some (.watch c) → s.provingChoice = none ∧ s.shortOverdue = false ∧ s.watchChoice = some c)
    ∧ (s.choice = some .shortCal → s.provingChoice = none
        ∧ (s.shortOverdue = true ∨ (s.watchChoice = none ∧ s.channel.shortPresented = true)))
    ∧ (∀ c, s.choice = some (.round c) → s.provingChoice = none ∧ s.watchChoice = none
        ∧ s.channel.shortPresented = false ∧ s.sup.roundOffer = some c)
    ∧ (s.choice = none → s.provingChoice = none ∧ s.watchChoice = none ∧ s.channel.shortPresented = false
        ∧ s.sup.roundOffer = none) := by
  unfold State.choice
  cases s.provingChoice with
  | some c => simp
  | none =>
    cases s.shortOverdue with
    | true => simp
    | false =>
      cases s.watchChoice with
      | some c => simp
      | none => cases s.channel.shortPresented <;> simp

theorem shortOverdue_iff (s : State) : s.shortOverdue = true ↔
    s.channel.shortPresented = true ∧ ∃ d, s.channel.shortDue = some d ∧ d + 10000 < s.now := by
  simp [State.shortOverdue, Option.any_eq_true]

/-- An arbitration of a READY channel starts the candidate chosen. -/
theorem arbitrate_of_choice {s : State} (ready : s.channel.state = .ready) {x : Candidate} (h : s.choice = some x) :
    s.arbitrate = s.startCandidate x := by simp [State.arbitrate, ready, h]

/-- Settles O50. -/
theorem arbitrationTakesTheFirstClass : Obligations.ArbitrationTakesTheFirstClass := by
  intro s
  obtain ⟨proving, watch, short, round, none⟩ := choice_spec s
  refine ⟨fun busy => by simp [State.arbitrate, busy], fun ready => ⟨shortOverdue_iff s, fun c h => ?_, fun c h => ?_,
    fun h => ?_, fun c h => ?_, fun h => ?_⟩⟩
  · rw [arbitrate_of_choice ready h]
    refine ⟨rfl, ?_, provingChoice_some (proving c h)⟩
    simp [State.startCandidate, State.startWindow, State.setSchedule_circuit]
  · rw [arbitrate_of_choice ready h]
    obtain ⟨noRequest, notOverdue, chosen⟩ := watch c h
    obtain ⟨presented, first⟩ := watchChoice_some chosen
    refine ⟨(provingChoice_none s).1 noRequest, notOverdue, presented, first, rfl, ?_⟩
    simp [State.startCandidate, State.startWindow, setPresented_circuit]
  · rw [arbitrate_of_choice ready h]
    obtain ⟨noRequest, which⟩ := short h
    refine ⟨(provingChoice_none s).1 noRequest, ?_, which.imp_right fun w => (watchChoice_none s).1 w.1, rfl⟩
    exact which.elim (fun o => ((shortOverdue_iff s).1 o).1) And.right
  · rw [arbitrate_of_choice ready h]
    obtain ⟨noRequest, noWatch, notShort, offer⟩ := round c h
    exact ⟨fun d => ⟨(provingChoice_none s).1 noRequest d, (watchChoice_none s).1 noWatch d⟩, notShort, offer, rfl, rfl⟩
  · obtain ⟨noRequest, noWatch, notShort, noOffer⟩ := none h
    exact ⟨by simp [State.arbitrate, ready, h],
      fun d => ⟨(provingChoice_none s).1 noRequest d, (watchChoice_none s).1 noWatch d⟩, notShort, noOffer⟩

end Sys2Proof.Machine
end

section
/-! The cable judgement (R158 to R160), and the laws of the state after reset. -/

namespace Sys2Proof.Machine

/-! ## The cable judgement -/

/-- OPEN is met by the charge, LEAK by the leakage of a full measurement against baselines (R158). -/
theorem baselineCondition_iff (b : Option Baseline) (full : Bool) (x : DarkValues) :
    (baselineCondition b full x = some .openCable ↔ full = true ∧ ∃ y, b = some y ∧ x.charge * 2 < y.charge)
    ∧ (baselineCondition b full x = some .leak ↔ ¬(full = true ∧ ∃ y, b = some y ∧ x.charge * 2 < y.charge)
        ∧ full = true ∧ ∃ y, b = some y ∧ y.leakage + 50 < x.leakage)
    ∧ baselineCondition b full x ≠ some .foreign ∧ baselineCondition b full x ≠ some .clear := by
  unfold baselineCondition
  cases b with
  | none => simp
  | some y =>
    cases full with
    | false => simp
    | true =>
      by_cases h : x.charge * 2 < y.charge
      · simp [h]
      · by_cases h' : y.leakage + 50 < x.leakage <;> simp [h, h']

/-- A measurement's condition outside ALARM (R158). -/
theorem condition_iff (k : CablePart) (redOrAmber full : Bool) (x : DarkValues) (y : CableCondition) :
    k.condition redOrAmber full x = some y ↔ match y with
      | .foreign => redOrAmber = true ∧ 50 ≤ x.voltage
      | .openCable => ¬(redOrAmber = true ∧ 50 ≤ x.voltage)
          ∧ full = true ∧ ∃ b, k.baseline = some b ∧ x.charge * 2 < b.charge
      | .leak => ¬(redOrAmber = true ∧ 50 ≤ x.voltage)
          ∧ ¬(full = true ∧ ∃ b, k.baseline = some b ∧ x.charge * 2 < b.charge)
          ∧ full = true ∧ ∃ b, k.baseline = some b ∧ b.leakage + 50 < x.leakage
      | .clear => False := by
  obtain ⟨opened, leak, foreign, clear⟩ := baselineCondition_iff k.baseline full x
  unfold CablePart.condition
  by_cases h : redOrAmber = true ∧ 50 ≤ x.voltage
  · cases y <;> simp [h]
  · have h' : (redOrAmber && decide (50 ≤ x.voltage)) = false := by simpa using h
    cases y with
    | foreign => simp only [h', Bool.false_eq_true, if_false, foreign, h]
    | openCable => simp only [h', Bool.false_eq_true, if_false, opened, h, not_false_eq_true, true_and]
    | leak => simp only [h', Bool.false_eq_true, if_false, leak, h, not_false_eq_true, true_and]
    | clear => simp only [h', Bool.false_eq_true, if_false, clear]

/-- The state of a record outside ALARM after a measurement: SUSPECT or NORMAL by its leakage in a full one of a record
with baselines (R159). -/
def CablePart.supposed (k : CablePart) (full : Bool) (x : DarkValues) : CableState :=
  match k.baseline with
  | some b =>
    if full && k.state != .noBaseline then (if b.leakage + 20 < x.leakage then .suspect else .normal)
    else k.state
  | none => k.state

theorem suspecting_eq (k : CablePart) (full : Bool) (x : DarkValues) (h : k.state.isAlarm = false) :
    k.suspecting full x = { k with state := k.supposed full x } := by
  cases k with
  | mk baseline _ _ _ state _ _ _ _ _ _ _ _ =>
    dsimp only at h
    cases baseline with
    | none => cases state <;> rfl
    | some b =>
      cases full with
      | false => cases state <;> simp [CablePart.suspecting, CablePart.supposed]
      | true =>
        cases state with
        | noBaseline => rfl
        | normal =>
          by_cases lt : b.leakage + 20 < x.leakage <;> simp [CablePart.suspecting, CablePart.supposed, lt]
        | suspect =>
          by_cases lt : b.leakage + 20 < x.leakage <;> simp [CablePart.suspecting, CablePart.supposed, lt]
        | alarm k => cases h

/-- A clear measurement (R160). -/
theorem clearBy_iff (k : CablePart) (full : Bool) (x : DarkValues) : k.clearBy full x = true ↔
    x.voltage < 50 ∧ ∀ b, k.baseline = some b →
      full = true ∧ b.charge ≤ x.charge * 2 ∧ x.leakage ≤ b.leakage + 20 := by
  unfold CablePart.clearBy
  cases k.baseline <;> simp [and_assoc]

/-- The judgement in ALARM is that of the run of clear measurements (R160). -/
theorem judged_of_alarm {k : CablePart} (h : k.state.isAlarm = true) (redOrAmber full : Bool) (x : DarkValues) :
    k.judged redOrAmber full x =
      if (k.clearing full x).leavesAlarm then ((k.clearing full x).outOfAlarm, .left)
      else (k.clearing full x, .unchanged) := by
  unfold CablePart.judged
  rw [if_pos h]

/-- The judgement outside ALARM is that of the run of a condition (R158). -/
theorem judged_of_run {k : CablePart} (h : k.state.isAlarm = false) {redOrAmber full : Bool} {x : DarkValues}
    {y : CableCondition} (hy : k.condition redOrAmber full x = some y) :
    let n := if k.counted = some y then k.count + 1 else 1
    k.judged redOrAmber full x =
      if y.run ≤ n then (k.intoAlarm y.alarm, .entered)
      else ({ k with counted := some y, count := n, state := k.supposed full x }, .unchanged) := by
  intro n
  unfold CablePart.judged CablePart.counting
  rw [if_neg (by simp [h]), hy]
  dsimp only
  by_cases run : y.run ≤ n
  · rw [if_pos run, if_pos run]
    rfl
  · rw [if_neg run, if_neg run]
    exact congrArg (·, AlarmChange.unchanged)
      (suspecting_eq { k with counted := some y, count := n } full x h)

theorem judged_of_none {k : CablePart} (h : k.state.isAlarm = false) {redOrAmber full : Bool} {x : DarkValues}
    (hy : k.condition redOrAmber full x = none) : k.judged redOrAmber full x =
      (if full || k.counted == some .foreign then { k with counted := none, count := 0, state := k.supposed full x }
        else k, .unchanged) := by
  unfold CablePart.judged CablePart.counting
  rw [if_neg (by simp [h]), hy]
  dsimp only
  by_cases ends : (full || k.counted == some .foreign) = true
  · rw [if_pos ends, if_pos ends]
    exact congrArg (·, AlarmChange.unchanged) (suspecting_eq { k with counted := none, count := 0 } full x h)
  · rw [if_neg ends, if_neg ends]
    have partly : full = false := by simp_all
    refine congrArg (·, AlarmChange.unchanged) ((suspecting_eq k full x h).trans ?_)
    rw [partly]
    unfold CablePart.supposed
    cases k with
    | mk baseline _ _ _ state _ _ _ _ _ _ _ _ => cases baseline <;> rfl

/-- Settles O47. -/
theorem cableRunsAlarmAndClear : Obligations.CableRunsAlarmAndClear := by
  intro k redOrAmber full x
  dsimp only
  refine ⟨fun calm => ⟨fun y meets => ?_, fun none => ?_⟩, fun alarm => ⟨fun clear ack two => ?_, fun clear few => ?_,
    fun spoilt counts => ?_, fun spoilt partly low based keeps => ?_⟩⟩
  · have hy : k.condition redOrAmber full x = some y := (condition_iff k redOrAmber full x y).2 meets
    have judged := judged_of_run calm hy
    dsimp only at judged
    have run : y.run = if y = .foreign then 2 else 3 := by cases y <;> rfl
    rw [run] at judged
    rw [judged]
    refine ⟨fun le => ?_, fun lt => ?_⟩
    · rw [if_pos le]
      cases y <;> exact ⟨rfl, rfl⟩
    · rw [if_neg (not_le.2 lt)]
      exact ⟨rfl, rfl⟩
  · have hy : k.condition redOrAmber full x = Option.none := by
      cases h : k.condition redOrAmber full x with
      | none => rfl
      | some y => exact absurd ((condition_iff k redOrAmber full x y).1 h) (none y)
    rw [judged_of_none calm hy]
    exact ⟨rfl, rfl⟩
  · have by_ : k.clearBy full x = true := (clearBy_iff k full x).2 clear
    have leaves : (k.clearing full x).leavesAlarm = true := by
      simp [CablePart.clearing, by_, CablePart.leavesAlarm, alarm, ack]; omega
    rw [judged_of_alarm alarm, if_pos leaves]
    simp [CablePart.clearing, by_, CablePart.outOfAlarm]
  · have by_ : k.clearBy full x = true := (clearBy_iff k full x).2 clear
    have stays : (k.clearing full x).leavesAlarm = false := by
      simp [CablePart.clearing, by_, CablePart.leavesAlarm, alarm]
      rintro ack
      rcases few with few | few
      · rw [ack] at few; cases few
      · omega
    rw [judged_of_alarm alarm, if_neg (by simp [stays])]
    simp [CablePart.clearing, by_]
  · have by_ : k.clearBy full x = false := by rw [← Bool.not_eq_true, clearBy_iff]; exact spoilt
    have counted : (!full && decide (x.voltage < 50) && k.baseline.isSome) = false := by
      rcases counts with h | h | h <;> simp [h]
    have stays : (k.clearing full x).leavesAlarm = false := by
      simp [CablePart.clearing, by_, CablePart.leavesAlarm, counted]
    rw [judged_of_alarm alarm, if_neg (by simp [stays])]
    simp [CablePart.clearing, by_, counted]
  · have by_ : k.clearBy full x = false := by rw [← Bool.not_eq_true, clearBy_iff]; exact spoilt
    have harmless : (!full && decide (x.voltage < 50) && k.baseline.isSome) = true := by
      simp [partly, low, Option.isSome_iff_ne_none, based]
    have same : k.clearing full x = k := by simp [CablePart.clearing, by_, harmless]
    have stays : k.leavesAlarm = false := by
      rcases keeps with h | h <;> simp [CablePart.leavesAlarm, h]
    rw [judged_of_alarm alarm, same, if_neg (by simp [stays])]
    exact ⟨rfl, rfl⟩

/-! ## The state after reset -/

theorem reset_group (g : GroupIx) : State.reset.group g = Group.atReset 0 := Table.get_replicate ..
theorem reset_circuit (c : CircuitIx) : State.reset.circuit c = Circuit.atReset 0 := Table.get_replicate ..
theorem reset_plan (p : PlanIx) : State.reset.plan p = .free := Table.get_replicate ..

theorem reset_supplyInv : State.reset.SupplyInv :=
  ⟨rfl, fun h => absurd rfl h, fun h => absurd rfl h, fun _ c => by rw [reset_circuit]; rfl⟩

theorem reset_conflictInv : State.reset.ConflictInv := by
  refine ⟨reset_supplyInv, fun _ => ⟨rfl, fun g => ?_⟩, fun g _ => ?_, fun l g _ => .inl ?_⟩
  · rw [reset_group]; exact ⟨rfl, rfl⟩
  · rw [reset_group]; exact ⟨rfl, rfl⟩
  · rw [reset_group]; rfl

theorem reset_amberLaw : State.reset.AmberLaw := by
  refine ⟨fun l g k v n h => ?_, fun l h => ?_, fun l g _ h => ?_⟩
  all_goals
    rw [reset_group] at h
    cases h

theorem reset_outputInv : State.reset.OutputInv := by
  refine ⟨reset_supplyInv, fun g k h => ?_, fun g k h => ?_, fun c h => ?_⟩
  · rw [reset_group] at h; cases h
  · rw [reset_group] at h; cases h
  · rw [reset_circuit] at h; cases h

theorem reset_measureLaw : State.reset.MeasureLaw := by
  refine ⟨fun c => ?_, fun w h => by cases h⟩
  rw [reset_circuit]
  exact ⟨rfl, fun h => absurd rfl h, fun h => by cases h⟩

theorem reset_circuitLaw : State.reset.CircuitLaw := by
  intro c
  rw [reset_circuit]
  refine ⟨by decide, ?_, ?_, by decide, by decide, fun _ => rfl, ?_⟩
  all_goals
    intro r h
    cases h

/-- Settles O60. -/
theorem resetKeepsEveryLaw : Obligations.ResetKeepsEveryLaw := by
  refine ⟨reset_conflictInv, fun l g n a _ h => ?_, reset_amberLaw, reset_outputInv, fun h => (by cases h), ?_,
    ⟨rfl, rfl⟩, fun h => (by cases h), reset_measureLaw, fun p q h => ?_, ⟨List.Pairwise.nil, by decide⟩,
    reset_circuitLaw, ⟨by decide, List.nodup_nil, List.Pairwise.nil⟩⟩
  · rw [reset_group] at h; cases h
  · exact ⟨List.nodup_nil, fun older r newer h => by simp [State.reset] at h, fun h => absurd rfl h,
      fun h => absurd rfl h⟩
  · rw [reset_plan] at h; cases h

end Sys2Proof.Machine
end

section
/-! The writes of the group, conflict and junction records (R2 to R4, R24 to R26, R164). -/

namespace Sys2Proof.Machine

/-! ## Safety-class writes (R29, R30) -/

theorem safetyWrite_open {s : State} (lock : s.link.lock = .openLevel) (off : s.output.safeEnable = false)
    (f : State → State) : s.safetyWrite f = f s := by
  simp [State.safetyWrite, State.safetyLocked, lock, off]

theorem safetyWrite_supplied {s : State} (lock : s.link.lock = .openLevel) (on : s.output.safeEnable = true)
    (f : State → State) : s.safetyWrite f = s.refuse .state := by
  simp [State.safetyWrite, State.safetyLocked, lock, on]

/-- The demotion of plans by an accepted safety-class write (R30, R47). -/
theorem demotes_of {s t : State} (plans : t.plans = s.plans.map Plan.demote) (seq : t.seq = s.demotePlans.seq) :
    s.Demotes t := by
  refine ⟨fun p => ?_, fun p => ?_, ?_⟩
  · simp [State.plan, plans]
  · rw [seq]
    simp [State.demotePlans, Option.filter_eq_some_iff]
  · rw [seq]
    rfl

/-! ## The conflict table -/

theorem pairOf_comm (s : State) (l g : GroupIx) : s.pairOf l g = s.pairOf g l := by
  rcases lt_trichotomy l g with h | h | h
  · simp [State.pairOf, h, h.asymm]
  · rw [h]
  · simp [State.pairOf, h, h.asymm]

theorem conflicting_comm (s : State) (l g : GroupIx) : s.conflicting l g = s.conflicting g l := by
  simp [State.conflicting, pairOf_comm s l g]

theorem conflicting_of_intergreen {s : State} {l g : GroupIx} {n : Nat} (h : s.intergreen l g = some n) :
    s.conflicting l g = true := by
  unfold State.intergreen at h
  simp [State.conflicting, Option.isSome_iff_exists]
  cases hp : s.pairOf l g with
  | none => simp [hp] at h
  | some x => exact ⟨x, rfl⟩

/-! ## Group records (R2 to R4) -/

theorem usedElsewhere_iff (s : State) (g : GroupIx) (c : CircuitIx) : s.usedElsewhere g c = true ↔
    ∃ (h : GroupIx) (m : GroupConfig), h ≠ g ∧ (s.group h).config = some m ∧ c ∈ m.circuits := by
  simp [State.usedElsewhere, List.any_eq_true, Option.any_eq_true]

theorem mem_takenCircuits (s : State) (g : GroupIx) (k : GroupConfig) (c : CircuitIx) : c ∈ s.takenCircuits g k ↔
    2 ≤ k.circuits.count c ∨ (c ∈ k.circuits ∧ ∃ (h : GroupIx) (m : GroupConfig), h ≠ g
      ∧ (s.group h).config = some m ∧ c ∈ m.circuits) := by
  simp [State.takenCircuits, usedElsewhere_iff]

theorem amberFits_iff (s : State) (g : GroupIx) (k : GroupConfig) : s.amberFits g k = true ↔
    ∀ v, k.vehicle = some v → ∀ (l : GroupIx) n, s.intergreen g l = some n → v.amberTime ≤ n := by
  unfold State.amberFits State.conflictsOf
  cases k.vehicle with
  | none => simp
  | some v =>
    simp only [List.all_eq_true, List.mem_filter, List.mem_finRange, true_and, Option.all_eq_true,
      decide_eq_true_eq, Option.some.injEq, forall_eq']
    exact ⟨fun h l n hn => h l ((conflicting_comm s l g).trans (conflicting_of_intergreen hn)) n hn,
      fun h l _ n hn => h l n hn⟩

theorem placeGroup_of_failing {s : State} {g : GroupIx} {f : GroupFields} (h : f.check = none) :
    s.placeGroup g f = s.refuse .range := by
  simp [State.placeGroup, h]

theorem placeGroup_of_taken {s : State} {g : GroupIx} {f : GroupFields} {k : GroupConfig} (h : f.check = some k)
    (taken : s.takenCircuits g k ≠ []) : s.placeGroup g f = s.refuseTaken (s.takenCircuits g k) := by
  simp [State.placeGroup, h, taken]

theorem placeGroup_of_free {s : State} {g : GroupIx} {f : GroupFields} {k : GroupConfig} (h : f.check = some k)
    (free : s.takenCircuits g k = []) : s.placeGroup g f =
      if s.amberFits g k then (s.storeGroup g (some k)).accept .empty else s.refuse .range := by
  simp [State.placeGroup, h, free]

/-- A TAKEN reply names one of the circuits the check fails on. -/
theorem refuseTaken_reply (s : State) {l : List CircuitIx} (h : l ≠ []) :
    ∃ c ∈ l, (s.refuseTaken l).reply = some { status := .taken, payload := .taken c } := by
  obtain ⟨c, mem, hc⟩ := pick_mem s h
  exact ⟨c, mem, by simp [State.refuseTaken, hc, State.reply]⟩

theorem storeGroup_stored (s : State) (g : GroupIx) (k : Option GroupConfig) :
    s.GroupStored ((s.storeGroup g k).accept .empty) g k := by
  refine ⟨?_, fun h ne => ?_, fun c => ?_, demotes_of rfl rfl, rfl, rfl⟩
  · exact Table.get_set_self ..
  · exact Table.get_set_ne _ _ ne
  · exact Table.get_ofFn ..

theorem exec_writeRecordGroup {s : State} (listens : s.Listens) (lock : s.link.lock = .openLevel)
    (off : s.output.safeEnable = false) (g : GroupIx) (f : GroupFields) :
    exec (.writeRecordGroup (number g) f) s = .next (s.placeGroup g f) := by
  rw [exec_of_listens listens rfl, safetyWrite_open lock off, indexOf_number]

theorem exec_updateFieldsGroup {s : State} (listens : s.Listens) (lock : s.link.lock = .openLevel)
    (off : s.output.safeEnable = false) {g : GroupIx} {m : GroupConfig} (held : (s.group g).config = some m)
    (u : GroupChanges) :
    exec (.updateFieldsGroup (number g) u) s = .next (s.placeGroup g (u.apply m.toFields)) := by
  rw [exec_of_listens listens rfl, safetyWrite_open lock off, indexOf_number]
  simp only [held]

/-- Settles O12. -/
theorem groupWritesStore : Obligations.GroupWritesStore := by
  intro s g listens lock off
  refine ⟨fun k nodup apart amber => ?_, fun held => ?_⟩
  · have free : s.takenCircuits g k = [] := by
      refine List.eq_nil_iff_forall_not_mem.2 fun c h => ?_
      rcases (mem_takenCircuits s g k c).1 h with twice | ⟨mem, h, m, ne, hm, hc⟩
      · have := List.nodup_iff_count_le_one.1 nodup c
        omega
      · exact apart h m ne hm c mem hc
    have placed (f : GroupFields) (h : f.check = some k) :
        s.placeGroup g f = (s.storeGroup g (some k)).accept .empty := by
      rw [placeGroup_of_free h free, if_pos ((amberFits_iff s g k).2 amber)]
    refine ⟨_, storeGroup_stored s g (some k), fun f h => ?_, fun u m held h => ?_⟩
    · rw [exec_writeRecordGroup listens lock off, placed f h]
    · rw [exec_updateFieldsGroup listens lock off held, placed _ h]
  · refine ⟨_, storeGroup_stored s g none, ?_⟩
    rw [exec_of_listens listens rfl, safetyWrite_open lock off, indexOf_number]
    simp [held]

/-! ## Check 1 of R2 -/

theorem mapM_eq_some {α β : Type} (f : α → Option β) (l : List α) (m : List β) :
    l.mapM f = some m ↔ l.map f = m.map some := by
  induction l generalizing m with
  | nil => cases m <;> simp
  | cons a l ih =>
    simp only [List.mapM_cons, Option.bind_eq_bind, Option.pure_def, Option.bind_eq_some_iff, ih, List.map_cons]
    cases m with
    | nil => simp
    | cons b m =>
      simp only [Option.some.injEq, List.cons.injEq, List.map_cons]
      exact ⟨fun ⟨x, hx, y, hy, e, e'⟩ => e ▸ e' ▸ ⟨hx, hy⟩, fun ⟨hb, hm⟩ => ⟨b, hb, m, hm, rfl, rfl⟩⟩

theorem indexOf_eq_some {n k : Nat} {i : Fin n} : indexOf n k = some i ↔ k = number i :=
  ⟨fun h => (number_of_indexOf h).symm, fun h => h ▸ indexOf_number i⟩

theorem indicesOf_eq {n : Nat} (l : List Nat) (m : List (Fin n)) : indicesOf n l = some m ↔ l = m.map number := by
  rw [indicesOf, mapM_eq_some]
  induction l generalizing m with
  | nil => cases m <;> simp
  | cons a l ih => cases m <;> simp [ih, indexOf_eq_some]

theorem within_iff {lo hi n : Nat} : within lo hi n = true ↔ lo ≤ n ∧ n ≤ hi := by simp [within]

theorem ranged_eq_some {lo hi : Nat} {v : Option Nat} {n : Nat} :
    ranged lo hi v = some n ↔ v = some n ∧ lo ≤ n ∧ n ≤ hi := by
  simp [ranged, Option.filter_eq_some_iff, within_iff]

theorem vehicleOf_eq_some {amber time redAmber : Option Nat} {v : VehicleFields} :
    vehicleOf amber time redAmber = some v ↔
      amber = some (number v.amber) ∧ time = some v.amberTime ∧ redAmber = some v.redAmber
        ∧ 30 ≤ v.amberTime ∧ v.amberTime ≤ 50 ∧ (v.redAmber = 0 ∨ (10 ≤ v.redAmber ∧ v.redAmber ≤ 20)) := by
  obtain ⟨a, t, r⟩ := v
  simp only [vehicleOf, Option.bind_eq_bind, Option.pure_def, Option.bind_eq_some_iff, indexOf_eq_some,
    ranged_eq_some, Option.filter_eq_some_iff, Option.some.injEq, VehicleFields.mk.injEq, Bool.or_eq_true,
    beq_iff_eq, within_iff]
  constructor
  · rintro ⟨a', ⟨_, ha, rfl⟩, t', ⟨rfl, ht⟩, r', ⟨rfl, hr⟩, rfl, rfl, rfl⟩
    exact ⟨ha, rfl, rfl, ht.1, ht.2, hr⟩
  · rintro ⟨rfl, rfl, rfl, lo, hi, hr⟩
    exact ⟨a, ⟨_, rfl, rfl⟩, t, ⟨rfl, lo, hi⟩, r, ⟨rfl, hr⟩, rfl, rfl, rfl⟩

/-- Check 1 of R2 (section 1.1). -/
theorem groupCheck_iff (f : GroupFields) (k : GroupConfig) : f.check = some k ↔
    (f = k.toFields ∧ 1 ≤ k.reds.length ∧ k.reds.length ≤ 2 ∧ 50 ≤ k.minGreen ∧ k.minGreen ≤ 300
      ∧ ∀ v, k.vehicle = some v → 30 ≤ v.amberTime ∧ v.amberTime ≤ 50
          ∧ (v.redAmber = 0 ∨ (10 ≤ v.redAmber ∧ v.redAmber ≤ 20))) := by
  obtain ⟨kind, reds, amber, green, minGreen, time, redAmber⟩ := f
  obtain ⟨r, g, m, v⟩ := k
  unfold GroupFields.check GroupConfig.toFields
  simp only [Option.bind_eq_bind, Option.pure_def, Option.bind_eq_some_iff, indexOf_eq_some, ranged_eq_some,
    Option.filter_eq_some_iff, indicesOf_eq, GroupFields.mk.injEq, within_iff]
  constructor
  · rintro ⟨kd, ⟨a, rfl, hk⟩, rs, ⟨_, ⟨rfl, len⟩, rfl⟩, gr, ⟨_, rfl, rfl⟩, mg, ⟨rfl, range⟩, h⟩
    have named : a = .named kd := by cases a <;> simp_all [Arg.value]
    subst named
    rw [List.length_map] at len
    cases kd with
    | vehicle =>
      obtain ⟨v', hv, e⟩ := Option.bind_eq_some_iff.1 h
      obtain ⟨rfl, rfl, rfl, ranges⟩ := vehicleOf_eq_some.1 hv
      cases e
      exact ⟨⟨rfl, rfl, rfl, rfl, rfl, rfl, rfl⟩, len.1, len.2, range.1, range.2, fun v hv => by cases hv; exact ranges⟩
    | pedestrian =>
      dsimp only at h
      split at h
      · rename_i none
        simp only [Bool.and_eq_true, Option.isNone_iff_eq_none] at none
        obtain ⟨⟨rfl, rfl⟩, rfl⟩ := none
        cases h
        exact ⟨⟨rfl, rfl, rfl, rfl, rfl, rfl, rfl⟩, len.1, len.2, range.1, range.2, fun v hv => by cases hv⟩
      · cases h
  · rintro ⟨⟨rfl, rfl, rfl, rfl, rfl, rfl, rfl⟩, lo, hi, mlo, mhi, hv⟩
    refine ⟨_, ⟨_, rfl, rfl⟩, r, ⟨_, ⟨rfl, by simpa using ⟨lo, hi⟩⟩, rfl⟩, g, ⟨_, rfl, rfl⟩, m, ⟨rfl, mlo, mhi⟩, ?_⟩
    cases v with
    | none => rfl
    | some v =>
      exact Option.bind_eq_some_iff.2 ⟨v, vehicleOf_eq_some.2 ⟨rfl, rfl, rfl, hv v rfl⟩, rfl⟩

/-- Settles O13. -/
theorem groupWritesRefuseInOrder : Obligations.GroupWritesRefuseInOrder := by
  refine ⟨fun s n f u listens lock => ⟨fun on => ?_, fun off => ⟨fun out => ?_, fun g hn => ⟨fun absent => ?_,
    fun i hi => ?_⟩⟩⟩, groupCheck_iff⟩
  · refine ⟨?_, ?_, ?_⟩
    all_goals rw [exec_of_listens listens rfl, safetyWrite_supplied lock on]
  · refine ⟨?_, ?_, ?_⟩
    all_goals rw [exec_of_listens listens rfl, safetyWrite_open lock off, indexOf_outside out]
  · subst hn
    refine ⟨?_, ?_⟩
    all_goals
      rw [exec_of_listens listens rfl, safetyWrite_open lock off, indexOf_number]
      simp [absent]
  · subst hn
    have placed : exec i s = .next (s.placeGroup g f) := by
      rcases hi with rfl | ⟨m, held, rfl, rfl⟩
      · exact exec_writeRecordGroup listens lock off g f
      · exact exec_updateFieldsGroup listens lock off held u
    rw [placed]
    refine ⟨fun fails => by rw [placeGroup_of_failing fails], fun k passes => ⟨fun ⟨c, hc⟩ => ?_, fun free => ?_⟩⟩
    · have taken : s.takenCircuits g k ≠ [] := List.ne_nil_of_mem ((mem_takenCircuits s g k c).2 hc)
      obtain ⟨d, mem, reply⟩ := refuseTaken_reply s taken
      exact ⟨_, d, by rw [placeGroup_of_taken passes taken], reply, (mem_takenCircuits s g k d).1 mem⟩
    · rintro ⟨v, l, x, hv, hx, lt⟩
      have none : s.takenCircuits g k = [] :=
        List.eq_nil_iff_forall_not_mem.2 fun c h => free c ((mem_takenCircuits s g k c).1 h)
      have short : ¬s.amberFits g k = true := fun h => absurd ((amberFits_iff s g k).1 h v hv l x hx) (by omega)
      rw [placeGroup_of_free passes none, if_neg short]

/-! ## Conflict pairs (R24, R25, R26) -/

theorem pairPlace_inj {a b c d : GroupIx} : pairPlace a b = pairPlace c d ↔ a = c ∧ b = d := by
  simp only [pairPlace, Fin.ext_iff]
  omega

/-- The pair of two numbers after a write of a pair, read in the order of the numbers. -/
theorem setPair_pairOf (s : State) {l g : GroupIx} (v : Option (Nat × Nat)) (x y : GroupIx) (lt : x < y) :
    (s.setPair l g v).pairOf x y =
      if x = l ∧ y = g then v.map fun p => { up := p.1, down := p.2 }
      else if x = g ∧ y = l then v.map fun p => { up := p.2, down := p.1 }
      else s.pairOf x y := by
  unfold State.setPair State.pairOf
  by_cases h : l < g
  · have swap : ¬(x = g ∧ y = l) := fun ⟨hx, hy⟩ => by subst hx hy; exact lt_asymm h lt
    simp only [h, if_true, lt, Table.get_set, pairPlace_inj, swap, if_false]
  · have swap : ¬(x = l ∧ y = g) := fun ⟨hx, hy⟩ => by subst hx hy; exact h lt
    simp only [h, if_false, lt, if_true, Table.get_set, pairPlace_inj, swap]

theorem setPair_intergreen_of_lt (s : State) {l g : GroupIx} (v : Option (Nat × Nat)) {x y : GroupIx} (lt : x < y) :
    (s.setPair l g v).intergreen x y = (if x = l ∧ y = g then v.map (·.1)
        else if x = g ∧ y = l then v.map (·.2) else s.intergreen x y)
      ∧ (s.setPair l g v).intergreen y x = (if y = l ∧ x = g then v.map (·.1)
        else if y = g ∧ x = l then v.map (·.2) else s.intergreen y x) := by
  constructor
  · simp only [State.intergreen, setPair_pairOf s v x y lt, lt, if_true]
    split_ifs <;> cases v <;> rfl
  · simp only [State.intergreen, pairOf_comm _ y x, setPair_pairOf s v x y lt, lt_asymm lt, if_false,
      and_comm (a := y = _)]
    by_cases h : x = g ∧ y = l
    · have : ¬(x = l ∧ y = g) := fun e => by
        obtain ⟨rfl, rfl⟩ := h
        exact absurd e.1 (ne_of_lt lt)
      simp only [if_neg this, if_pos h]
      cases v <;> rfl
    · simp only [h, if_false]
      split_ifs <;> cases v <;> rfl

/-- The intergreens after a write of a pair (R24): the pair's two, and every other as it was. -/
theorem setPair_intergreen (s : State) {l g : GroupIx} (v : Option (Nat × Nat)) (x y : GroupIx) (ne : l ≠ g) :
    (s.setPair l g v).intergreen x y = if x = l ∧ y = g then v.map (·.1)
      else if x = g ∧ y = l then v.map (·.2) else s.intergreen x y := by
  rcases lt_trichotomy x y with lt | rfl | lt
  · exact (setPair_intergreen_of_lt s v lt).1
  · have h : ¬(x = l ∧ x = g) := fun e => ne (e.1.symm.trans e.2)
    have h' : ¬(x = g ∧ x = l) := fun e => ne (e.2.symm.trans e.1)
    simp [State.intergreen, State.pairOf, h, h']
  · exact (setPair_intergreen_of_lt s v lt).2

theorem conflicting_eq (s : State) (x y : GroupIx) : s.conflicting x y = (s.intergreen x y).isSome := by
  simp [State.conflicting, State.intergreen]

/-- An intergreen that a losing group may be given (R24, R26). -/
def State.IntergreenBound (s : State) (h : GroupIx) (x : Option Nat) : Prop :=
  ∃ n, x = some n ∧ n ≤ 150 ∧ ∀ k w, (s.group h).config = some k → k.vehicle = some w → w.amberTime ≤ n

/-- A pair that passes checks 2 and 3 of R24. -/
def State.PairFits (s : State) (l g : GroupIx) (f : Bool) (a b : Option Nat) : Prop :=
  if f then s.IntergreenBound l a ∧ s.IntergreenBound g b else a = none ∧ b = none

/-- What a pair's write leaves (R24). -/
def State.PairStored (s t : State) (l g : GroupIx) (f : Bool) (a b : Option Nat) : Prop :=
  t.conflicting l g = f ∧ t.intergreen l g = a ∧ t.intergreen g l = b
    ∧ (∀ x y : GroupIx, (x, y) ≠ (l, g) → (x, y) ≠ (g, l) → t.intergreen x y = s.intergreen x y)
    ∧ s.Demotes t ∧ s.OnlyReplies t okReply
    ∧ t = { s with conflicts := t.conflicts, plans := t.plans, seq := t.seq, link := t.link }

theorem pairFits_comm {s : State} {l g : GroupIx} {f : Bool} {a b : Option Nat} :
    s.PairFits l g f a b ↔ s.PairFits g l f b a := by
  unfold State.PairFits
  split <;> exact and_comm

theorem PairStored_comm {s t : State} {l g : GroupIx} {f : Bool} {a b : Option Nat} (h : s.PairStored t l g f a b) :
    s.PairStored t g l f b a := by
  obtain ⟨flag, up, down, others, rest⟩ := h
  exact ⟨(conflicting_comm t g l).trans flag, down, up, fun x y h h' => others x y h' h, rest⟩

theorem amberBound_iff (s : State) (h : GroupIx) (n : Nat) : s.amberBound h n = true ↔
    ∀ k w, (s.group h).config = some k → k.vehicle = some w → w.amberTime ≤ n := by
  unfold State.amberBound
  cases (s.group h).config with
  | none => simp
  | some k =>
    cases hv : k.vehicle with
    | none => simpa [hv] using fun k' w e e' => by rw [← e, hv] at e'; cases e'
    | some v =>
      refine Iff.trans (by simp [hv]) (b := v.amberTime ≤ n) ⟨fun le k' w e e' => ?_, fun all => all k v rfl hv⟩
      cases e
      rw [hv] at e'
      cases e'
      exact le

theorem pairOfFields_iff (f : Bool) (a b : Option Nat) (v : Option (Nat × Nat)) : pairOfFields f a b = some v ↔
    if f then ∃ x y, a = some x ∧ x ≤ 150 ∧ b = some y ∧ y ≤ 150 ∧ v = some (x, y)
    else a = none ∧ b = none ∧ v = none := by
  unfold pairOfFields
  cases f with
  | false =>
    simp only [Bool.false_eq_true, if_false, Bool.and_eq_true, Option.isNone_iff_eq_none]
    split
    · simp_all [eq_comm]
    · simp_all
  | true =>
    simp only [if_true]
    split
    · rename_i x y hx hy
      obtain ⟨rfl, -, hx⟩ := ranged_eq_some.1 hx
      obtain ⟨rfl, -, hy⟩ := ranged_eq_some.1 hy
      exact ⟨fun h => ⟨x, y, rfl, hx, rfl, hy, (Option.some.inj h).symm⟩,
        fun ⟨_, _, hx, _, hy, _, h⟩ => by cases hx; cases hy; rw [h]⟩
    · rename_i none
      refine ⟨nofun, fun ⟨x, y, hx, lx, hy, ly, _⟩ => ?_⟩
      exact absurd (ranged_eq_some.2 ⟨hy, Nat.zero_le _, ly⟩) (none x y (ranged_eq_some.2 ⟨hx, Nat.zero_le _, lx⟩))

theorem placePair_of_fits {s : State} {l g : GroupIx} (ne : l ≠ g) {f : Bool} {a b : Option Nat}
    (fits : s.PairFits l g f a b) : s.PairStored (s.placePair l g f a b) l g f a b := by
  have stored : ∃ v : Option (Nat × Nat), v.map (·.1) = a ∧ v.map (·.2) = b ∧ f = v.isSome
      ∧ s.placePair l g f a b = ((s.setPair l g v).demotePlans).accept .empty := by
    unfold State.PairFits at fits
    unfold State.placePair
    cases f with
    | false =>
      obtain ⟨rfl, rfl⟩ := fits
      exact ⟨none, rfl, rfl, rfl, rfl⟩
    | true =>
      obtain ⟨⟨x, rfl, lx, ax⟩, y, rfl, ly, ay⟩ := fits
      refine ⟨some (x, y), rfl, rfl, rfl, ?_⟩
      have amber : s.pairFits l g (some (x, y)) = true := by
        simp [State.pairFits, (amberBound_iff s l x).2 ax, (amberBound_iff s g y).2 ay]
      rw [(pairOfFields_iff true _ _ (some (x, y))).2 ⟨x, y, rfl, lx, rfl, ly, rfl⟩]
      simp only [amber, if_true]
  obtain ⟨v, rfl, rfl, rfl, e⟩ := stored
  rw [e]
  have read (x y : GroupIx) : (((s.setPair l g v).demotePlans).accept .empty).intergreen x y
      = (s.setPair l g v).intergreen x y := rfl
  have whole : s.setPair l g v = { s with conflicts := (s.setPair l g v).conflicts } := by
    unfold State.setPair
    split <;> rfl
  refine ⟨?_, ?_, ?_, fun x y h h' => ?_, demotes_of ?_ ?_, ?_, ?_⟩
  · rw [conflicting_eq, read, setPair_intergreen s v _ _ ne]
    simp
  · rw [read, setPair_intergreen s v _ _ ne]
    simp
  · rw [read, setPair_intergreen s v _ _ ne]
    simp [ne.symm]
  · rw [read, setPair_intergreen s v _ _ ne, if_neg (by simpa using h), if_neg (by simpa using h')]
  all_goals
    rw [whole]
    rfl

theorem placePair_of_not_fits {s : State} {l g : GroupIx} {f : Bool} {a b : Option Nat}
    (fails : ¬s.PairFits l g f a b) : s.placePair l g f a b = s.refuse .range := by
  unfold State.placePair
  cases h : pairOfFields f a b with
  | none => rfl
  | some v =>
    refine if_neg fun fits => fails ?_
    have fields := (pairOfFields_iff f a b v).1 h
    cases f with
    | false => exact ⟨fields.1, fields.2.1⟩
    | true =>
      obtain ⟨x, y, rfl, lx, rfl, ly, rfl⟩ := fields
      simp only [State.pairFits, Bool.and_eq_true, amberBound_iff] at fits
      exact ⟨⟨x, rfl, lx, fits.1⟩, y, rfl, ly, fits.2⟩

theorem pairNumbers_number {l g : GroupIx} (ne : l ≠ g) : pairNumbers (number l) (number g) = some (l, g) := by
  simp [pairNumbers, indexOf_number, ne]

theorem pairNumbers_outside {l g : Nat} (h : l = 0 ∨ 16 < l ∨ g = 0 ∨ 16 < g ∨ l = g) : pairNumbers l g = none := by
  unfold pairNumbers
  split
  · rename_i a b ha hb
    have hl := number_of_indexOf ha
    have hg := number_of_indexOf hb
    simp only [number] at hl hg
    rw [if_pos (Fin.ext (by omega))]
  · rfl

/-- Settles O15. -/
theorem conflictWritesStore : Obligations.ConflictWritesStore := by
  refine ⟨fun s l g i f a b listens lock off ne hi => ?_, fun s l g listens lock => ⟨fun on => ⟨?_, ?_⟩,
    fun off out => ⟨?_, ?_⟩, fun off a b => ?_⟩⟩
  · have placed : exec i s = .next (s.placePair l g f a b) ∨ exec i s = .next (s.placePair g l f b a) := by
      rcases hi with rfl | rfl | ⟨uf, ua, ub, rfl, flag, rfl, rfl⟩
      · left
        rw [exec_of_listens listens rfl, safetyWrite_open lock off, pairNumbers_number ne]
      · right
        rw [exec_of_listens listens rfl, safetyWrite_open lock off, pairNumbers_number ne.symm]
      · left
        rw [exec_of_listens listens rfl, safetyWrite_open lock off, pairNumbers_number ne]
        simp only [flag]
    refine ⟨fun fits => ?_, fun fails => ?_⟩
    · have fits : s.PairFits l g f a b := fits
      rcases placed with e | e
      · exact ⟨_, e, placePair_of_fits ne fits⟩
      · exact ⟨_, e, PairStored_comm (placePair_of_fits ne.symm (pairFits_comm.1 fits))⟩
    · have fails : ¬s.PairFits l g f a b := fails
      rcases placed with e | e
      · rw [e, placePair_of_not_fits fails]
      · rw [e, placePair_of_not_fits (fun h => fails (pairFits_comm.2 h))]
  · intro f a b
    rw [exec_of_listens listens rfl, safetyWrite_supplied lock on]
  · intro f a b
    rw [exec_of_listens listens rfl, safetyWrite_supplied lock on]
  · intro f a b
    rw [exec_of_listens listens rfl, safetyWrite_open lock off, pairNumbers_outside out]
  · intro f a b
    rw [exec_of_listens listens rfl, safetyWrite_open lock off, pairNumbers_outside out]
  · rw [exec_of_listens listens rfl, safetyWrite_open lock off]
    cases pairNumbers l g <;> rfl

/-! ## The junction record (R164) -/

/-- The times of the junction record in their ranges, and the mode not named (R164). -/
theorem timesInRange_iff {a b c : Nat} {mode : Bool} : timesInRange a b c mode = true ↔
    50 ≤ a ∧ a ≤ 300 ∧ 30 ≤ b ∧ b ≤ 100 ∧ 30 ≤ c ∧ c ≤ 100 ∧ mode = false := by
  simp [timesInRange, within_iff, and_assoc]

/-- The junction record's write on the times that would result, absent where one is named as absent (R164). -/
def State.placeTimes (s : State) (x y z : Option Nat) (mode : Bool) : State :=
  match x, y, z with
  | some a, some b, some c => s.placeJunction a b c mode
  | _, _, _ => s.refuse .range

theorem exec_junctionTimes {s : State} (listens : s.Listens) {i : Instr} {x y z : Option Nat} {mode : Bool}
    (hi : i = .writeRecordJunction (x.getD 0) (y.getD 0) (z.getD 0) mode ∧ x ≠ none ∧ y ≠ none ∧ z ≠ none
      ∨ ∃ ux uy uz, i = .updateFieldsJunction ux uy uz mode ∧ x = ux.apply (some s.junction.startFlash)
        ∧ y = uy.apply (some s.junction.startRed) ∧ z = uz.apply (some s.junction.allRed)) :
    exec i s = .next (s.safetyWrite fun t => t.placeTimes x y z mode) := by
  rcases hi with ⟨rfl, hx, hy, hz⟩ | ⟨ux, uy, uz, rfl, rfl, rfl, rfl⟩
  · obtain ⟨a, rfl⟩ := Option.ne_none_iff_exists'.1 hx
    obtain ⟨b, rfl⟩ := Option.ne_none_iff_exists'.1 hy
    obtain ⟨c, rfl⟩ := Option.ne_none_iff_exists'.1 hz
    exact exec_of_listens (i := .writeRecordJunction a b c mode) listens rfl
  · exact exec_of_listens (i := .updateFieldsJunction ux uy uz mode) listens rfl

/-- Settles O16. -/
theorem junctionWritesStore : Obligations.JunctionWritesStore := by
  refine ⟨fun s i x y z mode listens lock hi => ⟨fun on => ?_, fun off => ⟨fun a b c fits => ?_, fun fails => ?_⟩⟩,
    fun s op kind listens lock unsupported => ?_⟩
  · rw [exec_junctionTimes listens hi, safetyWrite_supplied lock on]
  · obtain ⟨rfl, rfl, rfl, ranges⟩ := fits
    refine ⟨_, by rw [exec_junctionTimes listens hi, safetyWrite_open lock off], ?_⟩
    have e : s.placeTimes (some a) (some b) (some c) mode = ((s.setJunction { s.junction with
        startFlash := a, startRed := b, allRed := c }).demotePlans).accept .empty :=
      if_pos (timesInRange_iff.2 ranges)
    rw [e]
    exact ⟨rfl, demotes_of rfl rfl, rfl, rfl⟩
  · rw [exec_junctionTimes listens hi, safetyWrite_open lock off]
    unfold State.placeTimes
    split
    · exact congrArg _ (if_neg fun h => fails _ _ _ ⟨rfl, rfl, rfl, timesInRange_iff.1 h⟩)
    · rfl
  · rw [exec_of_listens listens rfl]
    simp only [unsupported, Bool.false_eq_true, if_false, State.locked, beq_iff_eq, lock]

end Sys2Proof.Machine
end

section
/-! The writes of the plans, their validation and their derived fields (R40 to R42, R50 to R59, R68, R72, R73). -/

namespace Sys2Proof.Machine

theorem locked_eq_false {s : State} (lock : s.link.lock ≠ .all) : s.locked = false := by
  simp [State.locked, lock]

/-! ## The writes of a plan (R40 to R42) -/

theorem planBusy_iff (s : State) (p : PlanIx) : s.planBusy p = true ↔
    (s.plan p).phase = some .selected ∨ (s.plan p).phase = some .active ∨ (s.plan p).phase = some .invoked
      ∨ ((s.junction.state = .startFlash ∨ s.junction.state = .startRed) ∧ s.seq.current = some p) := by
  simp [State.planBusy, or_assoc]

theorem exec_writeRecordPlan {s : State} (listens : s.Listens) (lock : s.link.lock ≠ .all) (p : PlanIx)
    (f : PlanFields) : exec (.writeRecordPlan (number p) f) s =
      .next (if s.planBusy p then s.refuse .busy else s.placePlan p f) := by
  rw [exec_of_listens listens rfl, locked_eq_false lock, indexOf_number]
  rfl

theorem exec_updateFieldsPlan {s : State} (listens : s.Listens) (lock : s.link.lock ≠ .all) (p : PlanIx)
    (u : PlanChanges) : exec (.updateFieldsPlan (number p) u) s =
      .next (if s.planBusy p then s.refuse .busy
        else if u.indicesHeld (s.plan p).toFields then s.placePlan p (u.apply (s.plan p).toFields)
        else s.refuse .range) := by
  rw [exec_of_listens listens rfl, locked_eq_false lock, indexOf_number]
  rfl

theorem exec_retireRecordPlan {s : State} (listens : s.Listens) (lock : s.link.lock ≠ .all) (p : PlanIx) :
    exec (.retireRecordPlan (number p)) s =
      .next (if s.plan p = .free then s.refuse .absent
        else if s.planBusy p then s.refuse .busy else (s.setPlan p .free).accept .empty) := by
  rw [exec_of_listens listens rfl, locked_eq_false lock, indexOf_number]
  rfl

theorem placePlan_of_passing {s : State} {p : PlanIx} {f : PlanFields} {b : PlanBody} (h : f.check = some b) :
    s.placePlan p f = (s.setPlan p (.draft b)).accept .empty := by
  simp [State.placePlan, h]

theorem placePlan_of_failing {s : State} {p : PlanIx} {f : PlanFields} (h : f.check = none) :
    s.placePlan p f = s.refuse .range := by
  simp [State.placePlan, h]

/-- An index outside the list held (R41). -/
theorem indicesHeld_of_outside {u : PlanChanges} {f : PlanFields}
    (h : ∃ e ∈ u.edits, e.index = 0 ∨ (f.stages.getD []).length < e.index) : u.indicesHeld f = false := by
  obtain ⟨e, mem, out⟩ := h
  rw [← Bool.not_eq_true, PlanChanges.indicesHeld, List.all_eq_true]
  intro held
  have := within_iff.1 (held e mem)
  omega

/-- A single stage's item named as absent leaves no stage list (log entry 33). -/
theorem check_of_absentEdit {u : PlanChanges} {f : PlanFields}
    (h : ∃ e ∈ u.edits, e.green = .absent ∨ e.split = .absent) : (u.apply f).check = none := by
  obtain ⟨e, mem, absent⟩ := h
  have named : u.edits.any StageEdit.namesAbsent = true :=
    List.any_eq_true.2 ⟨e, mem, by simpa [StageEdit.namesAbsent] using absent⟩
  have some : u.edits.isEmpty = false := by simpa using List.ne_nil_of_mem mem
  have gone : (u.apply f).stages = none := by
    simp only [PlanChanges.apply, PlanChanges.stagesAfter, some, named, if_true, Bool.false_eq_true, if_false]
  simp [PlanFields.check, gone]

/-! ## Check 4 of R40 -/

theorem mem_greenSet (l : List Nat) (g : GroupIx) : g ∈ greenSet l ↔ number g ∈ l := by simp [greenSet]

theorem greenSet_sorted (l : List Nat) : (greenSet l).Pairwise (· < ·) :=
  (List.pairwise_lt_finRange 16).filter _

/-- A stage passes by its ranges, and is held ascending (R40). -/
theorem stageCheck_iff (x : StageFields) (t : Stage) : x.check = some t ↔
    (∀ n ∈ x.green, 1 ≤ n ∧ n ≤ 16) ∧ 50 ≤ x.split ∧ x.split ≤ 1200 ∧ t.split = x.split
      ∧ t.green.Pairwise (· < ·) ∧ ∀ g : GroupIx, g ∈ t.green ↔ number g ∈ x.green := by
  unfold StageFields.check
  rw [Option.ite_none_right_eq_some]
  simp only [Bool.and_eq_true, List.all_eq_true, within_iff, and_assoc]
  refine and_congr Iff.rfl (and_congr Iff.rfl (and_congr Iff.rfl ⟨fun h => ?_, fun ⟨split, sorted, same⟩ => ?_⟩))
  · cases h
    exact ⟨rfl, greenSet_sorted _, mem_greenSet _⟩
  · have green : greenSet x.green = t.green := by
      refine List.Perm.eq_of_pairwise (le := (· < ·)) (fun a b _ _ h h' => absurd h' (lt_asymm h))
        (greenSet_sorted _) sorted ((List.perm_ext_iff_of_nodup ?_ ?_).2 fun g => ?_)
      · exact (greenSet_sorted _).imp ne_of_lt
      · exact sorted.imp ne_of_lt
      · rw [mem_greenSet, same]
    cases t
    simp_all

theorem mapM_eq_some_forall {α β : Type} (f : α → Option β) (l : List α) (m : List β) :
    l.mapM f = some m ↔ List.Forall₂ (fun a b => f a = some b) l m := by
  rw [mapM_eq_some]
  induction l generalizing m with
  | nil => cases m <;> simp
  | cons a l ih => cases m <;> simp [ih]

theorem checkClass_iff (f : PlanFields) (c : ClassFields) : f.checkClass = some c ↔ match c with
    | .base c o k => f.cls = some (.named .base) ∧ f.cycle = some c ∧ 300 ≤ c ∧ c ≤ 2400
        ∧ f.offset = some o ∧ o ≤ 2399 ∧ f.slack = some k ∧ 1 ≤ k ∧ k ≤ 8
        ∧ f.minDwell = none ∧ f.maxDwell = none
    | .preempt lo hi => f.cls = some (.named .preempt) ∧ f.minDwell = some lo ∧ 50 ≤ lo ∧ lo ≤ 600
        ∧ f.maxDwell = some hi ∧ 100 ≤ hi ∧ hi ≤ 3000
        ∧ f.cycle = none ∧ f.offset = none ∧ f.slack = none := by
  have named (x : PlanClass) : f.cls.bind Arg.value = some x ↔ f.cls = some (.named x) := by
    cases f.cls with
    | none => simp
    | some a => cases a <;> simp [Arg.value]
  simp only [PlanFields.checkClass, Option.bind_eq_bind, Option.pure_def, Option.bind_eq_some_iff, named]
  constructor
  · rintro ⟨cls, hcls, h⟩
    cases cls with
    | base =>
      simp only [Option.bind_eq_some_iff, ranged_eq_some, Option.ite_none_right_eq_some, Bool.and_eq_true,
        Option.isNone_iff_eq_none, Option.some.injEq] at h
      obtain ⟨c', hc, o', ho, k', hk, hn, rfl⟩ := h
      exact ⟨hcls, hc.1, hc.2.1, hc.2.2, ho.1, ho.2.2, hk.1, hk.2.1, hk.2.2, hn.1, hn.2⟩
    | preempt =>
      simp only [Option.bind_eq_some_iff, ranged_eq_some, Option.ite_none_right_eq_some, Bool.and_eq_true,
        Option.isNone_iff_eq_none, Option.some.injEq] at h
      obtain ⟨lo, hlo, hi, hhi, hn, rfl⟩ := h
      exact ⟨hcls, hlo.1, hlo.2.1, hlo.2.2, hhi.1, hhi.2.1, hhi.2.2, hn.1.1, hn.1.2, hn.2⟩
  · intro h
    cases c with
    | base c o k =>
      obtain ⟨hcls, hc, c1, c2, ho, o2, hk, k1, k2, n1, n2⟩ := h
      refine ⟨.base, hcls, ?_⟩
      simp only [Option.bind_eq_some_iff, ranged_eq_some, Option.ite_none_right_eq_some, Bool.and_eq_true,
        Option.isNone_iff_eq_none, Option.some.injEq]
      exact ⟨c, ⟨hc, c1, c2⟩, o, ⟨ho, Nat.zero_le _, o2⟩, k, ⟨hk, k1, k2⟩, ⟨n1, n2⟩, rfl⟩
    | preempt lo hi =>
      obtain ⟨hcls, hlo, l1, l2, hhi, h1, h2, n1, n2, n3⟩ := h
      refine ⟨.preempt, hcls, ?_⟩
      simp only [Option.bind_eq_some_iff, ranged_eq_some, Option.ite_none_right_eq_some, Bool.and_eq_true,
        Option.isNone_iff_eq_none, Option.some.injEq]
      exact ⟨lo, ⟨hlo, l1, l2⟩, hi, ⟨hhi, h1, h2⟩, ⟨⟨n1, n2⟩, n3⟩, rfl⟩

/-- Check 4 of R40. -/
theorem planCheck_iff (f : PlanFields) (b : PlanBody) : f.check = some b ↔
    (∃ l, f.stages = some l ∧ l.length ≤ 8 ∧ List.Forall₂ (fun x t => StageFields.check x = some t) l b.stages)
      ∧ f.checkClass = some b.fields := by
  obtain ⟨stages, fields⟩ := b
  simp only [PlanFields.check, Option.bind_eq_bind, Option.pure_def, Option.bind_eq_some_iff,
    Option.filter_eq_some_iff, mapM_eq_some_forall, decide_eq_true_eq, Option.some.injEq, PlanBody.mk.injEq]
  constructor
  · rintro ⟨l', ⟨l, ⟨hl, len⟩, all⟩, c, hc, rfl, rfl⟩
    exact ⟨⟨l, hl, len, all⟩, hc⟩
  · rintro ⟨⟨l, hl, len, all⟩, hc⟩
    exact ⟨stages, ⟨l, ⟨hl, len⟩, all⟩, fields, hc, rfl, rfl⟩

/-- Settles O17. -/
theorem planWritesMakeDraft : Obligations.PlanWritesMakeDraft := by
  refine ⟨fun s p listens lock => ⟨fun calm => ⟨fun f b h => ?_, fun f h => ?_, fun u b held h => ?_, fun u h => ?_,
    fun h => ?_⟩, fun free => ?_, fun used => ⟨fun f => ?_, fun u => ?_, fun h => ?_⟩,
    fun n out => ⟨fun f => ?_, fun u => ?_, ?_, ?_⟩, fun q ne r => ?_⟩, fun f b => ?_⟩
  · rw [exec_writeRecordPlan listens lock, if_neg (by simp [calm]), placePlan_of_passing h]
  · rw [exec_writeRecordPlan listens lock, if_neg (by simp [calm]), placePlan_of_failing h]
  · rw [exec_updateFieldsPlan listens lock, if_neg (by simp [calm]), if_pos held, placePlan_of_passing h]
  · rw [exec_updateFieldsPlan listens lock, if_neg (by simp [calm])]
    split
    · rename_i held
      refine congrArg _ (placePlan_of_failing ?_)
      rcases h with out | absent | fails
      · rw [indicesHeld_of_outside out] at held
        cases held
      · exact check_of_absentEdit absent
      · exact fails
    · rfl
  · rw [exec_retireRecordPlan listens lock, if_neg h, if_neg (by simp [calm])]
  · rw [exec_retireRecordPlan listens lock, if_pos free]
  · rw [exec_writeRecordPlan listens lock, if_pos ((planBusy_iff s p).2 used)]
  · rw [exec_updateFieldsPlan listens lock, if_pos ((planBusy_iff s p).2 used)]
  · rw [exec_retireRecordPlan listens lock, if_neg h, if_pos ((planBusy_iff s p).2 used)]
  iterate 4
    · rw [exec_of_listens listens rfl, locked_eq_false lock, indexOf_outside out]
      rfl
  · exact (State.setPlan_plan s p q r).trans (if_neg ne)
  · rw [planCheck_iff, checkClass_iff]
    simp only [stageCheck_iff] <;> rfl

/-! ## Validation (R50 to R53) -/

/-- The value found is that of the first element with one. -/
theorem findSome?_of_first {α β : Type} {f : α → Option β} {l : List α} {i : Nat} {x : α} {y : β}
    (h : l[i]? = some x) (hy : f x = some y) (before : ∀ j < i, ∀ z, l[j]? = some z → f z = none) :
    l.findSome? f = some y := by
  induction l generalizing i with
  | nil => cases h
  | cons a l ih =>
    cases i with
    | zero =>
      cases h
      simp [hy]
    | succ i =>
      rw [List.findSome?_cons, before 0 (Nat.succ_pos _) a rfl]
      exact ih h fun j lt z hz => before (j + 1) (Nat.succ_lt_succ lt) z hz

/-- Of a list in order, the element found is one before which none is. -/
theorem find?_of_least {α : Type} {r : α → α → Prop} {p : α → Bool} {l : List α} (sorted : l.Pairwise r) {a : α}
    (mem : a ∈ l) (ha : p a = true) (least : ∀ b ∈ l, p b = true → ¬r b a) : l.find? p = some a := by
  induction l with
  | nil => cases mem
  | cons b l ih =>
    rw [List.pairwise_cons] at sorted
    rcases List.mem_cons.1 mem with rfl | mem
    · exact List.find?_cons_of_pos ha
    · have hb : ¬p b = true := fun h => least b (List.mem_cons_self ..) h (sorted.1 a mem)
      rw [List.find?_cons_of_neg hb]
      exact ih sorted.2 mem fun c hc => least c (List.mem_cons_of_mem _ hc)

theorem forall_pairsOf (p : GroupIx → GroupIx → Prop) (l : List GroupIx) :
    (∀ y ∈ pairsOf l, p y.1 y.2) ↔ l.Pairwise p := by
  induction l with
  | nil => simp [pairsOf]
  | cons g l ih =>
    rw [List.pairwise_cons, ← ih]
    simp only [pairsOf, List.mem_append, List.mem_map, or_imp, forall_and]
    refine and_congr ⟨fun h x hx => h (g, x) ⟨x, hx, rfl⟩, ?_⟩ Iff.rfl
    rintro h _ ⟨x, hx, rfl⟩
    exact h x hx

theorem mem_pairsOf {l : List GroupIx} (sorted : l.Pairwise (· < ·)) (x y : GroupIx) :
    (x, y) ∈ pairsOf l ↔ x ∈ l ∧ y ∈ l ∧ x < y := by
  induction l with
  | nil => simp [pairsOf]
  | cons g l ih =>
    rw [List.pairwise_cons] at sorted
    simp only [pairsOf, List.mem_append, List.mem_map, ih sorted.2, List.mem_cons, Prod.mk.injEq]
    constructor
    · rintro (⟨z, hz, rfl, rfl⟩ | ⟨hx, hy, lt⟩)
      · exact ⟨.inl rfl, .inr hz, sorted.1 z hz⟩
      · exact ⟨.inr hx, .inr hy, lt⟩
    · rintro ⟨rfl | hx, rfl | hy, lt⟩
      · exact absurd lt (lt_irrefl _)
      · exact .inl ⟨y, hy, rfl, rfl⟩
      · exact absurd lt (lt_asymm (sorted.1 x hx))
      · exact .inr ⟨hx, hy, lt⟩

/-- The order of pairs by the lower number and then the higher. -/
def PairBefore (x y : GroupIx × GroupIx) : Prop := x.1 < y.1 ∨ (x.1 = y.1 ∧ x.2 < y.2)

theorem pairsOf_sorted {l : List GroupIx} (sorted : l.Pairwise (· < ·)) : (pairsOf l).Pairwise PairBefore := by
  induction l with
  | nil => exact List.Pairwise.nil
  | cons g l ih =>
    rw [List.pairwise_cons] at sorted
    refine List.pairwise_append.2 ⟨?_, ih sorted.2, ?_⟩
    · exact List.pairwise_map.2 (sorted.2.imp fun lt => .inr ⟨rfl, lt⟩)
    · rintro _ hx ⟨x, y⟩ hy
      obtain ⟨z, hz, rfl⟩ := List.mem_map.1 hx
      exact .inl (sorted.1 x ((mem_pairsOf sorted.2 x y).1 hy).1)

theorem indexed_at (b : PlanBody) (i : Nat) : b.indexed[i]? = b.stages[i]?.map fun t => (i + 1, t) := by
  simp only [PlanBody.indexed, List.getElem?_map, List.getElem?_zipIdx, Option.map_map, Nat.zero_add]
  rfl

theorem mem_indexed (b : PlanBody) (p : Stage → Prop) : (∀ x ∈ b.indexed, p x.2) ↔ ∀ x ∈ b.stages, p x := by
  have stages : b.stages = b.indexed.map (·.2) := by
    simp [PlanBody.indexed, Function.comp_def]
  rw [stages, List.forall_mem_map]

theorem vStages_eq (b : PlanBody) : b.vStages =
    if 1 ≤ b.stages.length ∧ b.stages.length ≤ (match b.fields with | .base .. => 8 | .preempt .. => 4) then none
    else some (.vStages b.stages.length) := by
  unfold PlanBody.vStages PlanBody.cls PlanBody.count
  cases b.fields <;>
  · dsimp only
    split_ifs <;> first | rfl | omega

theorem vGroup_eq_none (s : State) (b : PlanBody) :
    s.vGroup b = none ↔ ∀ x ∈ b.stages, ∀ g ∈ x.green, (s.group g).config ≠ none := by
  rw [← mem_indexed b fun x => ∀ g ∈ x.green, (s.group g).config ≠ none]
  simp [State.vGroup, State.present]

theorem vConflict_eq_none (s : State) (b : PlanBody) : s.vConflict b = none ↔
    ∀ x ∈ b.stages, x.green.Pairwise fun g h => s.conflicting g h = false := by
  rw [← mem_indexed b fun x => x.green.Pairwise fun g h => s.conflicting g h = false]
  simp only [State.vConflict, List.findSome?_eq_none_iff, Option.map_eq_none_iff, List.find?_eq_none,
    Bool.not_eq_true, forall_pairsOf fun g h => s.conflicting g h = false]

/-- The first stage with a group that is not present, and the lowest such group (R51). -/
theorem vGroup_of_first {s : State} {b : PlanBody} (sorted : ∀ x ∈ b.stages, x.green.Pairwise (· < ·)) {i : Nat}
    {t : Stage} (ht : b.stages[i]? = some t) {g : GroupIx} (mem : g ∈ t.green) (hg : (s.group g).config = none)
    (least : ∀ h ∈ t.green, (s.group h).config = none → g ≤ h)
    (before : ∀ j < i, ∀ x, b.stages[j]? = some x → ∀ h ∈ x.green, (s.group h).config ≠ none) :
    s.vGroup b = some (.vGroup (i + 1) (number g)) := by
  refine findSome?_of_first (i := i) (x := (i + 1, t)) (by rw [indexed_at, ht]; rfl) ?_ fun j lt z hz => ?_
  · have found : t.green.find? (fun h => !s.present h) = some g :=
      find?_of_least (sorted t (List.mem_of_getElem? ht)) mem (by simp [State.present, hg])
        fun h hm hh => not_lt.2 (least h hm (by simpa [State.present] using hh))
    rw [found]
    rfl
  · rw [indexed_at] at hz
    obtain ⟨x, hx, rfl⟩ := Option.map_eq_some_iff.1 hz
    simpa [State.present, Option.isSome_iff_ne_none] using before j lt x hx

/-- The first stage with a conflicting pair, and the first such pair (R52). -/
theorem vConflict_of_first {s : State} {b : PlanBody} (sorted : ∀ x ∈ b.stages, x.green.Pairwise (· < ·)) {i : Nat}
    {t : Stage} (ht : b.stages[i]? = some t) {g h : GroupIx} (mem : (g, h) ∈ pairsOf t.green)
    (hc : s.conflicting g h = true)
    (least : ∀ y ∈ pairsOf t.green, s.conflicting y.1 y.2 = true → ¬PairBefore y (g, h))
    (before : ∀ j < i, ∀ x, b.stages[j]? = some x → ∀ y ∈ pairsOf x.green, s.conflicting y.1 y.2 = false) :
    s.vConflict b = some (.vConflict (i + 1) (number g) (number h)) := by
  refine findSome?_of_first (i := i) (x := (i + 1, t)) (by rw [indexed_at, ht]; rfl) ?_ fun j lt z hz => ?_
  · have found : (pairsOf t.green).find? (fun y => s.conflicting y.1 y.2) = some (g, h) :=
      find?_of_least (pairsOf_sorted (sorted t (List.mem_of_getElem? ht))) mem hc least
    rw [found]
    rfl
  · rw [indexed_at] at hz
    obtain ⟨x, hx, rfl⟩ := Option.map_eq_some_iff.1 hz
    simpa using before j lt x hx

theorem exec_validatePlan {s : State} (listens : s.Listens) (lock : s.link.lock ≠ .all) (p : PlanIx) :
    exec (.validatePlan (number p)) s = .next (s.validate p) := by
  rw [exec_of_listens listens rfl, locked_eq_false lock, indexOf_number]
  rfl

theorem validationFailure_eq_none (s : State) (b : PlanBody) : s.validationFailure b = none ↔
    b.vStages = none ∧ s.vGroup b = none ∧ s.vConflict b = none ∧ b.vSlack = none ∧ b.vRange = none := by
  simp [State.validationFailure, Option.or_eq_none_iff, and_assoc]

theorem validationPasses_iff (s : State) (b : PlanBody) : s.validationFailure b = none ↔
    (1 ≤ b.stages.length ∧ b.stages.length ≤ (match b.fields with | .base .. => 8 | .preempt .. => 4)
      ∧ (∀ x ∈ b.stages, ∀ g ∈ x.green, (s.group g).config ≠ none)
      ∧ (∀ x ∈ b.stages, x.green.Pairwise fun g h => s.conflicting g h = false)
      ∧ match b.fields with
        | .base c o k => k ≤ b.stages.length ∧ o < c
        | .preempt lo hi => lo ≤ hi) := by
  have last : (b.vSlack = none ∧ b.vRange = none) ↔ match b.fields with
      | .base c o k => k ≤ b.stages.length ∧ o < c
      | .preempt lo hi => lo ≤ hi := by
    unfold PlanBody.vSlack PlanBody.vRange PlanBody.count
    cases b.fields <;> simp
  rw [validationFailure_eq_none, vStages_eq, vGroup_eq_none, vConflict_eq_none, last, ite_eq_left_iff]
  simp only [reduceCtorEq, imp_false, not_not, and_assoc]

/-- Settles O18. -/
theorem validationMakesReady : Obligations.ValidationMakesReady := by
  refine ⟨fun s p listens lock => ⟨fun free => ?_, fun ph b d valid => ?_, fun b draft => ⟨fun x fails => ?_,
    fun passes => ?_⟩⟩, validationPasses_iff, fun s b sorted => ?_⟩
  · rw [exec_validatePlan listens lock, State.validate, free]
  · rw [exec_validatePlan listens lock, State.validate, valid]
  · rw [exec_validatePlan listens lock, State.validate, draft]
    simp only [fails]
  · rw [exec_validatePlan listens lock, State.validate, draft]
    simp only [passes]
  intro m counted names missing clash
  have stages : b.vStages = if counted then none else some (.vStages m) := vStages_eq b
  refine ⟨fun fails => ?_, fun counts => ⟨fun i g gone first => ?_, fun none => ⟨fun i g h meets first => ?_,
    fun apart => ?_⟩⟩⟩
  · rw [State.validationFailure, stages, if_neg fails]
    rfl
  · obtain ⟨⟨t, ht, mem⟩, hg⟩ := gone
    have group : s.vGroup b = some (.vGroup (i + 1) (number g)) := by
      refine vGroup_of_first sorted ht mem hg (fun h hm hh => ?_) fun j lt x hx h hm hh => ?_
      · exact (first i h ⟨⟨t, ht, hm⟩, hh⟩).elim (fun lt => absurd lt (lt_irrefl _)) (·.2)
      · rcases first j h ⟨⟨x, hx, hm⟩, hh⟩ with later | ⟨rfl, -⟩
        · exact lt_asymm lt later
        · exact lt_irrefl _ lt
    rw [State.validationFailure, stages, if_pos counts, group]
    rfl
  all_goals
    have present : s.vGroup b = Option.none := by
      refine (vGroup_eq_none s b).2 fun x hx g hg gone => ?_
      obtain ⟨i, hi⟩ := List.mem_iff_getElem?.1 hx
      exact none i g ⟨⟨x, hi, hg⟩, gone⟩
  · obtain ⟨⟨t, ht, mem⟩, ⟨t', ht', mem'⟩, lt, hc⟩ := meets
    cases ht.symm.trans ht'
    have sortedAt {j : Nat} {x : Stage} (hx : b.stages[j]? = some x) := sorted x (List.mem_of_getElem? hx)
    have clashes {j : Nat} {x : Stage} (hx : b.stages[j]? = some x) {y : GroupIx × GroupIx} (hy : y ∈ pairsOf x.green)
        (h : s.conflicting y.1 y.2 = true) : clash j y.1 y.2 := by
      obtain ⟨m1, m2, lt⟩ := (mem_pairsOf (sortedAt hx) y.1 y.2).1 hy
      exact ⟨⟨x, hx, m1⟩, ⟨x, hx, m2⟩, lt, h⟩
    have conflict : s.vConflict b = some (.vConflict (i + 1) (number g) (number h)) := by
      refine vConflict_of_first sorted ht ((mem_pairsOf (sortedAt ht) g h).2 ⟨mem, mem', lt⟩) hc
        (fun y hy h' before => ?_) fun j lt x hx y hy => ?_
      · rcases first i y.1 y.2 (clashes ht hy h') with lt | ⟨-, lt | ⟨eq, le⟩⟩
        · exact lt_irrefl _ lt
        · exact before.elim (lt_asymm lt) fun e => ne_of_gt lt e.1
        · exact before.elim (ne_of_lt · eq.symm) fun e => not_lt.2 le e.2
      · rw [← Bool.not_eq_true]
        intro h'
        rcases first j y.1 y.2 (clashes hx hy h') with later | ⟨rfl, -⟩
        · exact lt_asymm lt later
        · exact lt_irrefl _ lt
    rw [State.validationFailure, stages, if_pos counts, present, conflict]
    rfl
  · have conflict : s.vConflict b = Option.none := by
      refine (vConflict_eq_none s b).2 fun x hx => (forall_pairsOf _ _).1 fun y hy => ?_
      rw [← Bool.not_eq_true]
      intro h'
      obtain ⟨i, hi⟩ := List.mem_iff_getElem?.1 hx
      obtain ⟨m1, m2, lt⟩ := (mem_pairsOf (sorted x hx) y.1 y.2).1 hy
      exact apart i y.1 y.2 ⟨⟨x, hi, m1⟩, ⟨x, hi, m2⟩, lt, h'⟩
    rw [State.validationFailure, stages, if_pos counts, present, conflict]
    unfold PlanBody.vSlack PlanBody.vRange PlanBody.count
    cases b.fields with
    | base c o k =>
      refine ⟨fun lt => by simp [m, lt], fun le h => ?_⟩
      have : ¬b.stages.length < k := not_lt.2 le
      simp [this, h]
    | preempt lo hi =>
      intro lt
      simp [lt]

end Sys2Proof.Machine
end

section
/-! The derived fields of a plan and the slack stage's portion (R55 to R59, R68, R72, R73). -/

namespace Sys2Proof.Machine

/-! ## The largest of a value and a list -/

theorem latest_cons (a b : Nat) (l : List Nat) : latest a (b :: l) = latest (max a b) l := rfl

theorem le_latest (a : Nat) (l : List Nat) : a ≤ latest a l := by
  induction l generalizing a with
  | nil => exact le_rfl
  | cons b l ih => exact (le_max_left a b).trans (ih (max a b))

theorem le_latest_of_mem {a : Nat} {l : List Nat} {n : Nat} (h : n ∈ l) : n ≤ latest a l := by
  induction l generalizing a with
  | nil => cases h
  | cons b l ih =>
    rcases List.mem_cons.1 h with rfl | h
    · exact (le_max_right a n).trans (le_latest (max a n) l)
    · exact ih h

theorem latest_attained (a : Nat) (l : List Nat) : latest a l = a ∨ latest a l ∈ l := by
  induction l generalizing a with
  | nil => exact .inl rfl
  | cons b l ih =>
    rw [latest_cons]
    rcases ih (max a b) with h | h
    · rw [h]
      rcases max_choice a b with h | h
      · exact .inl h
      · rw [h]
        exact .inr (List.mem_cons_self ..)
    · exact .inr (List.mem_cons_of_mem _ h)

/-! ## The derived fields (R55 to R59) -/

theorem mem_gainingInto (b : PlanBody) (i : Nat) (g : GroupIx) :
    g ∈ b.gainingInto i ↔ g ∈ b.greens i ∧ g ∉ b.before i := by simp [PlanBody.gainingInto]

theorem mem_losingInto (b : PlanBody) (i : Nat) (g : GroupIx) :
    g ∈ b.losingInto i ↔ g ∈ b.before i ∧ g ∉ b.greens i := by simp [PlanBody.losingInto]

theorem before_eq (b : PlanBody) (i : Nat) : b.before (i + 1) = if i = 0 then (match b.fields with
    | .base .. => b.greens b.stages.length
    | .preempt .. => []) else b.greens i := by
  unfold PlanBody.before PlanBody.cls PlanBody.count
  cases b.fields <;> simp

theorem indexed_getElem (b : PlanBody) {i : Nat} (h : i < b.stages.length) :
    b.indexed[i]? = some (i + 1, b.stages[i]) := by
  simp [indexed_at, h]

theorem derive_interstage (s : State) (b : PlanBody) {i : Nat} (h : i < b.stages.length) :
    (s.derive b).interstage (i + 1) = s.nominalInterstage b (i + 1) := by
  simp [Derived.interstage, State.derive, List.getD_eq_getElem?_getD, indexed_getElem b h]

theorem derive_split (s : State) (b : PlanBody) {i : Nat} (h : i < b.stages.length) :
    (s.derive b).split (i + 1) = s.minGreenInto b (b.stages[i]).split (i + 1) := by
  simp [Derived.split, State.derive, List.getD_eq_getElem?_getD, indexed_getElem b h, State.effectiveSplit]

theorem derive_base (s : State) {b : PlanBody} {c o k : Nat} {x : BaseDerived} (hf : b.fields = .base c o k)
    (hx : (s.derive b).base = some x) : x.ceff = max c (s.derive b).demand
      ∧ x.stretched = decide (c < (s.derive b).demand)
      ∧ x.slackSplit = (s.derive b).split k + (c - (s.derive b).demand)
      ∧ x.slackFloor = s.minGreenInto b 50 k := by
  unfold State.derive at hx
  simp only [hf, Option.some.injEq] at hx
  subst hx
  exact ⟨rfl, rfl, rfl, rfl⟩

theorem derive_demand (s : State) (b : PlanBody) :
    (s.derive b).demand = (s.derive b).interstages.sum + (s.derive b).effective.sum := rfl

theorem derive_lengths (s : State) (b : PlanBody) :
    (s.derive b).interstages.length = b.stages.length ∧ (s.derive b).effective.length = b.stages.length := by
  simp [State.derive, PlanBody.indexed]

theorem le_startOffset (s : State) (losing : List GroupIx) (g : GroupIx) : s.redAmber g ≤ s.startOffset losing g
    ∧ ∀ l ∈ losing, ∀ n, s.intergreen l g = some n → n ≤ s.startOffset losing g :=
  ⟨le_latest _ _, fun l hl _ hn => le_latest_of_mem (List.mem_filterMap.2 ⟨l, hl, hn⟩)⟩

theorem startOffset_attained (s : State) (losing : List GroupIx) (g : GroupIx) :
    s.startOffset losing g = s.redAmber g ∨ ∃ l ∈ losing, s.intergreen l g = some (s.startOffset losing g) :=
  (latest_attained _ _).imp id List.mem_filterMap.1

/-- A min green of a group gaining in a stage bounds what the stage's least length is taken from, and one of them or
the value given is that length. -/
theorem minGreenInto_spec (s : State) (b : PlanBody) (a i : Nat) : a ≤ s.minGreenInto b a i
    ∧ (∀ g ∈ b.gainingInto i, s.minGreen g ≤ s.minGreenInto b a i)
    ∧ (s.minGreenInto b a i = a ∨ ∃ g ∈ b.gainingInto i, s.minGreenInto b a i = s.minGreen g) := by
  refine ⟨le_latest _ _, fun g hg => le_latest_of_mem (List.mem_map_of_mem hg), ?_⟩
  refine (latest_attained _ _).imp id fun h => ?_
  obtain ⟨g, hg, e⟩ := List.mem_map.1 h
  exact ⟨g, hg, e.symm⟩

/-- The largest min green joined to a larger value is the larger. -/
theorem minGreenInto_mono (s : State) (b : PlanBody) {a a' : Nat} (h : a ≤ a') (i : Nat) :
    s.minGreenInto b a i ≤ s.minGreenInto b a' i := by
  obtain ⟨le, all, _⟩ := minGreenInto_spec s b a' i
  rcases (minGreenInto_spec s b a i).2.2 with e | ⟨g, hg, e⟩
  · rw [e]
    exact h.trans le
  · rw [e]
    exact all g hg

theorem nominalInterstage_spec (s : State) (b : PlanBody) (i : Nat) :
    (∀ g ∈ b.gainingInto i, s.startOffset (b.losingInto i) g ≤ s.nominalInterstage b i)
    ∧ (s.nominalInterstage b i = 0
      ∨ ∃ g ∈ b.gainingInto i, s.nominalInterstage b i = s.startOffset (b.losingInto i) g) := by
  refine ⟨fun g hg => le_latest_of_mem (List.mem_map_of_mem hg), ?_⟩
  refine (latest_attained _ _).imp id fun h => ?_
  obtain ⟨g, hg, e⟩ := List.mem_map.1 h
  exact ⟨g, hg, e.symm⟩

/-- The nominal position after a stage's green is the sum of what stands before it, with what the slack stage takes
(R65). -/
theorem nominalStart_sum (d : Derived) (x : BaseDerived) (k δ : Nat) (hk : 1 ≤ k) (slack : x.slackSplit = d.split k + δ)
    (n : Nat) (hi : n ≤ d.interstages.length) (he : n ≤ d.effective.length) :
    d.nominalStart x k (n + 1) =
      (d.interstages.take n).sum + (d.effective.take n).sum + if k ≤ n then δ else 0 := by
  induction n with
  | zero => simp [Derived.nominalStart, show ¬k ≤ 0 by omega]
  | succ n ih =>
    have green : d.nominalGreen x k (n + 1) = d.split (n + 1) + if k = n + 1 then δ else 0 := by
      unfold Derived.nominalGreen
      by_cases h : n + 1 = k
      · subst h; simp [slack]
      · simp [h, Ne.symm h]
    have inter : d.interstage (n + 1) = d.interstages[n] := by
      simp [Derived.interstage, List.getD_eq_getElem?_getD, show n < d.interstages.length by omega]
    have split : d.split (n + 1) = d.effective[n] := by
      simp [Derived.split, List.getD_eq_getElem?_getD, show n < d.effective.length by omega]
    rw [Derived.nominalStart, ih (by omega) (by omega), green, inter, split,
      List.sum_take_succ _ _ (by omega), List.sum_take_succ _ _ (by omega)]
    split_ifs <;> omega

/-! ## The slack stage's portion (R68, R72, R73) -/

theorem slackPortion_spec (c : Nat) (x : BaseDerived) (r : Remainder) :
    let portion := slackPortion c x (some r)
    portion.1 + portion.2 ≤ r.amount ∧ portion.1 + portion.2 ≤ c / 8
      ∧ (match r.direction with
        | .lengthen => portion.2 = 0
        | .shorten => portion.1 = 0 ∧ portion.1 + portion.2 ≤ x.slackSplit - x.slackFloor) := by
  obtain ⟨direction, amount⟩ := r
  cases direction
  · refine ⟨?_, ?_, rfl⟩ <;> simp only [slackPortion] <;> omega
  · refine ⟨?_, ?_, rfl, ?_⟩ <;> simp only [slackPortion, shorteningCapacity] <;> omega

theorem remainderAfter_spec (taken : Nat) (r : Remainder) (h : taken ≤ r.amount) :
    match remainderAfter taken (some r) with
      | none => taken = r.amount
      | some q => q.direction = r.direction ∧ q.amount + taken = r.amount ∧ 0 < q.amount := by
  unfold remainderAfter
  dsimp only
  by_cases le : r.amount ≤ taken
  · simp only [if_pos le]
    omega
  · simp only [if_neg le, true_and]
    omega

/-- Settles O19. -/
theorem cycleArithmetic : Obligations.CycleArithmetic := by
  refine ⟨fun s b i h => ?_, fun s b c o k x hf pos le hx => ?_, fun c excess x r => ?_⟩
  · intro before gains loses inter split
    have gaining (g : GroupIx) : g ∈ b.gainingInto (i + 1) ↔ gains g := by
      rw [mem_gainingInto, before_eq] <;> rfl
    have losing (g : GroupIx) : g ∈ b.losingInto (i + 1) ↔ loses g := by
      rw [mem_losingInto, before_eq] <;> rfl
    have hinter : inter = s.nominalInterstage b (i + 1) := derive_interstage s b h
    have hsplit : split = s.minGreenInto b (b.stages[i]).split (i + 1) := derive_split s b h
    obtain ⟨above, attained⟩ := nominalInterstage_spec s b (i + 1)
    obtain ⟨ge, all, some⟩ := minGreenInto_spec s b (b.stages[i]).split (i + 1)
    rw [← hinter] at above attained
    rw [← hsplit] at ge all some
    refine ⟨fun g hg => ?_, ?_, ge, fun g hg => all g ((gaining g).2 hg), ?_, fun c o x hf hx => ?_⟩
    · have offset := above g ((gaining g).2 hg)
      obtain ⟨red, each⟩ := le_startOffset s (b.losingInto (i + 1)) g
      exact ⟨red.trans offset, fun l n hl hn => (each l ((losing l).2 hl) n hn).trans offset⟩
    · refine attained.imp id fun ⟨g, hg, e⟩ => ⟨g, (gaining g).1 hg, ?_⟩
      rw [e]
      exact (startOffset_attained s _ g).imp id fun ⟨l, hl, e⟩ => ⟨l, (losing l).1 hl, e⟩
    · exact some.imp id fun ⟨g, hg, e⟩ => ⟨g, (gaining g).1 hg, e⟩
    · obtain ⟨-, -, slack, floor⟩ := derive_base s hf hx
      obtain ⟨ge', all', some'⟩ := minGreenInto_spec s b 50 (i + 1)
      rw [← floor] at ge' all' some'
      refine ⟨slack, ge', fun long => ?_, fun g hg => all' g ((gaining g).2 hg),
        some'.imp id fun ⟨g, hg, e⟩ => ⟨g, (gaining g).1 hg, e⟩⟩
      have := minGreenInto_mono s b long (i + 1)
      rw [← hsplit, ← floor] at this
      exact this.trans (slack ▸ Nat.le_add_right _ _)
  · obtain ⟨ceff, stretched, slack, -⟩ := derive_base s hf hx
    obtain ⟨li, le'⟩ := derive_lengths s b
    refine ⟨derive_demand s b, ceff, by simp [stretched], ?_⟩
    rw [nominalStart_sum _ x k _ pos slack b.stages.length li.ge le'.ge, if_pos le, ceff, derive_demand,
      List.take_of_length_le li.le, List.take_of_length_le le'.le]
    omega
  · intro portion taken
    obtain ⟨amount, eighth, direction⟩ := slackPortion_spec c x r
    exact ⟨amount, eighth, direction, remainderAfter_spec taken r amount, le_max_left _ _⟩

end Sys2Proof.Machine
end

section
/-! The writes of the preemption table (R85), and the commands of supervision (R147, R160 to R162). -/

namespace Sys2Proof.Machine

/-! ## The preemption table (R85) -/

theorem entryBusy_iff (s : State) (e : EntryIx) : s.entryBusy e = true ↔ e ∈ s.engaged := by
  simp [State.entryBusy, State.inChain, State.isWaiting, State.engaged, List.any_eq_true, Option.any_eq_true,
    List.mem_filterMap]

theorem lengthBusy_iff (s : State) (n : Nat) : s.lengthBusy n = true ↔ ∃ e ∈ s.engaged, n < number e := by
  simp [State.lengthBusy, entryBusy_iff, and_comm]

theorem exec_writeRecordPreemptEntry {s : State} (listens : s.Listens) (lock : s.link.lock ≠ .all) (e : EntryIx)
    (f : EntryFields) : exec (.writeRecordPreemptEntry (number e) f) s =
      .next (if s.entryBusy e then s.refuse .busy else s.placeEntry e f) := by
  rw [exec_of_listens listens rfl, locked_eq_false lock, indexOf_number]
  rfl

theorem exec_updateFieldsPreemptEntry_absent {s : State} (listens : s.Listens) (lock : s.link.lock ≠ .all)
    {e : EntryIx} (absent : (s.entry e).config = none) (u : EntryChanges) :
    exec (.updateFieldsPreemptEntry (number e) u) s = .next (s.refuse .absent) := by
  rw [exec_of_listens listens rfl, locked_eq_false lock, indexOf_number]
  simp [absent]

theorem exec_updateFieldsPreemptEntry {s : State} (listens : s.Listens) (lock : s.link.lock ≠ .all)
    {e : EntryIx} {c : EntryConfig} (held : (s.entry e).config = some c) (u : EntryChanges) :
    exec (.updateFieldsPreemptEntry (number e) u) s =
      .next (if s.entryBusy e then s.refuse .busy else match u.apply c.toFields with
        | none => s.refuse .range
        | some f => s.placeEntry e f) := by
  rw [exec_of_listens listens rfl, locked_eq_false lock, indexOf_number]
  simp only [held]
  rfl

theorem exec_retireRecordPreemptEntry {s : State} (listens : s.Listens) (lock : s.link.lock ≠ .all) (e : EntryIx) :
    exec (.retireRecordPreemptEntry (number e)) s =
      .next (if (s.entry e).config = none then s.refuse .absent else if s.entryBusy e then s.refuse .busy
        else (s.setEntry e { config := none, stuck := false, asserted := false }).accept .empty) := by
  rw [exec_of_listens listens rfl, locked_eq_false lock, indexOf_number]
  simp

theorem exec_writeRecordPreemptTable {s : State} (listens : s.Listens) (lock : s.link.lock ≠ .all) (n : Nat) :
    exec (.writeRecordPreemptTable n) s =
      .next (if 8 < n then s.refuse .range else if s.lengthBusy n then s.refuse .busy
        else (s.setPre { s.pre with length := n }).accept .empty) := by
  rw [exec_of_listens listens rfl, locked_eq_false lock]
  rfl

theorem placeEntry_of_failing {s : State} {e : EntryIx} {f : EntryFields} (h : f.check e = none) :
    s.placeEntry e f = s.refuse .range := by
  simp [State.placeEntry, h]

theorem placeEntry_of_passing {s : State} {e : EntryIx} {f : EntryFields} {c : Option EntryConfig}
    (h : f.check e = some c) : s.placeEntry e f = (s.setEntry e (s.storedEntry e c)).accept .empty := by
  simp [State.placeEntry, h]

theorem storedEntry_none (s : State) (e : EntryIx) :
    s.storedEntry e none = { config := none, stuck := false, asserted := false } := by
  simp [State.storedEntry, sourceOf]

/-- The request state of an entry that takes its fields, by the change of its source (R85). -/
def assertedAfter (held : Option Source) (source : Source) (asserted line : Bool) : Bool :=
  match held, source with
  | some .line, .line => asserted
  | _, .line => line
  | some .line, .command => false
  | _, .command => asserted

theorem storedEntry_some (s : State) (e : EntryIx) (c : EntryConfig) : s.storedEntry e (some c) =
    { config := some c, stuck := (s.entry e).stuck,
      asserted := assertedAfter ((s.entry e).config.map (·.source)) c.source (s.entry e).asserted
        (s.lineAsserted e) } := by
  unfold State.storedEntry sourceOf assertedAfter
  dsimp only [Option.map_some]
  cases (s.entry e).config.map (·.source) with
  | none => cases c.source <;> rfl
  | some src => cases src <;> cases c.source <;> rfl

/-- Check 5 of R85. -/
theorem entryCheck_iff (e : EntryIx) (f : EntryFields) (r : Option EntryConfig) : f.check e = some r ↔
    ((∀ p, f.plan = some p → 1 ≤ p ∧ p ≤ 16) ∧ (∀ n, f.priority = some n → 1 ≤ n ∧ n ≤ 4)
      ∧ (∀ a, f.source = some a → a = .named .command ∨ (a = .named .line ∧ number e ≤ 4))
      ∧ match r with
        | some c => f.present = true ∧ f.plan = some (number c.plan) ∧ f.priority = some c.priority
            ∧ f.source = some (.named c.source)
        | none => f.present = false) := by
  obtain ⟨present, plan, priority, source⟩ := f
  have sourceOk : (source.all fun a =>
      match a with
      | .named .line => decide (e.val < 4)
      | .named .command => true
      | .other => false) = true ↔
        ∀ a, source = some a → a = .named .command ∨ (a = .named .line ∧ number e ≤ 4) := by
    rw [Option.all_eq_true]
    refine forall_congr' fun a => imp_congr_right fun _ => ?_
    cases a with
    | other => simp
    | named x =>
      cases x with
      | line => simp [number]
      | command => simp
  have fields : (if present then
      (match plan.bind (indexOf 16), priority, source.bind Arg.value with
        | some p, some n, some src => some (some { plan := p, priority := n, source := src })
        | _, _, _ => none)
      else some none) = some r ↔ match r with
        | some c => present = true ∧ plan = some (number c.plan) ∧ priority = some c.priority
            ∧ source = some (.named c.source)
        | none => present = false := by
    have named (x : Source) : source.bind Arg.value = some x ↔ source = some (.named x) := by
      cases source with
      | none => simp
      | some a => cases a <;> simp [Arg.value]
    have index (p : PlanIx) : plan.bind (indexOf 16) = some p ↔ plan = some (number p) := by
      simp [Option.bind_eq_some_iff, indexOf_eq_some]
    cases present with
    | false => cases r <;> simp
    | true =>
      simp only [if_true]
      split
      · rename_i p n src hp hs
        cases r with
        | none => simp
        | some c =>
          simp only [Option.some.injEq, true_and, ← named, ← index, hp, hs]
          cases c
          simp [EntryConfig.mk.injEq]
      · rename_i none
        cases r with
        | none => simp
        | some c =>
          refine ⟨nofun, fun ⟨_, hp, hn, hs⟩ => (none c.plan c.priority c.source ((index _).2 hp) hn ((named _).2 hs)).elim⟩
  unfold EntryFields.check
  rw [← sourceOk, ← fields]
  simp only [Option.ite_none_right_eq_some, Bool.and_eq_true, Option.all_eq_true, within_iff, and_assoc]
    <;> exact Iff.rfl

/-- Settles O20. -/
theorem entryWritesStore : Obligations.EntryWritesStore := by
  refine ⟨fun s e listens lock => ?_, entryCheck_iff⟩
  intro write update retire emptied
  have written (f : EntryFields) : exec (write f) s = _ := exec_writeRecordPreemptEntry listens lock e f
  have updated (u : EntryChanges) {d : EntryConfig} (held : (s.entry e).config = some d) : exec (update u) s = _ :=
    exec_updateFieldsPreemptEntry listens lock held u
  have retired : exec retire s = _ := exec_retireRecordPreemptEntry listens lock e
  refine ⟨fun free => ?_, fun absent => ⟨fun u => ?_, ?_⟩, fun engaged => ?_, fun n le all => ?_, fun n lt => ?_,
    fun n out => ⟨fun f => ?_, fun u => ?_, ?_⟩⟩
  · have calm : s.entryBusy e = false := by rwa [← Bool.not_eq_true, entryBusy_iff]
    simp only [calm, Bool.false_eq_true, if_false] at written updated retired
    have stored (c : EntryConfig) : ((s.setEntry e (s.storedEntry e (some c))).accept .empty).entry e = _ :=
      (State.setEntry_entry s e e _).trans ((if_pos rfl).trans (storedEntry_some s e c))
    refine ⟨fun f c h => ⟨(s.setEntry e (s.storedEntry e (some c))).accept .empty,
      by rw [written, placeEntry_of_passing h], fun u d held apply => ?_, by rw [stored], by rw [stored],
      by rw [stored]; rfl, fun i ne => ?_, rfl, rfl⟩, fun f h => ⟨?_, fun u d held apply => ?_⟩, fun f h => ⟨?_, fun u d held apply => ?_⟩,
      fun u held absent => ?_, fun held => ?_⟩
    · rw [updated u held, apply]
      simp only [placeEntry_of_passing h]
    · exact (State.setEntry_entry s e i _).trans (if_neg ne)
    · rw [written, placeEntry_of_passing h, storedEntry_none]
    · rw [updated u held, apply]
      simp only [placeEntry_of_passing h, storedEntry_none]
      rfl
    · rw [written, placeEntry_of_failing h]
    · rw [updated u held, apply]
      simp only [placeEntry_of_failing h]
    · obtain ⟨d, hd⟩ := Option.ne_none_iff_exists'.1 held
      rw [updated u hd]
      simp [EntryChanges.apply, absent, Change.apply]
    · rw [retired, if_neg held]
  · exact exec_updateFieldsPreemptEntry_absent listens lock absent u
  · rw [retired, if_pos absent]
  · have busy : s.entryBusy e = true := (entryBusy_iff s e).2 engaged
    simp only [busy, if_true] at written updated retired
    refine ⟨written, fun held => ⟨fun u => ?_, by rw [retired, if_neg held]⟩, fun n le lt => ?_⟩
    · obtain ⟨d, hd⟩ := Option.ne_none_iff_exists'.1 held
      exact updated u hd
    · rw [exec_writeRecordPreemptTable listens lock, if_neg (by omega), if_pos ((lengthBusy_iff s n).2 ⟨e, engaged, lt⟩)]
  · have calm : ¬s.lengthBusy n = true := fun h => by
      obtain ⟨i, mem, lt⟩ := (lengthBusy_iff s n).1 h
      exact absurd (all i mem) (by omega)
    rw [exec_writeRecordPreemptTable listens lock, if_neg (by omega), if_neg calm]
  · rw [exec_writeRecordPreemptTable listens lock, if_pos lt]
  all_goals
    rw [exec_of_listens listens rfl, locked_eq_false lock, indexOf_outside out]
    rfl

/-! ## Each circuit of a list in turn -/

/-- An order that rewrites one circuit record and nothing else, given to each circuit of a list. -/
theorem foldl_rewrites {f : State → CircuitIx → State} {r : Circuit → Circuit}
    (h : ∀ t c, f t c = t.setCircuit c (r (t.circuit c))) (l : List CircuitIx) (nodup : l.Nodup) (s : State) :
    (∃ cs, l.foldl f s = { s with circuits := cs })
      ∧ ∀ d, (l.foldl f s).circuit d = if d ∈ l then r (s.circuit d) else s.circuit d := by
  induction l generalizing s with
  | nil => exact ⟨⟨_, rfl⟩, fun d => by simp⟩
  | cons c l ih =>
    rw [List.nodup_cons] at nodup
    obtain ⟨⟨cs, e⟩, read⟩ := ih nodup.2 (f s c)
    rw [List.foldl_cons]
    refine ⟨⟨cs, by rw [e, h]; rfl⟩, fun d => ?_⟩
    rw [read, h, State.setCircuit_circuit]
    by_cases eq : d = c
    · subst eq
      simp [nodup.1]
    · simp [eq]

theorem mem_filter_finRange {n : Nat} {p : Fin n → Bool} {i : Fin n} : i ∈ (List.finRange n).filter p ↔ p i = true := by
  simp

/-! ## LEARN_LAMP and LEARN_CABLE (R147, R162) -/

/-- Settles O22. -/
theorem learningBegins : Obligations.LearningBegins := by
  refine ⟨fun s l listens lock => ⟨fun c h => ?_, fun c h => ?_, fun ⟨c, h⟩ => ?_, fun none => ?_⟩,
    fun s listens lock => ⟨fun c h => ?_, fun c h => ?_, fun ⟨c, h⟩ => ?_, fun none => ?_⟩,
    fun s n l listens => ⟨fun lock => ?_, fun lock => ⟨fun out => ?_, ?_, ?_⟩⟩⟩
  · rw [exec_of_listens listens rfl, locked_eq_false lock, indexOf_number]
    simp only [h]
    rfl
  · rw [exec_of_listens listens rfl, locked_eq_false lock, indexOf_number]
    simp only [h]
    rfl
  · have nonempty : s.assignedCircuits ≠ [] := List.ne_nil_of_mem (mem_filter_finRange.2 h)
    obtain ⟨⟨cs, e⟩, read⟩ := foldl_rewrites (f := State.beginTraining l)
      (r := fun k => { k with lamp := { k.lamp with training := some (Training.begun l) } }) (fun _ _ => rfl)
      s.assignedCircuits ((List.nodup_finRange 48).filter _) s
    refine ⟨(s.assignedCircuits.foldl (State.beginTraining l) s).accept (.word s.assignedCircuits.length), ?_, ?_,
      fun d => ?_, by rw [e]; rfl⟩
    · rw [exec_of_listens listens rfl, locked_eq_false lock]
      simp [nonempty]
    · rw [List.countP_eq_length_filter]
      rfl
    · exact (read d).trans (if_congr mem_filter_finRange rfl rfl)
  · rw [exec_of_listens listens rfl, locked_eq_false lock]
    simp [State.assignedCircuits, none]
  · rw [exec_of_listens listens rfl, locked_eq_false lock, indexOf_number]
    exact congrArg _ (if_pos h)
  · rw [exec_of_listens listens rfl, locked_eq_false lock, indexOf_number]
    have calm : s.learnable c = false := h
    simp only [calm]
    rfl
  · have nonempty : s.learnableCircuits ≠ [] := List.ne_nil_of_mem (mem_filter_finRange.2 h)
    obtain ⟨⟨cs, e⟩, read⟩ := foldl_rewrites (f := State.beginLearning)
      (r := fun k => { k with cable := { k.cable with learning := some { samples := 0, leakageSum := 0, chargeSum := 0 } } })
      (fun _ _ => rfl) s.learnableCircuits ((List.nodup_finRange 48).filter _) s
    refine ⟨(s.learnableCircuits.foldl State.beginLearning s).accept (.word s.learnableCircuits.length), ?_, ?_,
      fun d => ?_, by rw [e]; rfl⟩
    · rw [exec_of_listens listens rfl, locked_eq_false lock]
      simp [nonempty]
    · rw [List.countP_eq_length_filter]
      rfl
    · exact (read d).trans (if_congr mem_filter_finRange rfl rfl)
  · rw [exec_of_listens listens rfl, locked_eq_false lock]
    have empty : s.learnableCircuits = [] := List.filter_eq_nil_iff.2 fun c _ => by
      have calm : s.learnable c = false := none c
      simp [calm]
    simp [empty]
  · have locked : s.locked = true := by simp [State.locked, lock]
    refine ⟨?_, ?_, ?_, ?_⟩
    all_goals
      rw [exec_of_listens listens rfl, locked]
      rfl
  · refine ⟨?_, ?_⟩
    all_goals
      rw [exec_of_listens listens rfl, locked_eq_false lock, indexOf_outside out]
      rfl
  · rw [exec_of_listens listens rfl, locked_eq_false lock]
    cases indexOf 48 n <;> rfl
  · rw [exec_of_listens listens rfl, locked_eq_false lock]
    rfl

/-! ## ACK_CABLE (R160, R161) -/

/-- The attention set after a kind is raised (R181). -/
theorem raise_holds (s : State) (a k : Attention) : (s.raise a).holds k = (s.holds k || k == a) := by
  have bit : (a.bit == k.bit) = (k == a) := by cases a <;> cases k <;> rfl
  rw [← bit]
  simp [State.holds, BitVec.getLsbD_twoPow, a.bit_lt, beq_eq_decide]

/-- An unacknowledged record in ALARM, acknowledged: with its clear run at 3 it leaves ALARM (R160, R161). -/
def CablePart.acked (k : CablePart) : CablePart :=
  if k.count = 3 then k.outOfAlarm else { k with acknowledged := true }

theorem acknowledge_eq {s : State} {c : CircuitIx} (h : (s.circuit c).cable.state.isAlarm = true) :
    s.acknowledge c = if (s.circuit c).cable.count = 3 then (s.setCable c (s.circuit c).cable.acked).raise .cableAlarm
      else s.setCable c (s.circuit c).cable.acked := by
  unfold State.acknowledge State.setCableLeaving CablePart.acked CablePart.leavesAlarm
  by_cases n : (s.circuit c).cable.count = 3
  · simp only [h, n, if_true, Bool.and_self, beq_self_eq_true]
    rfl
  · simp [h, n]

/-- The acknowledgement of each of a list of unacknowledged records in ALARM. -/
theorem foldl_acknowledge (l : List CircuitIx) (nodup : l.Nodup) (s : State)
    (alarm : ∀ c ∈ l, (s.circuit c).cable.state.isAlarm = true) :
    (∃ cs a, l.foldl State.acknowledge s = { s with circuits := cs, link := { s.link with attention := a } })
      ∧ (∀ d, (l.foldl State.acknowledge s).circuit d =
          if d ∈ l then { s.circuit d with cable := (s.circuit d).cable.acked } else s.circuit d)
      ∧ ∀ k, (l.foldl State.acknowledge s).holds k =
          (s.holds k || (k == .cableAlarm && l.any fun c => (s.circuit c).cable.count == 3)) := by
  induction l generalizing s with
  | nil => exact ⟨⟨_, _, rfl⟩, fun d => by simp, fun k => by simp⟩
  | cons c l ih =>
    rw [List.nodup_cons] at nodup
    have step := acknowledge_eq (alarm c (List.mem_cons_self ..))
    have whole : ∃ cs a, s.acknowledge c = { s with circuits := cs, link := { s.link with attention := a } } := by
      rw [step]
      split <;> exact ⟨_, _, rfl⟩
    have read (d : CircuitIx) : (s.acknowledge c).circuit d =
        if d = c then { s.circuit d with cable := (s.circuit d).cable.acked } else s.circuit d := by
      have : (s.acknowledge c).circuit d = (s.setCable c (s.circuit c).cable.acked).circuit d := by
        rw [step]
        split <;> rfl
      rw [this, State.setCable_circuit]
      split_ifs with e
      · rw [e]
      · rfl
    have held (k : Attention) : (s.acknowledge c).holds k =
        (s.holds k || (k == .cableAlarm && (s.circuit c).cable.count == 3)) := by
      rw [step]
      by_cases n : (s.circuit c).cable.count = 3
      · rw [if_pos n, raise_holds, n]
        simp [State.holds]
      · rw [if_neg n]
        simp [State.holds, n]
    have other (d : CircuitIx) (h : d ∈ l) : (s.acknowledge c).circuit d = s.circuit d := by
      rw [read, if_neg fun e : d = c => nodup.1 (e ▸ h)]
    obtain ⟨⟨cs, a, e⟩, reads, holds⟩ := ih nodup.2 (s.acknowledge c) fun d h => by
      rw [other d h]
      exact alarm d (List.mem_cons_of_mem _ h)
    obtain ⟨cs', a', e'⟩ := whole
    rw [List.foldl_cons]
    refine ⟨⟨cs, a, by rw [e, e']⟩, fun d => ?_, fun k => ?_⟩
    · rw [reads]
      by_cases h : d ∈ l
      · rw [if_pos h, if_pos (List.mem_cons_of_mem _ h), other d h]
      · rw [if_neg h, read]
        simp [List.mem_cons, h]
    · have same : (l.any fun c' => ((s.acknowledge c).circuit c').cable.count == 3)
          = l.any fun c' => (s.circuit c').cable.count == 3 :=
        Bool.eq_iff_iff.2 (by
          simp only [List.any_eq_true]
          exact exists_congr fun d => and_congr_right fun h => by rw [other d h])
      rw [holds, held, same, List.any_cons, Bool.or_assoc, Bool.and_or_distrib_left]

/-- Settles O23. -/
theorem acknowledgementLeavesAlarm : Obligations.AcknowledgementLeavesAlarm := by
  intro s listens after
  have afterAcked (k : CablePart) (h : k.state.isAlarm = true) (u : k.acknowledged = false) : after k = k.acked := by
    simp only [after, h, u, Bool.not_false, Bool.and_self, if_true]
    rfl
  have afterOther (k : CablePart) (h : (k.state.isAlarm && !k.acknowledged) = false) : after k = k := by
    simp only [after, h, Bool.false_eq_true, if_false]
  refine ⟨fun n out => ?_, fun c alarm => ?_, fun c calm => ?_, ?_⟩
  · rw [exec_of_listens listens rfl, indexOf_outside out]
  · by_cases ack : (s.circuit c).cable.acknowledged = true
    · refine ⟨s.accept .empty, ?_, rfl, ?_, fun _ _ => rfl, ?_, fun _ _ => rfl, rfl⟩
      · rw [exec_of_listens listens rfl, indexOf_number]
        simp [alarm, ack]
      · rw [afterOther _ (by simp [ack])]
        rfl
      · simp [ack]
        rfl
    · have unack : (s.circuit c).cable.acknowledged = false := by simpa using ack
      obtain ⟨⟨cs, a, e⟩, read, holds⟩ := foldl_acknowledge [c] (List.nodup_singleton c) s (by simpa using alarm)
      refine ⟨(s.acknowledge c).accept .empty, ?_, rfl, ?_, fun d ne => ?_, ?_, fun k ne => ?_, ?_⟩
      · rw [exec_of_listens listens rfl, indexOf_number]
        simp [alarm, ack]
      · rw [afterAcked _ alarm unack]
        exact (read c).trans (if_pos (List.mem_singleton_self c))
      · exact (read d).trans (if_neg (by simpa using ne))
      · exact (holds _).trans (by simp [unack])
      · exact (holds k).trans (by simp [ne])
      · have : s.acknowledge c = _ := e
        rw [this]
        rfl
  · rw [exec_of_listens listens rfl, indexOf_number]
    simp [calm]
  · obtain ⟨⟨cs, a, e⟩, read, holds⟩ := foldl_acknowledge s.unacknowledged ((List.nodup_finRange 48).filter _) s
      fun c h => (Bool.and_eq_true_iff.1 (mem_filter_finRange.1 h)).1
    refine ⟨(s.unacknowledged.foldl State.acknowledge s).accept (.word s.unacknowledged.length), ?_, ?_, fun c => ?_,
      ?_, fun k ne => ?_, by rw [e]; rfl⟩
    · exact exec_of_listens (i := .ackCableAll) listens rfl
    · rw [List.countP_eq_length_filter]
      rfl
    · refine (read c).trans ?_
      split_ifs with h
      · obtain ⟨alarm, unack⟩ := Bool.and_eq_true_iff.1 (mem_filter_finRange.1 h)
        rw [afterAcked _ alarm (by simpa using unack)]
      · rw [afterOther _ (by simpa using mt mem_filter_finRange.2 h)]
    · refine (holds _).trans ?_
      simp [State.unacknowledged, List.any_filter]
    · exact (holds k).trans (by simp [ne])

end Sys2Proof.Machine
end

section
/-! The all-off (R16) and the changes of junction state that leave the supplied states (R170, R171). -/

namespace Sys2Proof.Machine

/-! ## SHOW_DARK with every drive off (R15) -/

/-- `t` is `s` with groups darkened while nothing is lit: beside the groups only the flash timebase and the record of
the green starts move. -/
def State.Darkened (s t : State) : Prop :=
  t = { s with groups := t.groups, output := { s.output with flash := t.output.flash },
               seq := { s.seq with greenStarts := t.seq.greenStarts } }
    ∧ ∀ g, t.seq.greenStarts.get g = s.seq.greenStarts.get g ∨ t.seq.greenStarts.get g = none

/-- The group record after SHOW_DARK (R15, R16). -/
def Group.Darkened (r r' : Group) (now : Instant) : Prop :=
  r'.config = r.config ∧ r'.aspect = .dark ∧ r'.awaited = none
    ∧ r'.greenOff = if r.aspect = .green then now else r.greenOff

theorem Darkened_refl (s : State) : s.Darkened s := ⟨rfl, fun _ => .inl rfl⟩

theorem Darkened_trans {s t u : State} (h : s.Darkened t) (h' : t.Darkened u) : s.Darkened u := by
  obtain ⟨e, greens⟩ := h
  obtain ⟨e', greens'⟩ := h'
  refine ⟨by rw [e', e], fun g => ?_⟩
  rcases greens' g with h' | h'
  · rw [h']
    exact greens g
  · exact .inr h'

theorem orderDrive_off {s : State} {c : CircuitIx} (h : (s.circuit c).drive.on = false) : s.orderDrive c false = s := by
  simp [State.orderDrive, h]

theorem orderDrives_dark {s : State} (off : ∀ c, (s.circuit c).drive.on = false) (k : GroupConfig) :
    s.orderDrives k .dark = s := by
  unfold State.orderDrives
  dsimp only
  generalize k.circuits = l
  induction l with
  | nil => rfl
  | cons c l ih => rw [List.foldl_cons, show k.lights .dark s.flashOn c = false from rfl, orderDrive_off (off c), ih]

theorem guardJudge_of_empty {s : State} (h : s.guard = []) : s.guardJudge = s := by
  unfold State.guardJudge
  rw [h]
  change s.setGuard [] = s
  rw [← h]
  rfl

theorem setAspect_dark {s : State} (guard : s.guard = []) (off : ∀ c, (s.circuit c).drive.on = false) (g : GroupIx) :
    s.setAspect g .dark = { s with
      groups := s.groups.set g ((s.group g).entering .dark s.now)
      output := { s.output with flash := s.flashAfter g .dark }
      seq := { s.seq with greenStarts := s.seq.greenStarts.set g none } } := by
  unfold State.setAspect
  dsimp only
  rw [if_neg (by decide)]
  have dark (t : State) (ht : t.circuits = s.circuits) (k : GroupConfig) : t.orderDrives k .dark = t :=
    orderDrives_dark (fun c => (congrArg (fun cs => (cs.get c).drive.on) ht).trans (off c)) k
  split
  · refine (congrArg State.guardJudge (dark _ (by rfl) _)).trans ?_
    rw [guardJudge_of_empty (by exact guard)]
    rfl
  · rw [guardJudge_of_empty (by exact guard)]
    rfl

theorem showDark_spec {s : State} (guard : s.guard = []) (off : ∀ c, (s.circuit c).drive.on = false) (g : GroupIx) :
    s.Darkened (s.showDark g) ∧ (∀ h, h ≠ g → (s.showDark g).group h = s.group h)
      ∧ ((s.group g).config ≠ none → (s.group g).Darkened ((s.showDark g).group g) s.now) := by
  unfold State.showDark
  cases hk : (s.group g).config with
  | none => exact ⟨Darkened_refl s, fun _ _ => rfl, fun h => absurd rfl h⟩
  | some k =>
    dsimp only
    by_cases dark : (s.group g).aspect = .dark
    · rw [if_pos dark]
      refine ⟨⟨rfl, fun _ => .inl rfl⟩, fun h ne => (State.setGroup_group s g h _).trans (if_neg ne), fun _ => ?_⟩
      rw [State.setGroup_group_self]
      exact ⟨rfl, dark, rfl, by simp [dark]⟩
    · rw [if_neg dark, setAspect_dark (by exact guard) (by exact off)]
      refine ⟨⟨rfl, fun h => ?_⟩, fun h ne => ?_, fun _ => ?_⟩
      · simp only [State.setGroup_seq, Table.get_set]
        split_ifs
        · exact .inr rfl
        · exact .inl rfl
      · exact (Table.get_set_ne _ _ ne).trans (Table.get_set_ne _ _ ne)
      · have own : (({ s.setGroup g { s.group g with awaited := none } with
            groups := (s.setGroup g { s.group g with awaited := none }).groups.set g
              (((s.setGroup g { s.group g with awaited := none }).group g).entering .dark s.now) } : State).group g)
            = ({ s.group g with awaited := none } : Group).entering .dark s.now := by
          simp [State.group]
        refine ⟨?_, ?_, ?_, ?_⟩
        all_goals refine (congrArg _ own).trans ?_
        · rfl
        · rfl
        · rfl
        · simp [Group.entering]

/-- SHOW_DARK given to each group of a list while nothing is lit. -/
theorem each_showDark_spec (l : List GroupIx) {s : State} (guard : s.guard = [])
    (off : ∀ c, (s.circuit c).drive.on = false) :
    s.Darkened (s.each State.showDark l)
      ∧ (∀ h, h ∉ l → (s.each State.showDark l).group h = s.group h)
      ∧ ∀ h ∈ l, (s.group h).config ≠ none → (s.group h).Darkened ((s.each State.showDark l).group h) s.now := by
  induction l generalizing s with
  | nil => exact ⟨Darkened_refl s, fun _ _ => rfl, fun _ h => (nomatch h)⟩
  | cons g l ih =>
    obtain ⟨first, others, own⟩ := showDark_spec guard off g
    have guard' : (s.showDark g).guard = [] := by rw [first.1]; exact guard
    have off' : ∀ c, ((s.showDark g).circuit c).drive.on = false := by rw [first.1]; exact off
    have now' : (s.showDark g).now = s.now := by rw [first.1]
    obtain ⟨rest, left, dark⟩ := ih guard' off'
    refine ⟨Darkened_trans first rest, fun h nmem => ?_, fun h mem present => ?_⟩
    · rw [List.mem_cons, not_or] at nmem
      exact (left h nmem.2).trans (others h nmem.1)
    · by_cases eq : h = g
      · subst eq
        have mine := own present
        by_cases again : h ∈ l
        · obtain ⟨config, aspect, awaited, greenOff⟩ := dark h again (by rw [mine.1]; exact present)
          refine ⟨config.trans mine.1, aspect, awaited, greenOff.trans ?_⟩
          rw [mine.2.1, if_neg (by decide)]
          exact mine.2.2.2
        · rw [show s.each State.showDark (h :: l) = (s.showDark h).each State.showDark l from rfl, left h again]
          exact mine
      · have same := others h eq
        have := dark h ((List.mem_cons.1 mem).resolve_left eq) (by rw [same]; exact present)
        rw [same, now'] at this
        exact this

/-! ## The all-off (R16) -/

theorem mem_presentGroups (s : State) (g : GroupIx) : g ∈ s.presentGroups ↔ (s.group g).config ≠ none := by
  simp [State.presentGroups, State.present, Option.isSome_iff_ne_none]

/-- The state of an all-off before the groups are given SHOW_DARK. -/
def State.unlit (w : State) (now : Instant) : State :=
  { w.setGuard [] with groups := (w.setGuard []).groups.map (Group.offAt now) }

theorem allOff_eq (s : State) :
    s.allOff = (s.safeOff.unlit s.now).each State.showDark (s.safeOff.unlit s.now).presentGroups := rfl

/-- The all-off: the fall of SAFE_ENABLE, the guard emptied, and every group dark from now. -/
theorem allOff_spec (s : State) :
    s.allOff = { s with
        groups := s.allOff.groups, circuits := s.safeOff.circuits, channel := s.safeOff.channel,
        output := { s.output with safeEnable := false, flash := s.allOff.output.flash }, guard := [],
        seq := { s.seq with greenStarts := s.allOff.seq.greenStarts }, sup := { s.sup with roundOffer := none } }
      ∧ (∀ g, s.allOff.seq.greenStarts.get g = s.seq.greenStarts.get g ∨ s.allOff.seq.greenStarts.get g = none)
      ∧ ∀ g, (s.allOff.group g).config = (s.group g).config ∧ (s.allOff.group g).greenOff = s.now
        ∧ ((s.group g).config ≠ none → (s.allOff.group g).aspect = .dark ∧ (s.allOff.group g).awaited = none)
        ∧ ((s.group g).config = none → s.allOff.group g = { s.group g with greenOff := s.now }) := by
  obtain ⟨w, hw⟩ : ∃ w : State, w = s.safeOff := ⟨_, rfl⟩
  have spec : w = { s with
      channel := w.channel, circuits := w.circuits, output := { s.output with safeEnable := false },
      sup := { s.sup with roundOffer := none } } := by rw [hw]; exact safeOff_spec s
  have off : ∀ c, (w.circuit c).drive.on = false := fun c => by rw [hw]; exact (safeOff_circuit s c).1
  have e := allOff_eq s
  rw [← hw] at e ⊢
  obtain ⟨t, ht⟩ : ∃ t : State, t = w.unlit s.now := ⟨_, rfl⟩
  rw [← ht] at e
  have now : t.now = s.now := by rw [ht, spec]; rfl
  have seq : t.seq = s.seq := by rw [ht, spec]; rfl
  have guard : t.guard = [] := by rw [ht]; rfl
  have group (g : GroupIx) : t.group g = { s.group g with greenOff := s.now } := by
    rw [ht, spec]
    exact Table.get_map ..
  obtain ⟨⟨whole, greens⟩, left, dark⟩ := each_showDark_spec t.presentGroups guard
    (fun c => by rw [ht]; exact off c)
  rw [← e] at whole greens left dark
  refine ⟨?_, fun g => by rw [← seq]; exact greens g, fun g => ?_⟩
  · refine whole.trans ?_
    have tw : t = { s with
        groups := s.groups.map (Group.offAt s.now), circuits := w.circuits, channel := w.channel, guard := [],
        output := { s.output with safeEnable := false }, sup := { s.sup with roundOffer := none } } := by
      rw [ht]
      conv_lhs => rw [spec]
      rfl
    generalize s.allOff = v
    rw [tw]
  · by_cases present : (t.group g).config = none
    · have absent : (s.group g).config = none := by rw [group] at present; exact present
      have same : s.allOff.group g = t.group g := left g fun h => (mem_presentGroups t g).1 h present
      rw [same, group]
      exact ⟨rfl, rfl, fun h => absurd absent h, fun _ => rfl⟩
    · obtain ⟨config, aspect, awaited, greenOff⟩ := dark g ((mem_presentGroups t g).2 present) present
      have held : (s.group g).config ≠ none := by rw [group] at present; exact present
      rw [group] at config greenOff
      refine ⟨config, ?_, fun _ => ⟨aspect, awaited⟩, fun h => absurd h held⟩
      rw [greenOff, now]
      split <;> rfl

end Sys2Proof.Machine
end

section
/-! The end of a step (log entry 6), the selection of plans and the day schedule (R79, R80, R105 to R114). -/

namespace Sys2Proof.Machine

/-! ## The end of a step -/

/-- With no group found LOST the end of a step renews the offer and arbitrates (R122, R157). -/
theorem settle_of_none (s : State) {u : State} (h : ∀ g : GroupIx, u.redLost g = false) :
    s.settle u = u.renewOffer.arbitrate := by
  unfold State.settle
  rw [superviseReds_of_none u s h]

theorem settle_ends (s u : State) : u.Ends (s.settle u) :=
  ⟨settle_still s u, fun h => by
    rw [settle_of_none s h]
    exact ⟨rfl, (arbitrate_unarbitrated _).trans (renewOffer_unarbitrated u)⟩⟩

/-! ## Plans selected (R79, R80) -/

theorem Plan.isBase_iff (r : Plan) : r.isBase = true ↔ r.cls = some .base := by
  unfold Plan.isBase
  exact beq_iff_eq

theorem selectBarred_iff (s : State) : s.selectBarred = true ↔ s.Barred := by
  simp [State.selectBarred, or_assoc]

theorem selectable_iff (s : State) (p : PlanIx) : s.selectable p = true ↔ s.Acceptable p := by
  unfold State.selectable
  rw [Bool.and_eq_true, Plan.isBase_iff]
  by_cases running : s.junction.state = .running
  · simp [running, or_assoc]
  · simp [running]

theorem dropPending_spec (s : State) : s.dropPending = { s with
      plans := s.dropPending.plans, seq := { s.seq with pendingPlan := none } }
    ∧ ∀ q : PlanIx, s.dropPending.plan q =
        if s.seq.pendingPlan = some q then (s.plan q).toPhase .ready else s.plan q := by
  unfold State.dropPending
  cases h : s.seq.pendingPlan with
  | none =>
    refine ⟨?_, fun q => rfl⟩
    change s = { s with seq := { s.seq with pendingPlan := none } }
    rw [← h]
  | some p =>
    refine ⟨rfl, fun q => (Table.get_set ..).trans ?_⟩
    by_cases e : q = p
    · subst e; exact (if_pos rfl).trans (if_pos rfl).symm
    · rw [if_neg e, if_neg fun h => e (Option.some.inj h).symm]; rfl

theorem selectPlan_frame (s : State) (p : PlanIx) : s.selectPlan p = { s with
    plans := (s.selectPlan p).plans, seq := (s.selectPlan p).seq,
    link := { s.link with attention := (s.selectPlan p).link.attention } } := by
  unfold State.selectPlan State.selectRunning State.makeCurrent State.makeSelected
  split
  · split
    · split <;> rfl
    · rw [(dropPending_spec s).1]
    · rfl
  · dsimp only
    split <;> rfl

theorem selectPlan_selected {s : State} {p : PlanIx} (ok : s.Acceptable p) : s.PlanSelected (s.selectPlan p) p := by
  obtain ⟨base, phase⟩ := ok
  unfold State.selectPlan
  by_cases running : s.junction.state = .running
  · rw [if_pos running]
    refine ⟨fun h => absurd running h, fun _ => ⟨?_, fun ready => ?_, fun selected => ?_, fun active => ?_⟩⟩
    · unfold State.selectRunning
      split
      · unfold State.makeSelected
        split <;> rfl
      · rw [(dropPending_spec s).1]; rfl
      · rfl
    · simp only [State.selectRunning, ready, State.makeSelected, (Plan.isBase_iff _).2 base, and_self, if_true]
      refine ⟨rfl, (Table.get_set_self ..), fun q ne => ?_⟩
      exact (Table.get_set_ne _ _ ne).trans (Table.get_map ..)
    · simp [State.selectRunning, selected]
    · simp only [State.selectRunning, active]
      refine ⟨?_, (dropPending_spec s).2⟩
      rw [(dropPending_spec s).1]
  · rw [if_neg running]
    refine ⟨fun _ => ?_, fun h => absurd h running⟩
    unfold State.makeCurrent
    dsimp only
    split
    · rename_i h; refine ⟨rfl, rfl, ?_⟩; simp [h, State.holds]
    · rename_i h; refine ⟨rfl, rfl, ?_⟩; rw [raise_holds]; simp [h, State.holds]

/-! ## The schedule's selection (R112, R113) -/

theorem scheduleSelect_frame (s : State) (p : PlanIx) : s.scheduleSelect p = { s with
    plans := (s.scheduleSelect p).plans, seq := (s.scheduleSelect p).seq,
    sched := { s.sched with owed := (s.scheduleSelect p).sched.owed },
    link := { s.link with attention := (s.scheduleSelect p).link.attention } } := by
  unfold State.scheduleSelect
  split
  · rfl
  · rfl
  · rw [selectPlan_frame]; rfl
  · rfl

theorem scheduleSelect_selected (s : State) (p : PlanIx) : s.ScheduleSelected (s.scheduleSelect p) p := by
  unfold State.scheduleSelect State.selection
  by_cases hold : s.sched.hold = true
  · rw [if_pos hold]
    exact ⟨fun _ => ⟨rfl, rfl⟩, fun _ => rfl, fun h => by simp [hold] at h⟩
  · have hold' : s.sched.hold = false := by simpa using hold
    rw [if_neg hold]
    by_cases barred : s.Barred
    · rw [if_pos ((selectBarred_iff s).2 barred)]
      exact ⟨fun _ => ⟨rfl, rfl⟩, fun h => absurd h hold,
        fun _ => ⟨⟨fun _ => barred, fun _ => rfl⟩, fun h => absurd barred h⟩⟩
    · rw [if_neg fun h => barred ((selectBarred_iff s).1 h)]
      by_cases ok : s.Acceptable p
      · rw [if_pos ((selectable_iff s p).2 ok)]
        refine ⟨fun h => ?_, fun h => absurd h hold,
          fun _ => ⟨⟨fun h => (nomatch h), fun h => absurd h barred⟩, fun _ =>
            ⟨fun _ => selectPlan_selected ok, fun h => absurd ok h⟩⟩⟩
        rcases h with h | h | h
        · exact absurd h hold
        · exact absurd h barred
        · exact absurd ok h
      · rw [if_neg fun h => ok ((selectable_iff s p).1 h)]
        exact ⟨fun _ => ⟨rfl, rfl⟩, fun h => absurd h hold,
          fun _ => ⟨⟨fun h => (nomatch h), fun h => absurd h barred⟩, fun _ =>
            ⟨fun h => absurd h ok, fun _ => by
              show (s.raise .schedulePlanInvalid).holds .schedulePlanInvalid = true
              rw [raise_holds]; simp⟩⟩⟩

theorem payOwed_frame (s : State) : s.payOwed = { s with
    plans := s.payOwed.plans, seq := s.payOwed.seq,
    sched := { s.sched with owed := s.payOwed.sched.owed },
    link := { s.link with attention := s.payOwed.link.attention } } := by
  unfold State.payOwed
  split
  · split
    · exact scheduleSelect_frame ..
    · rfl
  · rfl

/-- Selections outside RUNNING make a plan current and move no plan and nothing else of the sequencer (R79). -/
theorem scheduleSelect_outside {s : State} (h : s.junction.state ≠ .running) (p : PlanIx) :
    (s.scheduleSelect p).plans = s.plans
      ∧ (s.scheduleSelect p).seq = { s.seq with current := (s.scheduleSelect p).seq.current } := by
  unfold State.scheduleSelect
  split
  · exact ⟨rfl, rfl⟩
  · exact ⟨rfl, rfl⟩
  · simp only [State.selectPlan, if_neg h, State.makeCurrent]
    split <;> exact ⟨rfl, rfl⟩
  · exact ⟨rfl, rfl⟩

theorem payOwed_outside {s : State} (h : s.junction.state ≠ .running) : s.payOwed.plans = s.plans
    ∧ s.payOwed.seq = { s.seq with current := s.payOwed.seq.current } := by
  unfold State.payOwed
  split
  · split
    · exact scheduleSelect_outside h _
    · exact ⟨rfl, rfl⟩
  · exact ⟨rfl, rfl⟩

theorem payOwed_paid (s : State) : s.OwedPaid s.payOwed := by
  unfold State.payOwed
  refine ⟨fun h => by simp [h], fun x owed hold current point => ?_⟩
  by_cases barred : s.Barred
  · simp only [owed, (selectBarred_iff s).2 barred, Bool.not_true, Bool.and_false, Bool.false_eq_true, if_false]
    exact ⟨fun _ => ⟨rfl, rfl⟩, fun _ => rfl, fun _ => ⟨by simp [owed, barred], fun h => absurd barred h⟩⟩
  · have free : s.selectBarred = false := by
      rw [Bool.eq_false_iff]; exact fun h => barred ((selectBarred_iff s).1 h)
    simp only [owed, free, Bool.not_false, Bool.and_self, if_true, current, Option.bind_some, point]
    exact scheduleSelect_selected s x.plan

/-! ## The DIM state and the application of a switch point (R20, R110 to R112, R136) -/

theorem setDim_frame (s : State) (on : Bool) : s.setDim on = { s with
    circuits := (s.setDim on).circuits, output := (s.setDim on).output, sup := (s.setDim on).sup } := by
  unfold State.setDim
  split <;> rfl

theorem setDim_set (s : State) (on : Bool) : s.DimSet (s.setDim on) on := by
  unfold State.setDim
  split
  · rename_i h
    exact ⟨by rw [← h], fun _ => ⟨rfl, fun _ => rfl⟩, fun ne => absurd h ne⟩
  · rename_i h
    refine ⟨rfl, fun eq => absurd eq h, fun _ => ⟨rfl, fun c => ?_⟩⟩
    exact Table.get_map ..

/-- The DIM state a point's action gives (R111). -/
def State.dimFor (s : State) (d : DimAction) : Bool :=
  match d with | .on => true | .off => false | .keep => s.output.dim

theorem dimSet_same (s : State) : s.DimSet s s.output.dim :=
  ⟨rfl, fun _ => ⟨rfl, fun _ => rfl⟩, fun h => absurd rfl h⟩

theorem dimAction_set (s : State) (d : DimAction) : s.DimSet (s.dimAction d) (s.dimFor d) := by
  cases d with
  | on => exact setDim_set s true
  | off => exact setDim_set s false
  | keep => exact dimSet_same s

theorem dimAction_frame (s : State) (d : DimAction) : s.dimAction d = { s with
    circuits := (s.dimAction d).circuits, output := (s.dimAction d).output, sup := (s.dimAction d).sup } := by
  cases d with
  | on => exact setDim_frame s true
  | off => exact setDim_frame s false
  | keep => rfl

/-- What a point applied leaves unchanged. -/
theorem applyPoint_frame (s : State) (x : SwitchPoint) : s.applyPoint x = { s with
    circuits := (s.applyPoint x).circuits, output := (s.applyPoint x).output, sup := (s.applyPoint x).sup,
    plans := (s.applyPoint x).plans, seq := (s.applyPoint x).seq,
    sched := { s.sched with current := some x.time, owed := (s.applyPoint x).sched.owed },
    link := { s.link with attention := (s.applyPoint x).link.attention } } := by
  unfold State.applyPoint
  rw [scheduleSelect_frame, dimAction_frame]
  rfl

theorem applyPoint_applied (s : State) (x : SwitchPoint) : s.Applied (s.applyPoint x) x := by
  have frame := applyPoint_frame s x
  refine ⟨by rw [frame], ?_, ?_⟩
  · have set := dimAction_set (s.setSched { s.sched with current := some x.time }) x.dim
    unfold State.applyPoint
    generalize (s.setSched { s.sched with current := some x.time }).dimAction x.dim = w at set ⊢
    rw [scheduleSelect_frame]
    exact set
  · have selected := scheduleSelect_selected
      ((s.setSched { s.sched with current := some x.time }).dimAction x.dim) x.plan
    rw [dimAction_frame] at selected
    unfold State.applyPoint
    rw [dimAction_frame]
    exact selected

/-! ## The current point (R107, R110) -/

theorem mem_insertPoint (x y : SwitchPoint) {l : List SwitchPoint} (sorted : l.Pairwise fun a b => a.time < b.time) :
    y ∈ insertPoint x l ↔ y = x ∨ (y ∈ l ∧ y.time ≠ x.time) := by
  induction l with
  | nil => simp [insertPoint]
  | cons z l ih =>
    obtain ⟨above, sorted'⟩ := List.pairwise_cons.1 sorted
    unfold insertPoint
    split_ifs with before same
    · have : ∀ w ∈ z :: l, w.time ≠ x.time := fun w h => by
        rcases List.mem_cons.1 h with rfl | h
        · omega
        · have := above w h; omega
      simp only [List.mem_cons]
      exact or_congr_right ⟨fun h => ⟨h, this y (List.mem_cons.2 h)⟩, And.left⟩
    · have : ∀ w ∈ l, w.time ≠ x.time := fun w h => by have := above w h; omega
      rw [List.mem_cons, List.mem_cons]
      refine or_congr_right ⟨fun h => ⟨.inr h, this y h⟩, fun ⟨h, ne⟩ => h.resolve_left ?_⟩
      rintro rfl
      exact ne same.symm
    · rw [List.mem_cons, List.mem_cons, ih sorted']
      constructor
      · rintro (rfl | rfl | ⟨mem, ne⟩)
        · exact .inr ⟨.inl rfl, fun h => same h.symm⟩
        · exact .inl rfl
        · exact .inr ⟨.inr mem, ne⟩
      · rintro (rfl | ⟨rfl | mem, ne⟩)
        · exact .inr (.inl rfl)
        · exact .inl rfl
        · exact .inr (.inr ⟨mem, ne⟩)

theorem insertPoint_sorted (x : SwitchPoint) {l : List SwitchPoint} (sorted : l.Pairwise fun a b => a.time < b.time) :
    (insertPoint x l).Pairwise fun a b => a.time < b.time := by
  induction l with
  | nil => simp [insertPoint]
  | cons z l ih =>
    obtain ⟨above, sorted'⟩ := List.pairwise_cons.1 sorted
    unfold insertPoint
    split_ifs with before same
    · refine List.pairwise_cons.2 ⟨fun w h => ?_, sorted⟩
      rcases List.mem_cons.1 h with rfl | h
      · exact before
      · exact before.trans (above w h)
    · exact List.pairwise_cons.2 ⟨fun w h => same ▸ above w h, sorted'⟩
    · refine List.pairwise_cons.2 ⟨fun w h => ?_, ih sorted'⟩
      rcases (mem_insertPoint x w sorted').1 h with rfl | ⟨mem, _⟩
      · omega
      · exact above w mem

/-- The points of a table in time order have their last the latest. -/
theorem getLast?_eq_some_of_sorted {l : List SwitchPoint} (sorted : l.Pairwise fun a b => a.time < b.time)
    {x : SwitchPoint} (mem : x ∈ l) (last : ∀ y ∈ l, y.time ≤ x.time) : l.getLast? = some x := by
  induction l with
  | nil => cases mem
  | cons z l ih =>
    obtain ⟨above, sorted'⟩ := List.pairwise_cons.1 sorted
    cases l with
    | nil => rw [List.mem_singleton.1 mem]; rfl
    | cons w l =>
      rw [List.getLast?_cons_cons]
      refine ih sorted' ?_ fun y h => last y (List.mem_cons_of_mem _ h)
      rcases List.mem_cons.1 mem with rfl | h
      · have := above w List.mem_cons_self
        have := last w (List.mem_cons_of_mem _ List.mem_cons_self)
        omega
      · exact h

theorem currentPoint_of_current {d : Schedule} (sorted : d.points.Pairwise fun a b => a.time < b.time) {x : SwitchPoint}
    (h : d.Current x) : d.currentPoint = some x := by
  obtain ⟨set, mem, h⟩ := h
  unfold Schedule.currentPoint
  rw [if_pos set]
  rcases h with ⟨reached, latest⟩ | none
  · rw [getLast?_eq_some_of_sorted (sorted.filter _) (List.mem_filter.2 ⟨mem, decide_eq_true reached⟩) fun y h =>
      latest y (List.mem_filter.1 h).1 (of_decide_eq_true (List.mem_filter.1 h).2)]
  · rw [show (d.points.filter fun x => decide (x.time ≤ d.clock / 60)) = [] from
      List.filter_eq_nil_iff.2 fun y h => by have := (none y h).1; simp only [decide_eq_true_eq]; omega]
    exact getLast?_eq_some_of_sorted sorted mem fun y h => (none y h).2

theorem currentPoint_of_none {d : Schedule} (h : d.clockSet = false ∨ d.points = []) : d.currentPoint = none := by
  unfold Schedule.currentPoint
  rcases h with h | h
  · simp [h]
  · simp [h]

theorem judgeCurrent_frame (s : State) (r : Option Nat) : s.judgeCurrent r = { s with
    circuits := (s.judgeCurrent r).circuits, output := (s.judgeCurrent r).output, sup := (s.judgeCurrent r).sup,
    plans := (s.judgeCurrent r).plans, seq := (s.judgeCurrent r).seq,
    sched := { s.sched with
      current := (s.judgeCurrent r).sched.current, owed := (s.judgeCurrent r).sched.owed },
    link := { s.link with attention := (s.judgeCurrent r).link.attention } } := by
  unfold State.judgeCurrent
  split
  · rfl
  · split
    · rw [applyPoint_frame]
    · rfl

/-- The judgement of the current point of a schedule that a SET_CLOCK, an insert or a delete has left (R110). -/
theorem judgeCurrent_judged (s : State) (d : Schedule) (r : Option Nat) (current : d.current = s.sched.current)
    (hold : d.hold = s.sched.hold) (owed : d.owed = s.sched.owed)
    (sorted : d.points.Pairwise fun a b => a.time < b.time) :
    s.CurrentJudged (((s.setSched d).judgeCurrent r).accept .empty) r := by
  have frame := judgeCurrent_frame (s.setSched d) r
  have clockSet : ((s.setSched d).judgeCurrent r).sched.clockSet = d.clockSet := by rw [frame]; rfl
  have points : ((s.setSched d).judgeCurrent r).sched.points = d.points := by rw [frame]; rfl
  have clock : ((s.setSched d).judgeCurrent r).sched.clock = d.clock := by rw [frame]; rfl
  refine ⟨fun none => ?_, fun x now => ?_⟩
  · have gone : (s.setSched d).sched.currentPoint = Option.none :=
      currentPoint_of_none (none.imp clockSet.symm.trans points.symm.trans)
    unfold State.judgeCurrent
    rw [gone]
    exact ⟨rfl, rfl, dimSet_same s, rfl, rfl⟩
  · have point : (s.setSched d).sched.currentPoint = some x := by
      refine currentPoint_of_current sorted ?_
      obtain ⟨set, mem, h⟩ := now
      change (((s.setSched d).judgeCurrent r).sched.clockSet) = true at set
      change x ∈ ((s.setSched d).judgeCurrent r).sched.points at mem
      change (x.time ≤ ((s.setSched d).judgeCurrent r).sched.clock / 60
        ∧ ∀ y ∈ ((s.setSched d).judgeCurrent r).sched.points,
          y.time ≤ ((s.setSched d).judgeCurrent r).sched.clock / 60 → y.time ≤ x.time)
        ∨ ∀ y ∈ ((s.setSched d).judgeCurrent r).sched.points,
          ((s.setSched d).judgeCurrent r).sched.clock / 60 < y.time ∧ y.time ≤ x.time at h
      rw [clockSet] at set
      rw [points] at mem
      rw [points, clock] at h
      exact ⟨set, mem, h⟩
    unfold State.judgeCurrent
    rw [point]
    refine ⟨fun h => ?_, fun same ne => ?_⟩
    · dsimp only
      rw [if_pos (h.imp_left fun h => by rw [show (s.setSched d).sched.current = _ from current]; exact h)]
      obtain ⟨at?, dim, selected⟩ := applyPoint_applied (s.setSched d) x
      refine ⟨at?, dim, ?_⟩
      obtain ⟨left, held, free⟩ := selected
      rw [show (s.setSched d).sched.hold = s.sched.hold from hold] at left held free
      rw [show (s.setSched d).sched.owed = s.sched.owed from owed] at held
      exact ⟨left, held, free⟩
    · dsimp only
      rw [if_neg fun h => h.elim (fun h => h (current.trans same)) ne]
      exact ⟨current, owed, dimSet_same s, rfl, rfl⟩

/-! ## The commands of selection and schedule -/

/-- Settles O30. -/
theorem selectionMakesCurrentOrPending : Obligations.SelectionMakesCurrentOrPending := by
  intro s p h listens held
  refine ⟨fun n a bad => ?_, fun barred => ?_, fun free bad => ?_, fun free ok => ?_, ?_⟩
  · rw [exec_of_listens (i := .selectPlan n a) listens rfl]
    rcases bad with rfl | bad | rfl
    · simp [indexOf_outside]
    · simp [indexOf_outside (.inr bad)]
    · split <;> simp_all
  · rw [exec_of_listens (i := .selectPlan (number p) (.named h)) listens rfl]
    simp [indexOf_number, (selectBarred_iff s).2 barred]
  · rw [exec_of_listens (i := .selectPlan (number p) (.named h)) listens rfl]
    simp [indexOf_number, mt (selectBarred_iff s).1 free, mt (selectable_iff s p).1 bad]
  · refine ⟨((s.selectPlan p).holdFor h).accept .empty, ?_, rfl, ?_, ?_, ?_⟩
    · rw [exec_of_listens (i := .selectPlan (number p) (.named h)) listens rfl]
      simp [indexOf_number, mt (selectBarred_iff s).1 free, (selectable_iff s p).2 ok]
    · have selected := selectPlan_selected ok
      cases h <;> exact selected
    · rw [selectPlan_frame]
      cases h <;> rfl
    · rw [selectPlan_frame]
      cases h <;> rfl
  · obtain ⟨u, hu⟩ : ∃ u, u = s.setSched { s.sched with hold := false } := ⟨_, rfl⟩
    have run : exec .releaseToSchedule s = .next (match u.sched.current.bind u.pointAt with
        | none => u.accept (.word 0)
        | some x => (u.scheduleSelect x.plan).accept (.word (u.selection x.plan).releaseWord)) := by
      subst hu
      exact exec_of_listens (i := .releaseToSchedule) listens rfl
    refine ⟨_, run, ?_⟩
    have whole : ∀ v : State, v = u ∨ (∃ p, v = u.scheduleSelect p) → v = { s with
        plans := v.plans, seq := v.seq, sched := { s.sched with hold := false, owed := v.sched.owed },
        link := { s.link with attention := v.link.attention } } := by
      rintro v (rfl | ⟨p, rfl⟩)
      · rw [hu]; rfl
      · rw [scheduleSelect_frame, hu]; rfl
    cases found : u.sched.current.bind u.pointAt with
    | none =>
      dsimp only
      have frame := whole u (.inl rfl)
      refine ⟨by rw [hu]; rfl, by rw [hu]; rfl, by rw [hu]; rfl, by rw [hu]; rfl, by rw [hu]; rfl,
        fun _ => by rw [hu]; rfl, fun x current point => ?_⟩
      rw [hu] at found
      simp only [State.setSched_sched, current, Option.bind_some] at found
      exact absurd (point.symm.trans found) (by simp)
    | some x =>
      dsimp only
      have frame := whole (u.scheduleSelect x.plan) (.inr ⟨_, rfl⟩)
      refine ⟨?_, ?_, ?_, ?_, ?_, fun none => ?_, fun y current point => ?_⟩
      · rw [frame]; rfl
      · rw [frame]; rfl
      · rw [frame]; rfl
      · rw [frame]; rfl
      · rw [frame]; rfl
      · rw [hu] at found
        simp [none] at found
      · have same : x = y := by
          rw [hu] at found
          simp only [State.setSched_sched, current, Option.bind_some] at found
          exact Option.some.inj (found.symm.trans point)
        subst same
        have selection : u.selection x.plan = if s.selectBarred then .owed
            else if s.selectable x.plan then .selected else .planInvalid := by
          rw [hu]; rfl
        refine ⟨by rw [← hu]; exact scheduleSelect_selected u x.plan, fun barred => ?_, fun free => ?_⟩
        · rw [selection, if_pos ((selectBarred_iff s).2 barred)]; rfl
        · rw [selection, if_neg (mt (selectBarred_iff s).1 free)]
          by_cases ok : s.Acceptable x.plan
          · rw [if_pos ((selectable_iff s _).2 ok), if_pos ok]; rfl
          · rw [if_neg (mt (selectable_iff s _).1 ok), if_neg ok]; rfl

theorem pointAt_isNone_iff (s : State) (m : Nat) :
    (s.pointAt m).isNone = true ↔ ∀ x ∈ s.sched.points, x.time ≠ m := by
  simp [State.pointAt]

theorem pointAt_time {s : State} {m : Nat} {x : SwitchPoint} (h : s.pointAt m = some x) : x.time = m := by
  simpa using List.find?_some h

/-- The end of the step behind a judgement of the current point. -/
theorem judgeCurrent_settled (s : State) (d : Schedule) (r : Option Nat) :
    (((s.setSched d).judgeCurrent r).accept .empty).Ends (s.settle (((s.setSched d).judgeCurrent r).accept .empty))
    ∧ (s.settle (((s.setSched d).judgeCurrent r).accept .empty)).reply = some okReply
    ∧ (((s.setSched d).judgeCurrent r).accept .empty).sched = { d with
        current := ((s.setSched d).judgeCurrent r).sched.current
        owed := ((s.setSched d).judgeCurrent r).sched.owed } := by
  refine ⟨settle_ends _ _, (still_reply (settle_still _ _)).trans rfl, ?_⟩
  conv_lhs => rw [judgeCurrent_frame]
  rfl

theorem reachMinute_none {s : State} (h : s.sched.clockSet = false ∨ s.sched.clock % 60 ≠ 0
    ∨ s.pointAt (s.sched.clock / 60) = none) : s.reachMinute = s := by
  unfold State.reachMinute
  rcases h with h | h | h
  · simp [h]
  · simp [h]
  · simp [h]

theorem reachMinute_some {s : State} {x : SwitchPoint} (set : s.sched.clockSet = true) (minute : s.sched.clock % 60 = 0)
    (point : s.pointAt (s.sched.clock / 60) = some x) : s.reachMinute = s.applyPoint x := by
  simp [State.reachMinute, set, minute, point]

/-- Settles O21. -/
theorem schedulePointsAndClock : Obligations.SchedulePointsAndClock := by
  refine ⟨fun s listens lock points => ?_, fun s live due => ?_⟩
  · obtain ⟨sorted, few⟩ := points
    have unlocked := locked_eq_false lock
    refine ⟨fun m p d time room => ?_, fun m time present => ?_, fun m time absent => ⟨?_, fun full p d => ?_⟩,
      fun m n d bad => ?_, fun m time => ?_, fun n late => ?_, fun n time => ?_⟩
    · have sorted' := insertPoint_sorted { time := m, plan := p, dim := d } sorted
      obtain ⟨ends, reply, sched⟩ := judgeCurrent_settled s
        { s.sched with points := insertPoint { time := m, plan := p, dim := d } s.sched.points }
        ((s.pointAt m).map (·.time))
      refine ⟨_, _, ends, ?_, reply, fun x => ?_, ?_, ?_, ?_, fun replaced => ?_, fun new => ?_⟩
      · rw [exec_of_listens (i := .insertSwitchpoint m (number p) (.named d)) listens rfl]
        have space : ¬((s.pointAt m).isNone = true ∧ 24 ≤ s.sched.points.length) := by
          rintro ⟨none, full⟩
          rcases room with room | ⟨x, mem, same⟩
          · omega
          · exact (pointAt_isNone_iff s m).1 none x mem same
        simp only [unlocked, switchPointOf, indexOf_number, if_pos time, if_neg space]
        rfl
      · rw [sched]
        exact mem_insertPoint { time := m, plan := p, dim := d } x sorted
      · rw [sched]; exact sorted'
      · rw [sched]
      · rw [sched]
      · have : (s.pointAt m).map (·.time) = some m := by
          cases h : s.pointAt m with
          | none =>
            obtain ⟨x, mem, same⟩ := replaced
            exact absurd same ((pointAt_isNone_iff s m).1 (by rw [h]; rfl) x mem)
          | some x => rw [← pointAt_time h]; rfl
        rw [this]
        exact judgeCurrent_judged s _ (some m) rfl rfl rfl sorted'
      · have : s.pointAt m = none := by
          rw [← Option.isNone_iff_eq_none]
          exact (pointAt_isNone_iff s m).2 new
        rw [this]
        exact judgeCurrent_judged s _ none rfl rfl rfl sorted'
    · obtain ⟨ends, reply, sched⟩ := judgeCurrent_settled s
        { s.sched with points := s.sched.points.filter fun x => x.time != m } none
      refine ⟨_, _, ends, ?_, reply, ?_, ?_, ?_, judgeCurrent_judged s _ none rfl rfl rfl (sorted.filter _)⟩
      · rw [exec_of_listens (i := .deleteSwitchpoint m) listens rfl]
        have there : (s.pointAt m).isNone = false := by
          rw [Bool.eq_false_iff, Ne, pointAt_isNone_iff]
          obtain ⟨x, mem, same⟩ := present
          exact fun h => h x mem same
        simp only [unlocked, if_neg (Nat.not_lt.2 time), there, Bool.false_eq_true, if_false]
        rfl
      · rw [sched]
      · rw [sched]
      · rw [sched]
    · rw [exec_of_listens (i := .deleteSwitchpoint m) listens rfl]
      simp [unlocked, Nat.not_lt.2 time, (pointAt_isNone_iff s m).2 absent]
    · rw [exec_of_listens (i := .insertSwitchpoint m (number p) (.named d)) listens rfl]
      simp only [unlocked, switchPointOf, indexOf_number, if_pos time,
        if_pos (And.intro ((pointAt_isNone_iff s m).2 absent) full), Bool.false_eq_true, if_false]
    · rw [exec_of_listens (i := .insertSwitchpoint m n d) listens rfl]
      have : switchPointOf m n d = none := by
        unfold switchPointOf
        rcases bad with late | rfl | out | rfl
        · split
          · exact if_neg (Nat.not_le.2 late)
          · rfl
        · rw [indexOf_outside (.inl rfl)]
        · rw [indexOf_outside (.inr out)]
        · split <;> simp_all
      simp [unlocked, this]
    · rw [exec_of_listens (i := .deleteSwitchpoint m) listens rfl]
      simp [unlocked, time]
    · rw [exec_of_listens (i := .setClock n) listens rfl]
      simp [unlocked, late]
    · obtain ⟨ends, reply, sched⟩ := judgeCurrent_settled s
        { s.sched with clock := n, clockSet := true, nextSecond := s.now + 1000 } none
      refine ⟨_, _, ends, ?_, reply, ?_, ?_, ?_, ?_, judgeCurrent_judged s _ none rfl rfl rfl sorted⟩
      · rw [exec_of_listens (i := .setClock n) listens rfl]
        simp only [unlocked, if_neg (Nat.not_lt.2 time), Bool.false_eq_true, if_false]
        rfl
      · rw [sched]
      · rw [sched]
      · rw [sched]
      · rw [sched]
  · obtain ⟨w, hw⟩ : ∃ w, w = s.setSched { s.sched with
        clock := (s.sched.clock + 1) % 86400, nextSecond := s.sched.nextSecond + 1000 } := ⟨_, rfl⟩
    have turns : (s.sched.clock + 1) % 86400 = if s.sched.clock = 86399 then 0 else (s.sched.clock + 1) % 86400 := by
      split
      · rename_i h; rw [h]
      · rfl
    have kept : w.reachMinute.sched.clock = w.sched.clock ∧ w.reachMinute.sched.nextSecond = w.sched.nextSecond
        ∧ w.reachMinute.sched.points = w.sched.points ∧ w.reachMinute.sched.clockSet = w.sched.clockSet
        ∧ w.reachMinute.sched.hold = w.sched.hold := by
      unfold State.reachMinute
      split
      · split
        · rw [applyPoint_frame]
          exact ⟨rfl, rfl, rfl, rfl, rfl⟩
        · exact ⟨rfl, rfl, rfl, rfl, rfl⟩
      · exact ⟨rfl, rfl, rfl, rfl, rfl⟩
    obtain ⟨clock, nextSecond, points, clockSet, hold⟩ := kept
    refine ⟨w.reachMinute, s.settle w.reachMinute, settle_ends _ _, ?_, ?_, ?_, ?_, ?_, ?_, fun x set minute point => ?_,
      fun quiet => ?_⟩
    · rw [exec_of_live (i := .clockSecond) live rfl, hw]
      simp only [State.whenDue, due, decide_true, if_true]
      rfl
    · rw [clock, hw]; exact turns
    · rw [nextSecond, hw]; rfl
    · rw [points, hw]; rfl
    · rw [clockSet, hw]; rfl
    · rw [hold, hw]; rfl
    · rw [clock] at minute point
      rw [reachMinute_some (by rw [hw]; exact set) minute (by rw [← point, hw]; rfl)]
      have applied := applyPoint_applied w x
      rw [hw] at applied ⊢
      exact applied
    · rw [clock] at quiet
      have same : w.reachMinute = w := by
        refine reachMinute_none ?_
        rw [hw] at quiet ⊢
        exact quiet
      rw [same, hw]
      rfl

end Sys2Proof.Machine
end

section
/-! The arbitration's frame, RUNNING left (R82, R103), and the changes to DARK and LOCKOUT (R170 to R173, R183). -/

namespace Sys2Proof.Machine

/-! ## What an arbitration moves (R122) -/

/-- `t` is `s` with candidates withdrawn at most: a presented request or watch candidate stays or falls. -/
def Circuit.Withdrawn (k k' : Circuit) : Prop :=
  k' = { k with
      schedule := { k.schedule with presented := k'.schedule.presented }
      cable := { k.cable with watchPresented := k'.cable.watchPresented } }
    ∧ (k'.schedule.presented = none ∨ k'.schedule.presented = k.schedule.presented)
    ∧ (k'.cable.watchPresented = false ∨ k'.cable.watchPresented = k.cable.watchPresented)

theorem Circuit.withdrawn_refl (k : Circuit) : k.Withdrawn k := ⟨rfl, .inr rfl, .inr rfl⟩

theorem startCandidate_frame (s : State) (x : Candidate) : s.startCandidate x = { s with
    circuits := (s.startCandidate x).circuits
    channel := { s.channel with
      state := (s.startCandidate x).channel.state
      shortPresented := (s.startCandidate x).channel.shortPresented
      inFlight := (s.startCandidate x).channel.inFlight
      calibration := (s.startCandidate x).channel.calibration }
    sup := { s.sup with
      roundPointer := (s.startCandidate x).sup.roundPointer
      roundOffer := (s.startCandidate x).sup.roundOffer } } := by
  cases x <;> rfl

theorem startCandidate_circuit (s : State) (x : Candidate) (c : CircuitIx) :
    (s.circuit c).Withdrawn ((s.startCandidate x).circuit c) := by
  have set (d : CircuitIx) (r : Circuit) (h : (s.circuit d).Withdrawn r) :
      (s.circuit c).Withdrawn ((s.setCircuit d r).circuit c) := by
    rw [State.setCircuit_circuit]
    split
    · rename_i e; subst e; exact h
    · exact Circuit.withdrawn_refl _
  cases x with
  | proving d =>
    exact set d { s.circuit d with schedule := { (s.circuit d).schedule with presented := none } }
      ⟨rfl, .inl rfl, .inr rfl⟩
  | watch d =>
    exact set d { s.circuit d with cable := { (s.circuit d).cable with watchPresented := false } }
      ⟨rfl, .inr rfl, .inl rfl⟩
  | shortCal => exact Circuit.withdrawn_refl _
  | round d => exact Circuit.withdrawn_refl _

theorem arbitrate_frame (s : State) : s.arbitrate = { s with
    circuits := s.arbitrate.circuits
    channel := { s.channel with
      state := s.arbitrate.channel.state, shortPresented := s.arbitrate.channel.shortPresented
      inFlight := s.arbitrate.channel.inFlight, calibration := s.arbitrate.channel.calibration }
    sup := { s.sup with
      roundPointer := s.arbitrate.sup.roundPointer, roundOffer := s.arbitrate.sup.roundOffer } } := by
  unfold State.arbitrate
  split
  · split
    · exact startCandidate_frame ..
    · rfl
  · rfl

theorem arbitrate_circuit (s : State) (c : CircuitIx) : (s.circuit c).Withdrawn (s.arbitrate.circuit c) := by
  unfold State.arbitrate
  split
  · split
    · exact startCandidate_circuit ..
    · exact Circuit.withdrawn_refl _
  · exact Circuit.withdrawn_refl _

/-- Without an offer to the round an arbitration makes none. -/
theorem arbitrate_roundOffer {s : State} (h : s.sup.roundOffer = none) : s.arbitrate.sup.roundOffer = none := by
  unfold State.arbitrate
  split
  · split
    · rename_i x chosen
      cases x with
      | proving d => exact h
      | watch d => exact h
      | shortCal => exact h
      | round d =>
        unfold State.choice at chosen
        repeat' split at chosen
        all_goals first | (rw [h] at chosen; cases chosen) | cases chosen
    · exact h
  · exact h

theorem renewOffer_unlit {s : State} (h : s.output.safeEnable = false) : s.renewOffer.sup.roundOffer = none := by
  have : s.roundNext = none := by
    unfold State.roundNext
    rw [List.find?_eq_none]
    intro c _
    simp [State.inRound, State.eligible, h]
  exact this

/-- Outside START_RED and RUNNING no group is found LOST. -/
theorem redLost_outside {s : State} (red : s.junction.state ≠ .startRed) (running : s.junction.state ≠ .running)
    (g : GroupIx) : s.redLost g = false := by
  simp [State.redLost, red, running]

/-- Where the outputs are off the end of a step keeps them off. -/
theorem settle_keeps_allOff (before : State) {s u : State} (red : u.junction.state ≠ .startRed)
    (running : u.junction.state ≠ .running) (h : s.AllOff u) : s.AllOff (before.settle u) := by
  obtain ⟨safe, drives, greenOff, dark, guard, offer, watch⟩ := h
  rw [settle_of_none before (redLost_outside red running)]
  have frame := arbitrate_frame u.renewOffer
  have circuit (c : CircuitIx) : (u.circuit c).Withdrawn (u.renewOffer.arbitrate.circuit c) :=
    arbitrate_circuit u.renewOffer c
  have round := arbitrate_roundOffer (renewOffer_unlit safe)
  generalize u.renewOffer.arbitrate = t at frame circuit round ⊢
  have groups : t.groups = u.groups := by rw [frame]; rfl
  refine ⟨by rw [frame]; exact safe, fun c => ?_, fun g => ?_, fun g present => ?_, by rw [frame]; exact guard,
    round, fun c => ?_⟩
  · rw [(circuit c).1]; exact drives c
  · unfold State.group; rw [groups]; exact greenOff g
  · unfold State.group; rw [groups]; exact dark g present
  · exact (circuit c).2.2.elim id fun h => h.trans (watch c)

/-! ## RUNNING left (R82, R103) -/

theorem Plan.toPhase_toPhase (r : Plan) (p q : PlanPhase) : (r.toPhase p).toPhase q = r.toPhase q := by
  cases r <;> rfl

theorem returnPlans_spec (l : List Context) (s : State) : s.returnPlans l = { s with plans := (s.returnPlans l).plans }
    ∧ ∀ q : PlanIx, ((∃ c ∈ l, c.invoker ≠ none ∧ c.plan = q) → (s.returnPlans l).plan q = (s.plan q).toPhase .ready)
      ∧ ((¬∃ c ∈ l, c.invoker ≠ none ∧ c.plan = q) → (s.returnPlans l).plan q = s.plan q) := by
  induction l generalizing s with
  | nil => exact ⟨rfl, fun q => ⟨fun ⟨_, h, _⟩ => (nomatch h), fun _ => rfl⟩⟩
  | cons c l ih =>
    obtain ⟨t, ht⟩ : ∃ t, t = if c.invoker.isSome then s.returnReady c.plan else s := ⟨_, rfl⟩
    have e : s.returnPlans (c :: l) = t.returnPlans l := by rw [ht]; rfl
    have first : t = { s with plans := t.plans } := by rw [ht]; split <;> rfl
    have own (q : PlanIx) : t.plan q =
        if c.invoker ≠ none ∧ c.plan = q then (s.plan q).toPhase .ready else s.plan q := by
      rw [ht]
      by_cases inv : c.invoker = none
      · simp [inv]
      · rw [if_pos (Option.isSome_iff_ne_none.2 inv)]
        refine (Table.get_set ..).trans ?_
        by_cases same : q = c.plan
        · subst same; rw [if_pos rfl, if_pos ⟨inv, rfl⟩]
        · rw [if_neg same, if_neg fun h => same h.2.symm]; rfl
    obtain ⟨frame, plans⟩ := ih t
    rw [e]
    refine ⟨?_, fun q => ⟨fun ⟨d, mem, inv, at_⟩ => ?_, fun not => ?_⟩⟩
    · refine frame.trans ?_
      generalize (t.returnPlans l).plans = p
      rw [first]
    · by_cases rest : ∃ c ∈ l, c.invoker ≠ none ∧ c.plan = q
      · rw [(plans q).1 rest, own]
        split
        · rw [Plan.toPhase_toPhase]
        · rfl
      · rw [(plans q).2 rest, own]
        rcases List.mem_cons.1 mem with rfl | mem
        · rw [if_pos ⟨inv, at_⟩]
        · exact absurd ⟨d, mem, inv, at_⟩ rest
    · rw [(plans q).2 fun ⟨d, mem, h⟩ => not ⟨d, List.mem_cons_of_mem _ mem, h⟩, own,
        if_neg fun h => not ⟨c, List.mem_cons_self, h⟩]

theorem raiseEnd_frame (s : State) (l : List Context) : s.raiseEnd l = { s with
    link := { s.link with attention := (s.raiseEnd l).link.attention } } := by
  unfold State.raiseEnd
  split <;> rfl

theorem raiseEnd_holds (s : State) (l : List Context) (k : Attention) : (s.raiseEnd l).holds k =
    (s.holds k || (k == .preemptEnd && l.any fun c => c.invoker.isSome)) := by
  unfold State.raiseEnd
  split
  · rename_i h
    rw [raise_holds, h, Bool.and_true]
  · rename_i h
    rw [Bool.not_eq_true] at h
    rw [h, Bool.and_false, Bool.or_false]

/-- The chain emptied with its plans returned (R103). -/
theorem emptyChain_spec (s : State) : s.emptyChain = { s with
      plans := s.emptyChain.plans, pre := { s.pre with chain := [], waiting := [] }
      link := { s.link with attention := s.emptyChain.link.attention } }
    ∧ (∀ q : PlanIx, ((∃ c ∈ s.pre.chain, c.invoker ≠ none ∧ c.plan = q) →
          s.emptyChain.plan q = (s.plan q).toPhase .ready)
        ∧ ((¬∃ c ∈ s.pre.chain, c.invoker ≠ none ∧ c.plan = q) → s.emptyChain.plan q = s.plan q))
    ∧ ∀ k : Attention, s.emptyChain.holds k =
        (s.holds k || (k == .preemptEnd && s.pre.chain.any fun c => c.invoker.isSome)) := by
  unfold State.emptyChain
  obtain ⟨frame, plans⟩ := returnPlans_spec s.pre.chain (s.setPre { s.pre with chain := [], waiting := [] })
  dsimp only
  generalize (s.setPre { s.pre with chain := [], waiting := [] }).returnPlans s.pre.chain = t at frame plans
  refine ⟨?_, fun q => ?_, fun k => ?_⟩
  · rw [raiseEnd_frame, frame]
    rfl
  · rw [show (t.raiseEnd s.pre.chain).plan q = t.plan q by rw [raiseEnd_frame]; rfl]
    exact plans q
  · rw [raiseEnd_holds, show t.holds k = s.holds k by rw [frame]; rfl]

/-- RETURN_READY for the plan the sequencer holds current. -/
def State.returnCurrent (s : State) : State :=
  match s.seq.current with
  | some p => s.returnReady p
  | none => s

theorem returnCurrent_spec (s : State) : s.returnCurrent = { s with plans := s.returnCurrent.plans }
    ∧ ∀ q : PlanIx, s.returnCurrent.plan q =
        if s.seq.current = some q then (s.plan q).toPhase .ready else s.plan q := by
  unfold State.returnCurrent
  cases h : s.seq.current with
  | none => exact ⟨rfl, fun q => rfl⟩
  | some p =>
    refine ⟨rfl, fun q => (Table.get_set ..).trans ?_⟩
    by_cases e : q = p
    · subst e; exact (if_pos rfl).trans (if_pos rfl).symm
    · rw [if_neg e, if_neg fun h => e (Option.some.inj h).symm]; rfl

theorem exitRunning_eq {s : State} (h : s.junction.state = .running) : s.exitRunning =
    s.emptyChain.dropPending.returnCurrent.setSeq s.emptyChain.dropPending.returnCurrent.seq.exit := by
  unfold State.exitRunning
  rw [if_pos h]
  rfl

theorem exitRunning_outside {s : State} (h : s.junction.state ≠ .running) : s.exitRunning = s := if_neg h

/-- What an exit from RUNNING moves (R82, R103). -/
theorem exitRunning_frame (s : State) : s.exitRunning = { s with
    plans := s.exitRunning.plans, seq := s.exitRunning.seq
    pre := { s.pre with chain := s.exitRunning.pre.chain, waiting := s.exitRunning.pre.waiting }
    link := { s.link with attention := s.exitRunning.link.attention } } := by
  by_cases h : s.junction.state = .running
  · rw [exitRunning_eq h]
    have e := (emptyChain_spec s).1
    have e' := (dropPending_spec s.emptyChain).1
    have e'' := (returnCurrent_spec s.emptyChain.dropPending).1
    generalize s.emptyChain.dropPending.returnCurrent = v at e'' ⊢
    generalize s.emptyChain.dropPending = u at e' e''
    generalize s.emptyChain = t at e e'
    rw [e'', e', e]
    rfl
  · rw [exitRunning_outside h]

theorem exitRunning_seq {s : State} (h : s.junction.state = .running) : s.exitRunning.seq = s.seq.exit := by
  rw [exitRunning_eq h]
  have e := (emptyChain_spec s).1
  have e' := (dropPending_spec s.emptyChain).1
  have e'' := (returnCurrent_spec s.emptyChain.dropPending).1
  rw [e'', e', e]
  rfl

theorem exitRunning_current (s : State) : s.exitRunning.seq.current = s.seq.current := by
  by_cases h : s.junction.state = .running
  · rw [exitRunning_seq h]; rfl
  · rw [exitRunning_outside h]

theorem exitRunning_holds {s : State} (k : Attention) (ne : k ≠ .preemptEnd) : s.exitRunning.holds k = s.holds k := by
  by_cases h : s.junction.state = .running
  · rw [exitRunning_eq h]
    obtain ⟨-, -, e⟩ := emptyChain_spec s
    have e' := (dropPending_spec s.emptyChain).1
    have e'' := (returnCurrent_spec s.emptyChain.dropPending).1
    rw [e'', e']
    exact (e k).trans (by simp [ne])
  · rw [exitRunning_outside h]

theorem exitRunning_left {s : State} (h : s.junction.state = .running) : s.RunningLeft s.exitRunning := by
  have frame := (emptyChain_spec s).1
  have chain : s.exitRunning.pre.chain = [] ∧ s.exitRunning.pre.waiting = [] := by
    rw [exitRunning_eq h, (returnCurrent_spec _).1, (dropPending_spec _).1, frame]
    exact ⟨rfl, rfl⟩
  have plan (q : PlanIx) : s.exitRunning.plan q = s.emptyChain.dropPending.returnCurrent.plan q := by
    rw [exitRunning_eq h]
    rfl
  have held : s.emptyChain.seq = s.seq := by rw [frame]
  have held' : s.emptyChain.dropPending.seq.current = s.seq.current := by rw [(dropPending_spec _).1, held]
  have whole (q : PlanIx) : s.exitRunning.plan q =
      if s.seq.current = some q then
        (if s.seq.pendingPlan = some q then (s.emptyChain.plan q).toPhase .ready else s.emptyChain.plan q).toPhase .ready
      else if s.seq.pendingPlan = some q then (s.emptyChain.plan q).toPhase .ready else s.emptyChain.plan q := by
    rw [plan, (returnCurrent_spec _).2, held', (dropPending_spec _).2, held]
  have chained := (emptyChain_spec s).2.1
  rw [State.RunningLeft, exitRunning_seq h]
  refine ⟨rfl, rfl, rfl, rfl, rfl, rfl, rfl, rfl, rfl, rfl, rfl, chain.1, chain.2, fun p returned => ?_, fun p not => ?_⟩
  · have inner : s.emptyChain.plan p = (s.plan p).toPhase .ready
        ∨ (s.emptyChain.plan p = s.plan p ∧ (s.seq.pendingPlan = some p ∨ s.seq.current = some p)) := by
      by_cases run : ∃ c ∈ s.pre.chain, c.invoker ≠ none ∧ c.plan = p
      · exact .inl ((chained p).1 run)
      · refine .inr ⟨(chained p).2 run, ?_⟩
        rcases returned with h | h | h
        · exact .inl h
        · exact .inr h
        · exact absurd h run
    rw [whole]
    rcases inner with e | ⟨e, at_⟩
    · rw [e]
      split_ifs <;> simp only [Plan.toPhase_toPhase]
    · rw [e]
      split_ifs with current pending pending
      · rw [Plan.toPhase_toPhase]
      · rfl
      · rfl
      · exact absurd at_ (not_or.2 ⟨pending, current⟩)
  · rw [whole, if_neg fun h => not (.inr (.inl h)), if_neg fun h => not (.inl h),
      (chained p).2 fun h => not (.inr (.inr h))]

/-! ## The attention set grows -/

theorem raise_keeps {s : State} {a k : Attention} (h : s.holds k = true) : (s.raise a).holds k = true := by
  rw [raise_holds, h]; rfl

theorem selectPlan_keeps {s : State} {p : PlanIx} {k : Attention} (h : s.holds k = true) :
    (s.selectPlan p).holds k = true := by
  unfold State.selectPlan State.selectRunning State.makeCurrent State.makeSelected
  split
  · split
    · dsimp only
      split <;> exact h
    · rw [(dropPending_spec s).1]; exact h
    · exact h
  · dsimp only
    split
    · exact h
    · exact raise_keeps h

theorem payOwed_keeps {s : State} {k : Attention} (h : s.holds k = true) : s.payOwed.holds k = true := by
  unfold State.payOwed
  split
  · split
    · unfold State.scheduleSelect
      split
      · exact h
      · exact h
      · exact selectPlan_keeps h
      · exact raise_keeps h
    · exact h
  · exact h

/-! ## DARK and LOCKOUT entered from a supplied state (R170, R171) -/

/-- The state in which an owed selection is paid, when a supplied state is left. -/
@[irreducible] def State.left (s : State) (j : JunctionState) : State := s.exitRunning.allOff.enterState j

/-- An all-off powers the outputs off (R16, R17). -/
theorem allOff_poweredOff (s : State) : s.PoweredOff s.allOff := by
  have frame := (allOff_spec s).1
  have off := safeOff_poweredOff s
  generalize s.safeOff = w at frame off
  generalize s.allOff = v at frame ⊢
  obtain ⟨-, circuit, void, still⟩ := off
  rw [frame]
  exact ⟨rfl, circuit, void, still⟩

theorem left_eq (s : State) (j : JunctionState) : s.left j = s.exitRunning.allOff.enterState j := by
  unfold State.left
  rfl

theorem leaveSupplied_eq (s : State) (j : JunctionState) : s.leaveSupplied j = (s.left j).payOwed := by
  rw [left_eq, State.leaveSupplied]

/-- What leaving a supplied state moves before the owed selection is paid. -/
theorem left_frame (s : State) (j : JunctionState) : s.left j = { s with
    link := { s.link with attention := (s.left j).link.attention }
    groups := (s.left j).groups, circuits := (s.left j).circuits, channel := (s.left j).channel
    output := { s.output with safeEnable := false, flash := (s.left j).output.flash }
    guard := [], plans := s.exitRunning.plans
    seq := { s.exitRunning.seq with greenStarts := (s.left j).seq.greenStarts }
    pre := s.exitRunning.pre
    sup := { s.sup with roundOffer := none }
    junction := { s.junction with state := j, entry := s.now, clearance := none } } := by
  rw [left_eq]
  have e := exitRunning_frame s
  have e' := (allOff_spec s.exitRunning).1
  generalize s.exitRunning.safeOff = w at e'
  generalize s.exitRunning.allOff = v at e' ⊢
  generalize s.exitRunning = t at e e' ⊢
  rw [e']
  conv_lhs => rw [e]
  conv_rhs => rw [e]
  rfl

theorem left_group (s : State) (j : JunctionState) (g : GroupIx) : ((s.left j).group g).config = (s.group g).config
    ∧ ((s.left j).group g).greenOff = s.now
    ∧ ((s.group g).config ≠ none → ((s.left j).group g).aspect = .dark ∧ ((s.left j).group g).awaited = none)
    ∧ ((s.group g).config = none → (s.left j).group g = { s.group g with greenOff := s.now }) := by
  have spec := (allOff_spec s.exitRunning).2.2 g
  have e := exitRunning_frame s
  have group : s.exitRunning.group g = s.group g := by rw [e]; rfl
  have now : s.exitRunning.now = s.now := by rw [e]
  rw [group, now] at spec
  rw [left_eq]
  generalize s.exitRunning.allOff = v at spec ⊢
  exact spec

theorem left_greenStarts (s : State) (j : JunctionState) (g : GroupIx) :
    (s.left j).seq.greenStarts.get g = s.exitRunning.seq.greenStarts.get g
      ∨ (s.left j).seq.greenStarts.get g = none := by
  have spec := (allOff_spec s.exitRunning).2.1 g
  rw [left_eq]
  generalize s.exitRunning.allOff = v at spec ⊢
  exact spec

theorem left_poweredOff (s : State) (j : JunctionState) : s.PoweredOff (s.left j) := by
  have off := allOff_poweredOff s.exitRunning
  rw [left_eq]
  have e := exitRunning_frame s
  generalize s.exitRunning.allOff = v at off ⊢
  generalize s.exitRunning = t at e off
  rw [e] at off
  exact off

theorem left_circuit_off (s : State) (j : JunctionState) (c : CircuitIx) :
    ((s.left j).circuit c).drive.on = false ∧ ((s.left j).circuit c).cable.watchPresented = false := by
  rw [(left_poweredOff s j).2.1 c]
  split
  · exact ⟨rfl, rfl⟩
  · rename_i h; exact ⟨by simpa using h, rfl⟩

theorem left_holds (s : State) (j : JunctionState) {k : Attention} (ne : k ≠ .preemptEnd) :
    (s.left j).holds k = (s.holds k || k == .junctionState) := by
  have frame := (allOff_spec s.exitRunning).1
  rw [left_eq, ← exitRunning_holds (s := s) k ne]
  generalize s.exitRunning.safeOff = w at frame
  generalize s.exitRunning.allOff = v at frame ⊢
  rw [State.enterState, raise_holds, frame]
  rfl

theorem left_runningLeft {s : State} (j : JunctionState) (h : s.junction.state = .running) : s.RunningLeft (s.left j) := by
  have frame := left_frame s j
  obtain ⟨state, stage, position, remainder, excess, latch, sync, lastPulse, watch, starts, pending, chain, waiting, plans,
    others⟩ := exitRunning_left h
  have none : (s.left j).seq.greenStarts = Table.replicate 16 none := by
    refine Table.ext_get fun g => ?_
    rw [Table.get_replicate]
    rcases left_greenStarts s j g with e | e
    · rw [e, starts, Table.get_replicate]
    · exact e
  have plan (p : PlanIx) : (s.left j).plan p = s.exitRunning.plan p := by
    unfold State.plan; rw [frame]
  refine ⟨?_, ?_, ?_, ?_, ?_, ?_, ?_, ?_, ?_, none, ?_, ?_, ?_, fun p r => (plan p).trans (plans p r),
    fun p r => (plan p).trans (others p r)⟩
  all_goals rw [frame]
  · exact state
  · exact stage
  · exact position
  · exact remainder
  · exact excess
  · exact latch
  · exact sync
  · exact lastPulse
  · exact watch
  · exact pending
  · exact chain
  · exact waiting

theorem payOwed_held {s : State} {j : JunctionState} : (s.left j).payOwed.junction =
    { s.junction with state := j, entry := s.now, clearance := none } := by
  rw [payOwed_frame, left_frame]

/-- The outputs off after a supplied state is left (R15 to R17). -/
theorem leaveSupplied_allOff (s : State) (j : JunctionState) : s.AllOff (s.left j).payOwed := by
  have frame := payOwed_frame (s.left j)
  generalize (s.left j).payOwed = v at frame ⊢
  have frame' := left_frame s j
  have off := left_circuit_off s j
  have group := left_group s j
  generalize s.left j = w at frame frame' off group
  rw [frame]
  refine ⟨?_, fun c => (off c).1, fun g => (group g).2.1, fun g => (group g).2.2.1, ?_, ?_, fun c => (off c).2⟩
  all_goals rw [frame']

theorem leaveSupplied_poweredOff (s : State) (j : JunctionState) : s.PoweredOff (s.left j).payOwed := by
  have frame := payOwed_frame (s.left j)
  generalize (s.left j).payOwed = v at frame ⊢
  have off := left_poweredOff s j
  generalize s.left j = w at frame off
  rw [frame]
  exact off

theorem State.PoweredOff.answer {s v : State} (h : s.PoweredOff v) (r : Reply) : s.PoweredOff (v.answer r) := h

/-- `v` is what an end of a step that takes no lockout leaves of `u`. -/
def State.AfterEnd (u v : State) : Prop :=
  v.plans = u.plans ∧ v.seq = u.seq ∧ v.pre = u.pre ∧ v.sched = u.sched ∧ v.junction = u.junction
    ∧ v.link.attention = u.link.attention ∧ v.groups = u.groups ∧ v.output = u.output ∧ v.guard = u.guard
    ∧ v.link.transaction = u.link.transaction ∧ v.conflicts = u.conflicts ∧ v.now = u.now

theorem arbitrate_afterEnd (u : State) : u.AfterEnd u.renewOffer.arbitrate := by
  rw [State.AfterEnd, arbitrate_frame]
  exact ⟨rfl, rfl, rfl, rfl, rfl, rfl, rfl, rfl, rfl, rfl, rfl, rfl⟩

theorem settle_afterEnd (before : State) {u : State} (red : u.junction.state ≠ .startRed)
    (running : u.junction.state ≠ .running) : u.AfterEnd (before.settle u) := by
  rw [settle_of_none before (redLost_outside red running)]
  exact arbitrate_afterEnd u

/-- Leaving a supplied state for DARK or LOCKOUT, read off any state that ends a step behind it (R82, R113). -/
theorem leaveSupplied_paid {s : State} {j : JunctionState} (off : j ≠ .running) {r : Reply} {t : State}
    (h : ((s.left j).payOwed.answer r).AfterEnd t) :
    (s.junction.state = .running → s.RunningLeft t) ∧ s.LeftAndPaid t := by
  obtain ⟨plans, seq, pre, sched, junction, attention, -⟩ := h
  have outside : (s.left j).junction.state ≠ .running := by rw [left_frame]; exact off
  obtain ⟨plans', seq'⟩ := payOwed_outside outside
  have frame := payOwed_frame (s.left j)
  have paid := payOwed_paid (s.left j)
  have holds (k : Attention) : t.holds k = (s.left j).payOwed.holds k := by
    unfold State.holds; rw [attention]; rfl
  replace plans : t.plans = (s.left j).payOwed.plans := plans
  replace seq : t.seq = (s.left j).payOwed.seq := seq
  replace pre : t.pre = (s.left j).payOwed.pre := pre
  replace sched : t.sched = (s.left j).payOwed.sched := sched
  replace junction : t.junction = (s.left j).payOwed.junction := junction
  have tseq : t.seq = { (s.left j).seq with current := t.seq.current } := by rw [seq]; exact seq'
  have tplans : t.plans = (s.left j).plans := plans.trans plans'
  have tplan (p : PlanIx) : t.plan p = (s.left j).plan p := by unfold State.plan; rw [tplans]
  have tpre : t.pre = (s.left j).pre := by rw [pre, frame]
  refine ⟨fun running => ?_, s.left j, ?_, ?_, ?_, ?_, left_runningLeft j, fun not => ?_, ?_, tplans, tseq⟩
  · have left := left_runningLeft j running
    unfold State.RunningLeft at left ⊢
    rw [tseq, tpre]
    simp only [tplan]
    exact left
  · rw [junction, frame]
  · rw [left_frame]
  · rw [left_frame]; exact exitRunning_current s
  · rw [left_holds s j (by decide)]
    simp
  · rw [left_frame, exitRunning_outside not]
    exact ⟨rfl, rfl⟩
  · obtain ⟨unowed, owed⟩ := paid
    refine ⟨fun none => ?_, fun x now hold current point => ?_⟩
    · rw [seq, plans, sched]; exact unowed none
    · have selected := owed x now hold current point
      unfold State.ScheduleSelected State.PlanSelected at selected ⊢
      rw [seq, sched, plans]
      simp only [holds]
      have plan (p : PlanIx) : t.plan p = (s.left j).payOwed.plan p := by unfold State.plan; rw [plans]
      simp only [plan]
      exact selected

/-! ## DARK, LOCKOUT and CLEAR_LOCKOUT (R170 to R173) -/

/-- The end of a step behind a supplied state left. -/
theorem leaveSupplied_settled (before s : State) {j : JunctionState} (red : j ≠ .startRed) (running : j ≠ .running)
    (r : Reply) :
    ((s.left j).payOwed.answer r).AfterEnd (before.settle ((s.left j).payOwed.answer r))
    ∧ s.AllOff (before.settle ((s.left j).payOwed.answer r)) := by
  have junction : (s.left j).payOwed.junction.state = j := by rw [payOwed_held]
  have red' : ((s.left j).payOwed.answer r).junction.state ≠ .startRed := by rw [← junction] at red; exact red
  have running' : ((s.left j).payOwed.answer r).junction.state ≠ .running := by rw [← junction] at running; exact running
  exact ⟨settle_afterEnd before red' running',
    settle_keeps_allOff before red' running' (leaveSupplied_allOff s j)⟩

theorem leaveSupplied_holds {s : State} (j : JunctionState) {k : Attention} (ne : k ≠ .preemptEnd)
    (h : s.holds k = true ∨ k = .junctionState) : (s.left j).payOwed.holds k = true := by
  refine payOwed_keeps ?_
  rw [left_holds s j ne]
  rcases h with h | rfl
  · rw [h]; rfl
  · simp

theorem holds_of_attention {t u : State} (h : t.link.attention = u.link.attention) (k : Attention) :
    t.holds k = u.holds k := by
  unfold State.holds
  rw [h]

theorem holds_answer (v : State) (r : Reply) (k : Attention) : (v.answer r).holds k = v.holds k := rfl

theorem settle_reply (before v : State) (r : Reply) : (before.settle (v.answer r)).reply = some r :=
  (still_reply (settle_still before (v.answer r))).trans rfl

/-- Settles O28. -/
theorem darkTurnsTheOutputsOff : Obligations.DarkTurnsTheOutputsOff := by
  intro s listens
  have run := exec_of_listens (i := .dark) listens rfl
  refine ⟨fun supplied => ?_, fun dark => ?_, fun lockout => ?_⟩
  · have run' : exec .dark s = .next (s.settle ((s.left .dark).payOwed.accept .empty)) := by
      rw [run, ← leaveSupplied_eq]
      cases h : s.junction.state with
      | dark => rw [h] at supplied; cases supplied
      | lockout => rw [h] at supplied; cases supplied
      | _ => rfl
    obtain ⟨ended, off⟩ := leaveSupplied_settled s s (j := .dark) (by decide) (by decide) okReply
    obtain ⟨left, paid⟩ := leaveSupplied_paid (by decide) ended
    obtain ⟨-, -, -, -, junction, attention, -⟩ := ended
    have held := leaveSupplied_holds (s := s) .dark (k := .junctionState) (by decide) (.inr rfl)
    rw [← holds_answer _ okReply, ← holds_of_attention attention] at held
    exact ⟨_, _, settle_ends _ _, (leaveSupplied_poweredOff s .dark).answer okReply, run', settle_reply _ _ _,
      junction.trans payOwed_held, held, off, left, paid⟩
  · rw [run, dark]
  · rw [run, lockout]

theorem handCause_supplied {s : State} (h : s.output.safeEnable = true) (x : Cause) :
    s.handCause x = ((s.recordLockout x).left .lockout).payOwed := by
  rw [← leaveSupplied_eq]
  exact if_pos h

theorem handCause_unsupplied {s : State} (h : s.output.safeEnable = false) (x : Cause) : s.handCause x =
    if s.junction.state = .lockout then s.furtherCause else s := by
  unfold State.handCause
  simp [h]

theorem lockout_junction (s : State) (x : Cause) : ((s.recordLockout x).left .lockout).payOwed.junction =
    { s.junction with
      state := .lockout, entry := s.now, clearance := none, lockout := some (s.lockoutRecord x) } := by
  rw [payOwed_held]
  rfl

theorem recordLockout_holds (s : State) (x : Cause) (k : Attention) :
    (s.recordLockout x).holds k = (s.holds k || k == .lockout) := by
  rw [State.recordLockout, raise_holds]
  rfl

theorem enterState_holds (s : State) (j : JunctionState) (k : Attention) :
    (s.enterState j).holds k = (s.holds k || k == .junctionState) := by
  rw [State.enterState, raise_holds]
  rfl

theorem State.LeftAndPaid.unrecorded {s t : State} {x : Cause} (h : (s.recordLockout x).LeftAndPaid t) :
    s.LeftAndPaid t := by
  obtain ⟨v, state, sched, current, changed, rest⟩ := h
  exact ⟨v, state, sched, current, changed.trans (by rw [recordLockout_holds]; simp), rest⟩

/-- LOCKOUT in a supplied state (R171). -/
theorem lockout_from_supplied {s : State} (listens : s.Listens) (safe : s.output.safeEnable = true)
    (lit : s.junction.state ≠ .dark) : ∃ u t : State, u.Ends t ∧ s.PoweredOff u
      ∧ exec .lockout s = .next t ∧ t.reply = some okReply ∧ t.holds .lockout = true ∧ t.holds .junctionState = true
      ∧ s.AllOff t
      ∧ t.junction = { s.junction with
          state := .lockout, entry := s.now, clearance := none, lockout := some (s.lockoutRecord forcedCause) }
      ∧ (s.junction.state = .running → s.RunningLeft t) ∧ s.LeftAndPaid t := by
  have run : exec .lockout s =
      .next (s.settle (((s.recordLockout forcedCause).left .lockout).payOwed.accept .empty)) := by
    rw [exec_of_listens (i := .lockout) listens rfl, State.forceLockout, if_neg lit, handCause_supplied safe]
  obtain ⟨ended, off⟩ :=
    leaveSupplied_settled s (s.recordLockout forcedCause) (j := .lockout) (by decide) (by decide) okReply
  obtain ⟨left, paid⟩ := leaveSupplied_paid (by decide) ended
  obtain ⟨-, -, -, -, junction, attention, -⟩ := ended
  have lockout := leaveSupplied_holds (s := s.recordLockout forcedCause) .lockout (k := .lockout) (by decide)
    (.inl (by rw [recordLockout_holds]; simp))
  have state := leaveSupplied_holds (s := s.recordLockout forcedCause) .lockout (k := .junctionState) (by decide)
    (.inr rfl)
  rw [← holds_answer _ okReply, ← holds_of_attention attention] at lockout state
  exact ⟨_, _, settle_ends _ _, (leaveSupplied_poweredOff (s.recordLockout forcedCause) .lockout).answer okReply, run,
    settle_reply _ _ _, lockout, state, off, junction.trans (lockout_junction s forcedCause), left, paid.unrecorded⟩

/-- LOCKOUT in DARK (R171; log entry 42). -/
theorem lockout_from_dark {s : State} (listens : s.Listens) (dark : s.junction.state = .dark) :
    ∃ t, exec .lockout s = .next t ∧ t.reply = some okReply ∧ t.holds .lockout = true ∧ t.holds .junctionState = true
      ∧ t.junction = { s.junction with
          state := .lockout, entry := s.now, clearance := none, lockout := some (s.lockoutRecord forcedCause) }
      ∧ t.output = s.output ∧ t.groups = s.groups ∧ ∀ c : CircuitIx, (t.circuit c).drive = (s.circuit c).drive := by
  obtain ⟨v, hv⟩ : ∃ v, v = (s.recordLockout forcedCause).enterState .lockout := ⟨_, rfl⟩
  have run : exec .lockout s = .next (s.settle (v.answer okReply)) := by
    rw [exec_of_listens (i := .lockout) listens rfl, State.forceLockout, if_pos dark, hv]
    rfl
  have holds (k : Attention) : v.holds k = (s.holds k || k == .lockout || k == .junctionState) := by
    rw [hv, enterState_holds, recordLockout_holds]
  have frame : v = { s with
      link := { s.link with attention := v.link.attention }
      junction := { s.junction with
        state := .lockout, entry := s.now, clearance := none, lockout := some (s.lockoutRecord forcedCause) } } := by
    rw [hv]
    rfl
  have quiet : ∀ g : GroupIx, (v.answer okReply).redLost g = false := by
    rw [frame]
    exact redLost_outside (by simp [State.answer]) (by simp [State.answer])
  refine ⟨_, run, settle_reply _ _ _, ?_⟩
  rw [settle_of_none s quiet]
  obtain ⟨-, -, -, -, junction, attention, groups, output, -⟩ := arbitrate_afterEnd (v.answer okReply)
  have circuit := arbitrate_circuit (v.answer okReply).renewOffer
  refine ⟨?_, ?_, ?_, ?_, ?_, fun c => ?_⟩
  · rw [holds_of_attention attention, holds_answer, holds]; simp
  · rw [holds_of_attention attention, holds_answer, holds]; simp
  · rw [junction, frame]; rfl
  · rw [output, frame]; rfl
  · rw [groups, frame]; rfl
  · rw [(circuit c).1, frame]; rfl

/-- Settles O29. -/
theorem lockoutIsTakenAndCleared : Obligations.LockoutIsTakenAndCleared := by
  intro s listens record
  have clear := exec_of_listens (i := .clearLockout) listens rfl
  refine ⟨lockout_from_supplied listens, lockout_from_dark listens, fun lockout unsafe_ => ?_, fun lockout => ?_,
    fun not => ?_⟩
  · have run : exec .lockout s = .next (s.settle (s.furtherCause.answer okReply)) := by
      rw [exec_of_listens (i := .lockout) listens rfl, State.forceLockout, if_neg (by rw [lockout]; decide),
        handCause_unsupplied unsafe_, if_pos lockout]
      rfl
    have state : (s.furtherCause.answer okReply).junction.state = .lockout := lockout
    obtain ⟨-, -, -, -, junction, attention, -⟩ :=
      settle_afterEnd s (u := s.furtherCause.answer okReply) (by rw [state]; decide) (by rw [state]; decide)
    exact ⟨_, run, settle_reply _ _ _, attention, junction⟩
  · refine ⟨_, by rw [clear, if_pos lockout], rfl, ?_, rfl, rfl⟩
    have := enterState_holds (s.setJunction { s.junction with
      lockout := s.junction.lockout.map LockoutRecord.asCleared }) .dark .junctionState
    exact this.trans (by simp)
  · rw [clear, if_neg not]

end Sys2Proof.Machine
end

section
/-! Lockout causes, the end of a step with a lost red (R144, R145, R171, R172), and SOFT_RESET (R183). -/

namespace Sys2Proof.Machine

/-! ## Causes handed at one instant (R171, R172) -/

/-- A state with its lockout record's further-causes flag set where causes follow. -/
def State.withFurther (s : State) (more : Bool) : State :=
  s.setJunction { s.junction with
    lockout := s.junction.lockout.map fun r => { r with further := r.further || more } }

theorem withFurther_false (s : State) : s.withFurther false = s := by
  simp only [State.withFurther, Bool.or_false]
  change s.setJunction { s.junction with lockout := s.junction.lockout.map id } = s
  rw [Option.map_id_fun]
  rfl

/-- Causes handed in LOCKOUT set the further-causes flag (R172). -/
theorem handCauses_in_lockout (l : List Cause) {v : State} (safe : v.output.safeEnable = false)
    (state : v.junction.state = .lockout) : v.handCauses l = v.withFurther (!l.isEmpty) := by
  induction l generalizing v with
  | nil => exact (withFurther_false v).symm
  | cons x l ih =>
    have first : v.handCause x = v.withFurther true := by
      rw [handCause_unsupplied safe, if_pos state]
      simp only [State.withFurther, Bool.or_true]
      rfl
    rw [show v.handCauses (x :: l) = (v.handCause x).handCauses l from rfl, first,
      ih (v := v.withFurther true) safe state]
    cases h : v.junction.lockout <;> simp [State.withFurther, h, State.setJunction]

/-- Causes handed to a supplied junction: the first locks it out (R171), the rest set the flag (R172). -/
theorem handCauses_supplied {s : State} (safe : s.output.safeEnable = true) (x : Cause) (l : List Cause) :
    s.handCauses (x :: l) = ((s.recordLockout x).left .lockout).payOwed.withFurther (!l.isEmpty) := by
  rw [show s.handCauses (x :: l) = (s.handCause x).handCauses l from rfl, handCause_supplied safe]
  refine handCauses_in_lockout l ?_ ?_
  · rw [payOwed_frame, left_frame]
  · rw [payOwed_frame, left_frame]

/-- Causes handed to a junction without its supply move at most the lockout record. -/
theorem handCauses_unsupplied (l : List Cause) {s : State} (safe : s.output.safeEnable = false) :
    s.handCauses l = { s with junction := { s.junction with lockout := (s.handCauses l).junction.lockout } } := by
  induction l generalizing s with
  | nil => rfl
  | cons x l ih =>
    have first : s.handCause x = { s with
        junction := { s.junction with lockout := (s.handCause x).junction.lockout } } := by
      rw [handCause_unsupplied safe]
      split <;> rfl
    have safe' : (s.handCause x).output.safeEnable = false := by rw [first]; exact safe
    rw [show s.handCauses (x :: l) = (s.handCause x).handCauses l from rfl]
    refine (ih safe').trans ?_
    generalize ((s.handCause x).handCauses l).junction.lockout = r
    rw [first]

/-- What a lockout record shows of its cause. -/
def LockoutRecord.Names (r : LockoutRecord) (x : Cause) : Prop :=
  r.cause = x.cause ∧ r.group = x.group ∧ r.circuit = x.circuit ∧ r.cleared = false

/-- `t` is `s` locked out by a cause: the outputs off, the junction in LOCKOUT from now with a record that names the
cause, and the kinds raised (R171). -/
def State.LockedOut (s t : State) (x : Cause) : Prop :=
  s.PoweredOff t ∧ s.AllOff t ∧ t.holds .lockout = true ∧ t.holds .junctionState = true
    ∧ (∀ k, s.holds k = true → k ≠ .preemptEnd → t.holds k = true)
    ∧ ∃ r : LockoutRecord, r.Names x ∧ t.junction = { s.junction with
        state := .lockout, entry := s.now, clearance := none, lockout := some r }

theorem handCauses_lockedOut {s : State} (safe : s.output.safeEnable = true) (x : Cause) (l : List Cause) :
    s.LockedOut (s.handCauses (x :: l)) x := by
  rw [handCauses_supplied safe]
  have junction := lockout_junction s x
  have powered := leaveSupplied_poweredOff (s.recordLockout x) .lockout
  have off := leaveSupplied_allOff (s.recordLockout x) .lockout
  have held (k : Attention) (ne : k ≠ .preemptEnd) (h : s.holds k = true ∨ k = .lockout ∨ k = .junctionState) :
      ((s.recordLockout x).left .lockout).payOwed.holds k = true := by
    refine leaveSupplied_holds .lockout ne ?_
    rw [recordLockout_holds]
    rcases h with h | h | h
    · exact .inl (by rw [h]; rfl)
    · exact .inl (by rw [h]; simp)
    · exact .inr h
  generalize ((s.recordLockout x).left .lockout).payOwed = v at junction powered off held ⊢
  refine ⟨powered, off, held _ (by decide) (.inr (.inl rfl)), held _ (by decide) (.inr (.inr rfl)),
    fun k h ne => held k ne (.inl h), { s.lockoutRecord x with further := false || !l.isEmpty },
    ⟨rfl, rfl, rfl, rfl⟩, ?_⟩
  simp only [State.withFurther, State.setJunction_junction, junction]
  rfl

/-! ## A step that ends with a red lost (R144, R145) -/

theorem arbitrate_keeps_allOff {s u : State} (state : u.junction.state = .lockout) (h : s.AllOff u) :
    s.AllOff u.renewOffer.arbitrate := by
  rw [← settle_of_none s (redLost_outside (by rw [state]; decide) (by rw [state]; decide))]
  exact settle_keeps_allOff s (by rw [state]; decide) (by rw [state]; decide) h

theorem judgeReds_of_none {u : State} {gs : List GroupIx} (c : Option CircuitIx) (h : ∀ g ∈ gs, u.redLost g = false) :
    u.judgeReds gs c = u := by
  have : gs.filter u.redLost = [] := List.filter_eq_nil_iff.2 fun g mem => by rw [h g mem]; decide
  unfold State.judgeReds
  rw [this]
  rfl

/-- A LOST group among those judged locks the junction out (R145, R171). -/
theorem judgeReds_lost {u : State} {gs : List GroupIx} (c : Option CircuitIx) (safe : u.output.safeEnable = true)
    (h : ∃ g ∈ gs, u.redLost g = true) :
    ∃ g ∈ gs, u.redLost g = true ∧ u.LockedOut (u.judgeReds gs c) (u.redCause g c) := by
  obtain ⟨g, mem, lost⟩ := h
  have some_ : gs.filter u.redLost ≠ [] := List.ne_nil_of_mem (List.mem_filter.2 ⟨mem, lost⟩)
  obtain ⟨first, among, picked⟩ := pick_mem u some_
  obtain ⟨mem', lost'⟩ := List.mem_filter.1 among
  refine ⟨first, mem', lost', ?_⟩
  unfold State.judgeReds
  dsimp only
  rw [picked]
  dsimp only
  split
  · exact handCauses_lockedOut safe _ _
  · exact handCauses_lockedOut (s := u.drawn) safe _ _

theorem enteredRed_of_lost {before u : State} {g : GroupIx} (lost : u.redLost g = true) :
    before.enteredRed u g = true ↔ (before.group g).aspect ≠ (u.group g).aspect := by
  have red : ((u.group g).aspect == .red || (u.group g).aspect == .redAmber) = true := by
    simp only [State.redLost, Bool.and_eq_true] at lost
    exact lost.1.2
  rw [State.enteredRed, red, Bool.and_true, bne_iff_ne, ne_comm]

theorem mem_judged {before u : State} {g : GroupIx} (lost : u.redLost g = true) :
    (g ∈ u.presentGroups.filter fun g => before.judgesAllReds u || before.enteredRed u g) ↔
      (u.group g).config ≠ none
        ∧ (before.judgesAllReds u = true ∨ (before.group g).aspect ≠ (u.group g).aspect) := by
  rw [List.mem_filter, mem_presentGroups, Bool.or_eq_true, enteredRed_of_lost lost]

/-- With no group to be judged LOST the end of a step renews the offer and arbitrates. -/
theorem settle_of_unjudged (before : State) {u : State} (h : ∀ g : GroupIx, (u.group g).config ≠ none →
    u.redLost g = true → before.judgesAllReds u = false ∧ (before.group g).aspect = (u.group g).aspect) :
    before.settle u = u.renewOffer.arbitrate := by
  unfold State.settle State.superviseReds
  rw [judgeReds_of_none]
  intro g mem
  by_contra lost
  rw [Bool.not_eq_false] at lost
  obtain ⟨present, why⟩ := (mem_judged lost).1 mem
  obtain ⟨all, same⟩ := h g present lost
  rcases why with why | why
  · rw [all] at why; cases why
  · exact why same

theorem redStatus_lost {u : State} {g : GroupIx} {k : GroupConfig} (hk : (u.group g).config = some k) :
    u.redStatus g = .lost ↔ (∃ c ∈ k.reds, u.referenced c = true)
      ∧ ∀ c ∈ k.reds, u.referenced c = true → (u.circuit c).lamp.state = .out := by
  have mem (c : CircuitIx) : c ∈ u.referencedReds g ↔ c ∈ k.reds ∧ u.referenced c = true := by
    simp [State.referencedReds, hk]
  unfold State.redStatus
  dsimp only
  constructor
  · intro h
    split_ifs at h with empty all any
    obtain ⟨c, hc⟩ := List.exists_mem_of_ne_nil _ (fun e => empty (List.isEmpty_iff.2 e))
    refine ⟨⟨c, (mem c).1 hc⟩, fun d red ref => ?_⟩
    exact beq_iff_eq.1 (List.all_eq_true.1 all d ((mem d).2 ⟨red, ref⟩))
  · rintro ⟨⟨c, red, ref⟩, out⟩
    have filled : ¬(u.referencedReds g).isEmpty = true := by
      rw [List.isEmpty_iff]
      exact List.ne_nil_of_mem ((mem c).2 ⟨red, ref⟩)
    rw [if_neg filled, if_pos]
    exact List.all_eq_true.2 fun d hd => beq_iff_eq.2 (out d ((mem d).1 hd).1 ((mem d).1 hd).2)

theorem referencedReds_eq (u : State) (g : GroupIx) : u.referencedReds g = (List.finRange 48).filter fun c =>
    (match (u.group g).config with | some k => k.reds.contains c | none => false) && u.referenced c := by
  unfold State.referencedReds
  cases (u.group g).config <;> simp

/-- Settles O51. -/
theorem redLostLocksOut : Obligations.RedLostLocksOut := by
  intro before u
  refine ⟨settle_ends before u, settle_of_unjudged before, fun safe found => ?_, fun g k hk => redStatus_lost hk⟩
  obtain ⟨g, present, lost, why⟩ := found
  obtain ⟨h, _, lost', off⟩ := judgeReds_lost none safe ⟨g, (mem_judged lost).2 ⟨present, why⟩, lost⟩
  have run : before.settle u = (before.superviseReds u).renewOffer.arbitrate := rfl
  rw [run]
  change u.LockedOut (before.superviseReds u) _ at off
  generalize before.superviseReds u = v at off
  obtain ⟨-, off, held, -, -, r, ⟨cause, group, circuit, -⟩, junction⟩ := off
  obtain ⟨-, -, -, -, same, attention, -⟩ := arbitrate_afterEnd v
  have state : v.junction.state = .lockout := by rw [junction]
  refine ⟨(congrArg Junction.state same).trans state, arbitrate_keeps_allOff state off, ?_, r, h, ?_, cause, group, lost', ?_⟩
  · rw [holds_of_attention attention]; exact held
  · rw [same, junction]
  · exact circuit.trans (congrArg List.head? (referencedReds_eq u h))

/-! ## Requests at the end of a step, and DIM (R20, R136) -/

/-- No proving request stands presented. -/
def State.Unrequested (s : State) : Prop := ∀ c : CircuitIx, (s.circuit c).schedule.presented = none

theorem PoweredOff.unrequested {s t : State} (off : s.PoweredOff t) (h : s.Unrequested) : t.Unrequested := by
  intro c
  rw [off.2.1 c]
  split
  · rfl
  · exact h c

theorem handCauses_unrequested (l : List Cause) {s : State} (h : s.Unrequested) : (s.handCauses l).Unrequested := by
  cases safe : s.output.safeEnable with
  | false =>
    intro c
    rw [handCauses_unsupplied l safe]
    exact h c
  | true =>
    cases l with
    | nil => exact h
    | cons x l => exact PoweredOff.unrequested (handCauses_lockedOut safe x l).1 h

theorem settle_unrequested (before : State) {u : State} (h : u.Unrequested) : (before.settle u).Unrequested := by
  have judged : (before.superviseReds u).Unrequested := by
    unfold State.superviseReds State.judgeReds
    dsimp only
    split
    · exact h
    · refine handCauses_unrequested _ ?_
      split
      · exact h
      · exact h
  intro c
  have := (arbitrate_circuit (before.superviseReds u).renewOffer c).2.1
  rcases this with e | e
  · exact e
  · exact e.trans (judged c)

/-- Settles O25. -/
theorem dimChangesTheLevel : Obligations.DimChangesTheLevel := by
  intro s on listens command
  have run : exec command s = .next (s.dimCommand on) := by
    cases on
    · exact exec_of_listens (i := .dimOff) listens rfl
    · exact exec_of_listens (i := .dimOn) listens rfl
  refine ⟨fun same => by rw [run, State.dimCommand, if_pos same], fun ne => ?_⟩
  have set := setDim_set s on
  have frame := setDim_frame s on
  have run' : exec command s = .next (s.settle ((s.setDim on).answer okReply)) := by
    rw [run, State.dimCommand, if_neg ne]
    rfl
  generalize s.setDim on = v at set frame run'
  have requests : (v.answer okReply).Unrequested := fun c => by
    obtain ⟨-, -, change⟩ := set
    exact congrArg (fun k => k.schedule.presented) ((change ne).2 c)
  refine ⟨v.answer okReply, _, settle_ends _ _, run', set, ?_, settle_unrequested s requests, ?_, ?_⟩
  · have dim : v.output.dim = on := by rw [set.1]
    have held : v.resetHeld = false := by rw [frame]; exact listens.1
    simp [State.dimPin, State.answer, dim, held]
  · rw [frame]; rfl
  · rw [frame]; rfl

/-! ## SOFT_RESET (R183) -/

theorem darkened_frame (s : State) : s.darkened = { s with
    groups := s.darkened.groups, circuits := s.darkened.circuits, channel := s.darkened.channel
    output := { s.output with safeEnable := false, flash := s.darkened.output.flash }
    guard := s.darkened.guard
    seq := { s.seq with greenStarts := s.darkened.seq.greenStarts }
    sup := { s.sup with roundOffer := s.darkened.sup.roundOffer } } := by
  unfold State.darkened
  split
  · have frame := (allOff_spec s).1
    generalize s.safeOff = w at frame
    generalize s.allOff = v at frame ⊢
    rw [frame]
  · rename_i h
    rw [Bool.not_eq_true] at h
    rw [← h]

theorem darkened_circuit (s : State) (c : CircuitIx) : s.darkened.circuit c =
    if s.output.safeEnable = true then
      if (s.circuit c).drive.on = true then (s.circuit c).switchedAt s.now false false
      else { s.circuit c with cable := { (s.circuit c).cable with watchPresented := false } }
    else s.circuit c := by
  unfold State.darkened
  split
  · exact (allOff_poweredOff s).2.1 c
  · rfl

theorem darkened_group (s : State) (g : GroupIx) : (s.darkened.group g).config = (s.group g).config
    ∧ (s.darkened.group g).greenOff = if s.output.safeEnable then s.now else (s.group g).greenOff := by
  unfold State.darkened
  split
  · exact ⟨((allOff_spec s).2.2 g).1, ((allOff_spec s).2.2 g).2.1⟩
  · exact ⟨rfl, rfl⟩

theorem endWindow_beginLong (ch : Channel) (now later : Instant) :
    (ch.endWindow now).beginLong later = ch.beginLong later := by
  unfold Channel.endWindow
  split <;> rfl

theorem voidWindow_beginLong (s : State) (now : Instant) :
    s.voidWindow.channel.beginLong now = s.channel.beginLong now := by
  unfold State.voidWindow
  split
  · rfl
  · dsimp only
    split
    · split <;> exact endWindow_beginLong ..
    · exact endWindow_beginLong ..

theorem orderDrive_beginLong (now : Instant) (s : State) (c : CircuitIx) :
    (s.orderDrive c false).channel.beginLong now = s.channel.beginLong now := by
  unfold State.orderDrive State.switchNow
  dsimp only
  repeat' split
  all_goals first | rfl | exact voidWindow_beginLong ..

/-- A long calibration begun after the fall of SAFE_ENABLE is one begun before it. -/
theorem safeOff_beginLong (s : State) (now : Instant) :
    s.safeOff.channel.beginLong now = s.channel.beginLong now := by
  unfold State.safeOff
  generalize List.finRange 48 = l
  have orders := foldl_keeps (fun t => t.channel.beginLong now) (fun t c => t.orderDrive c false)
    (fun t c => orderDrive_beginLong now t c) l (s.setOutput { s.output with safeEnable := false })
  dsimp only at orders ⊢
  split
  · exact (voidWindow_beginLong ..).trans orders
  · exact orders

theorem darkened_channel (s : State) : s.darkened.channel.beginLong s.now = s.channel.beginLong s.now := by
  unfold State.darkened
  split
  · have long := safeOff_beginLong s s.now
    have frame := (allOff_spec s).1
    generalize s.safeOff = w at frame long
    rw [frame]
    exact long
  · rfl

theorem lineAsserted_eq (s : State) (e : EntryIx) : s.lineAsserted e =
    match s.pre.lines.list[e.val]? with
    | some n => n.asserted
    | none => false := by
  unfold State.lineAsserted indexOf
  by_cases h : e.val < 4
  · rw [dif_pos (by simp only [number]; omega)]
    rw [List.getElem?_eq_getElem (by rw [s.pre.lines.size]; exact h)]
    rfl
  · rw [dif_neg (by simp only [number]; omega)]
    rw [List.getElem?_eq_none (by rw [s.pre.lines.size]; omega)]

theorem softReset_group (s : State) (g : GroupIx) : s.softReset.group g = (s.darkened.group g).atSoftReset :=
  Table.get_map ..

theorem softReset_circuit (s : State) (c : CircuitIx) : s.softReset.circuit c = (s.darkened.circuit c).atSoftReset :=
  Table.get_map ..

theorem softReset_entry (s : State) (e : EntryIx) : s.softReset.entry e = s.entryAtSoftReset e := by
  refine (Table.get_ofFn ..).trans ?_
  unfold State.entryAtSoftReset State.lineAsserted State.entry
  rw [darkened_frame]

/-- What SOFT_RESET moves beside the groups, the circuits, the plans and the entries (R183). -/
theorem softReset_frame (s : State) : s.softReset = { s with
    link := { s.link with attention := 0 }
    groups := s.softReset.groups, circuits := s.softReset.circuits
    output := { s.output with safeEnable := false, flash := none }
    guard := [], plans := s.plans.map Plan.atSoftReset
    seq := { Sequencer.atReset s.now with current := s.seq.current }
    pre := { s.pre with entries := s.softReset.pre.entries, lastRefusal := none, chain := [], waiting := [] }
    sched := { s.sched with owed := false }
    channel := s.channel.beginLong s.now
    sup := { settlingEnd := none, roundPointer := 0, roundOffer := none }
    junction := { s.junction with
      state := .dark, entry := s.now, clearance := none, lockout := none, resetCause := .soft } } := by
  have frame := darkened_frame s
  have channel := darkened_channel s
  unfold State.softReset State.preAtSoftReset State.junctionAtSoftReset
  dsimp only
  generalize s.darkened = v at frame channel ⊢
  obtain ⟨groups, circuits, ch, flash, guard, starts, offer, rfl⟩ : ∃ groups circuits ch flash guard starts offer,
      v = { s with
        groups := groups, circuits := circuits, channel := ch
        output := { s.output with safeEnable := false, flash := flash }
        guard := guard, seq := { s.seq with greenStarts := starts }, sup := { s.sup with roundOffer := offer } } :=
    ⟨_, _, _, _, _, _, _, frame⟩
  dsimp only at channel ⊢
  rw [channel]

/-- Settles O5. -/
theorem softResetKeepsAndClears : Obligations.SoftResetKeepsAndClears := by
  intro s listens
  have frame := softReset_frame s
  have group (g : GroupIx) : s.softReset.group g = (s.darkened.group g).atSoftReset := softReset_group s g
  have circuit (c : CircuitIx) : s.softReset.circuit c = (s.darkened.circuit c).atSoftReset := softReset_circuit s c
  have entry (e : EntryIx) : s.softReset.entry e = s.entryAtSoftReset e := softReset_entry s e
  refine ⟨s.softReset.answer okReply, exec_of_listens (i := .softReset) listens rfl, ?_⟩
  generalize s.softReset = t at frame group circuit entry
  refine ⟨by rw [frame]; rfl, by rw [frame]; rfl, by rw [frame]; rfl, by rw [frame]; rfl, by rw [frame]; rfl,
    fun g => ?_, fun c => ?_, by rw [frame]; rfl, by rw [frame]; rfl, fun p => ?_, by rw [frame]; rfl,
    by rw [frame]; rfl, by rw [frame]; rfl, by rw [frame]; rfl, by rw [frame]; rfl, by rw [frame]; rfl,
    fun e => ?_, by rw [frame]; rfl, by rw [frame]; rfl, by rw [frame]; rfl, by rw [frame]; rfl, by rw [frame]; rfl,
    by rw [frame]; exact listens.1⟩
  · rw [show (t.answer okReply).group g = _ from group g]
    exact ⟨(darkened_group s g).1, rfl, rfl, (darkened_group s g).2⟩
  · rw [show (t.answer okReply).circuit c = _ from circuit c, darkened_circuit]
    split
    · split
      · exact ⟨rfl, rfl, rfl, rfl, rfl, rfl, fun _ => rfl⟩
      · rename_i off
        exact ⟨rfl, rfl, rfl, rfl, rfl, rfl, fun _ => Bool.eq_false_of_not_eq_true off⟩
    · rename_i unsafe_
      exact ⟨rfl, rfl, rfl, rfl, rfl, rfl, fun h => absurd h unsafe_⟩
  · rw [frame]
    exact Table.get_map ..
  · rw [show (t.answer okReply).entry e = _ from entry e]
    refine ⟨rfl, rfl, fun k present => ?_⟩
    change (((s.entry e).config.any fun c => c.source == .line) && s.lineAsserted e) = _
    rw [lineAsserted_eq, show (s.entry e).config = some k from present]
    change (k.source == .line && _) = _
    cases k.source <;> rfl

end Sys2Proof.Machine
end

section
/-! Modes, pulses and advances (R69 to R78), PREEMPT and the request lines (R87 to R89). -/

namespace Sys2Proof.Machine

/-! ## A step that moves no aspect, level or junction state -/

/-- Where neither an aspect nor the level nor the junction state has changed no red is judged (R145). -/
theorem settle_of_unmoved {s u : State} (groups : u.groups = s.groups) (dim : u.output.dim = s.output.dim)
    (state : u.junction.state = s.junction.state) : s.settle u = u.renewOffer.arbitrate := by
  refine settle_of_unjudged s fun g _ _ => ⟨?_, ?_⟩
  · simp [State.judgesAllReds, dim, state]
  · unfold State.group
    rw [groups]

/-! ## Min greens and advances (R76, R77) -/

theorem expired_iff (s : State) (gs : List GroupIx) : s.expired gs = true ↔
    ∀ g ∈ gs, ∀ a, s.seq.greenStarts.get g = some a → a + 100 * s.minGreen g ≤ s.now := by
  unfold State.expired State.expiries
  rw [List.all_eq_true]
  constructor
  · intro h g mem a start
    have among : a + ms (s.minGreen g) ∈ gs.filterMap fun g =>
        (s.seq.greenStarts.get g).map fun t => t + ms (s.minGreen g) :=
      List.mem_filterMap.2 ⟨g, mem, by rw [start]; rfl⟩
    exact of_decide_eq_true (h _ among)
  · intro h t among
    obtain ⟨g, mem, start⟩ := List.mem_filterMap.1 among
    cases e : s.seq.greenStarts.get g with
    | none => rw [e] at start; cases start
    | some a =>
      rw [e] at start
      cases start
      exact decide_eq_true (h g mem a e)

theorem sequencing_iff (s : State) : s.sequencing = true ↔ s.seq.state = .stage ∨ s.seq.state = .interstage := by
  simp [State.sequencing, or_comm]

/-- Settles O32. -/
theorem advancesEndOrLatch : Obligations.AdvancesEndOrLatch := by
  intro s live stepping passed
  have expired : passed ↔ s.seq.state = .stage ∧ s.expired s.seq.gaining = true := by
    rw [expired_iff]
  have judged : s.advanceJudged = if stepping then
      if s.seq.latch then .discarded
      else if s.seq.state = .stage ∧ s.expired s.seq.gaining then .ends else .latches
      else .ignored := by
    unfold State.advanceJudged
    simp only [sequencing_iff, Option.isNone_iff_eq_none]
    rfl
  have line := exec_of_live (i := .advanceLineActive) live rfl
  have ends (h : stepping) (latch : s.seq.latch = false) (p : passed) : s.advanceJudged = .ends := by
    rw [judged, if_pos h, latch, if_neg Bool.false_ne_true, if_pos (expired.1 p)]
  have latches (h : stepping) (latch : s.seq.latch = false) (p : ¬passed) : s.advanceJudged = .latches := by
    rw [judged, if_pos h, latch, if_neg Bool.false_ne_true, if_neg (mt expired.2 p)]
  have discards (h : stepping) (latch : s.seq.latch = true) : s.advanceJudged = .discarded := by
    rw [judged, if_pos h, latch, if_pos rfl]
  have ignores (h : ¬stepping) : s.advanceJudged = .ignored := by rw [judged, if_neg h]
  refine ⟨fun idle => ?_, fun h latch p => by rw [line, ends h latch p], fun h latch p => ?_,
    fun h latch => by rw [line, discards h latch], fun h => by rw [line, ignores h], fun h latch p => ?_⟩
  · have command := exec_of_listens (i := .advance) ⟨live, idle⟩ rfl
    exact ⟨fun h latch p => by rw [command, ends h latch p], fun h latch p => by rw [command, latches h latch p]; rfl,
      fun h latch => by rw [command, discards h latch], fun h => by rw [command, ignores h]⟩
  · rw [line, latches h latch p]
    rfl
  · rw [exec_of_live (i := .latchTaken) live rfl]
    have due : s.latchDue = true := by
      obtain ⟨mode, -, top⟩ := h
      obtain ⟨stage, min⟩ := expired.1 p
      simp [State.latchDue, latch, mode, top, stage, min]
    simp only [State.whenDue, due, if_true]
    rfl

/-! ## SYNC pulses and the sync watch (R70 to R75) -/

theorem pulseIsNoise_iff (s : State) (c : Nat) :
    s.pulseIsNoise c = true ↔ ∃ a, s.seq.lastPulse = some a ∧ 2 * (s.now - a) < 100 * c := by
  unfold State.pulseIsNoise
  cases s.seq.lastPulse with
  | none => simp
  | some a =>
    simp only [Option.any_some, Option.some.injEq, exists_eq_left', ms]
    exact decide_eq_true_iff

theorem preempted_iff (s : State) : s.preempted = true ↔ ∃ c ∈ s.pre.chain, c.invoker ≠ none := by
  simp [State.preempted, Option.isSome_iff_ne_none]

theorem stretched_iff (r : Plan) : r.stretched = true ↔
    ∃ ph b d x, r = .valid ph b d ∧ d.base = some x ∧ x.stretched = true := by
  cases r with
  | free => simp [Plan.stretched]
  | draft b => simp [Plan.stretched]
  | valid ph b d => simp [Plan.stretched, Option.any_eq_true]

/-- The running plan is stretched, or a preemption context is in the chain (R74). -/
def State.Strained (s : State) : Prop :=
  (∃ c ∈ s.pre.chain, c.invoker ≠ none)
    ∨ ∃ p ph b d x, s.seq.current = some p ∧ s.plan p = .valid ph b d ∧ d.base = some x ∧ x.stretched = true

theorem strained_iff (s : State) :
    (s.preempted || s.seq.current.any fun p => (s.plan p).stretched) = true ↔ s.Strained := by
  rw [Bool.or_eq_true, preempted_iff, State.Strained]
  refine or_congr_right ?_
  cases s.seq.current with
  | none => simp
  | some p => simp [stretched_iff]

theorem syncWithin_of_strained {s : State} (h : s.Strained) : s.syncWithin = .notHeld :=
  if_pos ((strained_iff s).2 h)

theorem syncWithin_of_loose {s : State} (h : ¬s.Strained) : s.syncWithin = .held := if_neg (mt (strained_iff s).1 h)

/-- The remainder and the count of free values after an accepted pulse (R70 to R73; log entry 22). -/
theorem acceptPulse_spec (s : State) (b : PlanBody) (x : BaseDerived) :
    (s.acceptPulse b x).seq = { s.seq with
        lastPulse := some s.now, watchStart := some s.now, remainder := s.pulseRemainder b x, sync := s.syncWithin }
      ∧ (s.acceptPulse b x).holds .syncRegained = (s.holds .syncRegained || s.seq.sync == .lost)
      ∧ s.acceptPulse b x = { s with
          seq := (s.acceptPulse b x).seq, draws := (s.acceptPulse b x).draws
          link := { s.link with attention := (s.acceptPulse b x).link.attention } } := by
  obtain ⟨w, hw⟩ : ∃ w, w = if s.positionNow.isSome || x.stretched || s.preempted then s else s.drawn := ⟨_, rfl⟩
  have frame : w = { s with draws := w.draws } := by rw [hw]; split <;> rfl
  have run : s.acceptPulse b x = (if s.seq.sync = .lost then w.raise .syncRegained else w).setSeq { s.seq with
      lastPulse := some s.now, watchStart := some s.now, remainder := s.pulseRemainder b x, sync := s.syncWithin } := by
    unfold State.acceptPulse
    dsimp only
    rw [← hw]
    have same : (if s.seq.sync = .lost then w.raise .syncRegained else w).seq = s.seq := by
      rw [frame]
      split <;> rfl
    rw [same]
  rw [run]
  refine ⟨rfl, ?_, ?_⟩
  · have held : w.holds .syncRegained = s.holds .syncRegained := by rw [frame]; rfl
    split
    · rename_i lost
      refine (raise_holds w _ _).trans ?_
      rw [held, lost]
      rfl
    · rename_i kept
      have : (s.seq.sync == .lost) = false := by simpa using kept
      rw [this, Bool.or_false]
      exact held
  · rw [frame]
    split <;> rfl

/-- Settles O33. -/
theorem pulsesAndTheSyncWatch : Obligations.PulsesAndTheSyncWatch := by
  refine ⟨fun s b d x live => ?_, fun s b d x w live synced running lost watch base => ?_, fun s => ?_⟩
  · have run := exec_of_live (i := .syncPulse) live rfl
    refine ⟨fun idle => ?_, fun base noise => ?_, fun synced running base quiet => ?_⟩
    · have : ¬(s.junction.mode = .synced ∧ s.sequencing = true) := by
        rw [sequencing_iff]
        rintro ⟨mode, state⟩
        rcases idle with h | h | h
        · exact h mode
        · rw [h] at state; rcases state with e | e <;> cases e
        · rw [h] at state; rcases state with e | e <;> cases e
      rw [run, State.pulse, if_neg this]
    · rw [run, State.pulse]
      split
      · rw [base]
        simp only [(pulseIsNoise_iff s b.cycleTime).2 noise, if_true]
      · rfl
    · have accepted : s.pulse = s.acceptPulse b x := by
        have loud : ¬s.pulseIsNoise b.cycleTime = true := by
          rw [pulseIsNoise_iff]
          rintro ⟨a, last, near⟩
          exact absurd near (Nat.not_lt.2 (quiet a last))
        rw [State.pulse, if_pos ⟨synced, (sequencing_iff s).2 running⟩, base]
        simp only [if_neg loud]
      obtain ⟨seq, held, frame⟩ := acceptPulse_spec s b x
      refine ⟨s.acceptPulse b x, by rw [run, accepted], ?_, ?_, ?_, held, frame⟩
      · rw [seq]
      · intro strained
        rw [seq]
        simp only [State.pulseRemainder]
        rw [if_pos (by simpa using strained)]
      · intro loose free p at_
        rw [seq]
        simp [State.pulseRemainder, loose, free, State.pulsePosition, at_]
  · have run := exec_of_live (i := .syncWatchExpiry) live rfl
    have expired : s.syncExpired = decide (w + 100 * (2 * x.ceff + 50) ≤ s.now) := by
      have kept : (s.seq.sync != .lost) = true := bne_iff_ne.2 lost
      simp [State.syncExpired, synced, (sequencing_iff s).2 running, kept, watch, base, ms] <;> rfl
    refine ⟨fun due => ?_, fun early => ?_⟩
    · rw [run, expired, if_pos (decide_eq_true due)]
      rfl
    · rw [run, expired, if_neg (by simpa using early)]
  · exact ⟨syncWithin_of_strained, syncWithin_of_loose⟩

/-! ## PREEMPT (R88, R89) -/

theorem engaged_iff (s : State) (e : EntryIx) : (s.inChain e || s.isWaiting e) = true ↔ e ∈ s.engaged := by
  simp only [State.inChain, State.isWaiting, State.engaged, Bool.or_eq_true, List.any_eq_true, List.mem_append,
    List.mem_filterMap, List.mem_map, Option.any_eq_true, Option.map_eq_some_iff, beq_iff_eq]

theorem releaseEntry_spec (s : State) (e : EntryIx) :
    (s.releaseEntry e).entry e = { s.entry e with asserted := false, stuck := false }
      ∧ (∀ i : EntryIx, i ≠ e → (s.releaseEntry e).entry i = s.entry i)
      ∧ s.releaseEntry e = { s with pre := { s.pre with
          entries := (s.releaseEntry e).pre.entries, waiting := s.pre.waiting.filter fun w => w.entry != e } } :=
  ⟨Table.get_set_self .., fun _ ne => Table.get_set_ne _ _ ne, rfl⟩

/-- Settles O35. -/
theorem preemptCommandsAnswer : Obligations.PreemptCommandsAnswer := by
  intro s e listens
  have assert := exec_of_listens (i := .preemptAssert (number e)) listens rfl
  have release := exec_of_listens (i := .preemptRelease (number e)) listens rfl
  rw [indexOf_number] at assert release
  dsimp only at assert release
  refine ⟨fun n out => ?_, fun line => ?_, fun command => ⟨fun mem held => ?_, fun mem free => ?_, fun out => ?_,
    fun in_ empty => ?_, fun in_ present => ⟨fun free => ?_, fun held => ?_⟩⟩⟩
  · rw [exec_of_listens (i := .preemptAssert n) listens rfl, exec_of_listens (i := .preemptRelease n) listens rfl,
      indexOf_outside out]
    exact ⟨rfl, rfl⟩
  · rw [assert, release, if_pos line, if_pos line]
    exact ⟨rfl, rfl⟩
  · rw [assert, command, if_neg Bool.false_ne_true, State.preemptAssert, if_pos ((engaged_iff s e).2 mem), if_pos held]
  · have run : exec (.preemptAssert (number e)) s =
        .next (((s.setAsserted e true).drawn).accept (.word (s.free % 3))) := by
      rw [assert, command, if_neg Bool.false_ne_true, State.preemptAssert, if_pos ((engaged_iff s e).2 mem),
        if_neg (by rw [free]; decide)]
    exact ⟨_, _, run, by omega, rfl, Table.get_set_self .., fun _ ne => Table.get_set_ne _ _ ne, rfl⟩
  · rw [release, command, if_neg Bool.false_ne_true, State.preemptRelease, if_pos out]
  · rw [release, command, if_neg Bool.false_ne_true, State.preemptRelease, if_neg (Nat.not_lt.2 in_),
      if_pos (by rw [empty]; rfl)]
  · rw [release, command, if_neg Bool.false_ne_true, State.preemptRelease, if_neg (Nat.not_lt.2 in_),
      if_neg (by rwa [Option.isNone_iff_eq_none]), if_neg (by rw [free]; decide)]
  · have run : exec (.preemptRelease (number e)) s = .next ((s.releaseEntry e).accept .empty) := by
      rw [release, command, if_neg Bool.false_ne_true, State.preemptRelease, if_neg (Nat.not_lt.2 in_),
        if_neg (by rwa [Option.isNone_iff_eq_none]), if_pos held]
    obtain ⟨own, others, -⟩ := releaseEntry_spec s e
    exact ⟨_, run, own, others, rfl, rfl, rfl⟩

/-! ## The request lines (R87) -/

/-- Settles O37. -/
theorem requestLinesQualify : Obligations.RequestLinesQualify := by
  intro s n a line
  have change : exec (.prqLineChange (number n) a) s = .next (match indexOf 4 (number n) with
      | none => s
      | some n => if (s.pre.lines.get n).active = a then s
        else s.setLine n { s.pre.lines.get n with active := a, since := s.now }) := rfl
  rw [indexOf_number] at change
  dsimp only at change
  refine ⟨fun ne => by rw [change, if_neg ne], fun same => by rw [change, if_pos same], fun live => ?_⟩
  have asserts := exec_of_live (i := .prqAsserted (number n)) live rfl
  have releases := exec_of_live (i := .prqReleased (number n)) live rfl
  rw [indexOf_number] at asserts releases
  dsimp only at asserts releases
  have qualified (off : line.asserted = false) (active : line.active = true) (since : line.since + 200 ≤ s.now) :
      exec (.prqAsserted (number n)) s = .next (s.settle (s.qualifyAsserted n)) := by
    have due : s.prqAssertDue n = true := by
      simp only [State.prqAssertDue, Bool.and_eq_true, Bool.not_eq_true', decide_eq_true_eq]
      exact ⟨⟨off, active⟩, since⟩
    rw [asserts, State.whenDue, if_pos due]
  refine ⟨fun off active since unbound => ?_, fun off active since bound mem => ?_, fun on inactive since => ?_⟩
  · refine ⟨_, qualified off active since, ?_⟩
    rw [State.qualifyAsserted, unbound]
    exact settle_ends ..
  · rw [qualified off active since, State.qualifyAsserted, if_pos bound, State.assertEntry]
    have mem' : lineEntry n ∈ ((s.setLine n { line with asserted := true }).setAsserted (lineEntry n) true).engaged := mem
    rw [if_pos ((engaged_iff _ _).2 mem'), settle_of_unmoved (by rfl) (by rfl) (by rfl)]
    rfl
  · have due : s.prqReleaseDue n = true := by
      simp only [State.prqReleaseDue, Bool.and_eq_true, Bool.not_eq_true', decide_eq_true_eq]
      exact ⟨⟨on, inactive⟩, since⟩
    refine ⟨s.qualifyReleased n, by rw [releases, if_pos due], ?_⟩
    unfold State.qualifyReleased
    dsimp only
    split
    · rename_i bound
      obtain ⟨own, -, -⟩ := releaseEntry_spec (s.setLine n { s.pre.lines.get n with asserted := false }) (lineEntry n)
      exact ⟨Table.get_set_self .., fun m ne => Table.get_set_ne _ _ ne,
        fun _ => ⟨congrArg Entry.asserted own, congrArg Entry.stuck own, rfl⟩,
        fun unbound => absurd bound (by rw [unbound]; decide), rfl⟩
    · rename_i unbound
      exact ⟨Table.get_set_self .., fun m ne => Table.get_set_ne _ _ ne, fun bound => absurd bound unbound,
        fun _ => ⟨rfl, rfl⟩, rfl⟩

end Sys2Proof.Machine
end

section
/-! Transitions of stages: the orders to groups, the guard's requests, the opening of an interstage and the start of a
stage (R12, R31 to R34, R63 to R68, R95, R96, R102). -/

namespace Sys2Proof.Machine

/-! ## Orders to groups -/

/-- `t` is `s` with aspects, drives and requests moved: what an order to a group can move. -/
def State.Aspects (s t : State) : Prop :=
  t = { s with
      groups := t.groups, guard := t.guard, circuits := t.circuits, channel := t.channel
      output := { s.output with flash := t.output.flash }
      seq := { s.seq with greenStarts := t.seq.greenStarts } }

theorem Aspects_refl (s : State) : s.Aspects s := rfl

theorem Aspects_trans {s t u : State} (h : s.Aspects t) (h' : t.Aspects u) : s.Aspects u := by
  rw [State.Aspects] at *
  rw [h', h]

theorem setAspect_aspects (s : State) (g : GroupIx) (a : Aspect) : s.Aspects (s.setAspect g a) := by
  rw [State.Aspects, setAspect_spec]
  split <;> rfl

theorem setAwaited_aspects (s : State) (g : GroupIx) (r : Group) : s.Aspects (s.setGroup g r) := rfl

theorem guardJudge_aspects (s : State) : s.Aspects s.guardJudge := by
  rw [State.Aspects, guardJudge_spec]

theorem cancel_aspects (s : State) (g : GroupIx) : s.Aspects (s.cancel g) := by
  unfold State.cancel State.dropAwaited
  split <;> first
    | exact Aspects_refl s
    | exact Aspects_trans (setAwaited_aspects ..) (guardJudge_aspects _)
    | exact Aspects_trans (setAwaited_aspects ..) (setAspect_aspects ..)

theorem lose_aspects (s : State) (g : GroupIx) : s.Aspects (s.lose g) := by
  unfold State.lose
  split <;> first
    | exact Aspects_refl s
    | exact setAspect_aspects ..
    | exact cancel_aspects ..

theorem showRed_aspects (s : State) (g : GroupIx) : s.Aspects (s.showRed g) := by
  unfold State.showRed
  split <;> first
    | exact Aspects_refl s
    | exact setAspect_aspects ..
    | exact lose_aspects ..
    | exact cancel_aspects ..

theorem showFlash_aspects (s : State) (g : GroupIx) : s.Aspects (s.showFlash g) := by
  unfold State.showFlash
  dsimp only
  split
  · exact Aspects_refl s
  · rename_i k _
    generalize (if k.vehicle.isSome then Aspect.flashAmber else Aspect.dark) = a
    split
    · exact setAwaited_aspects ..
    · exact Aspects_trans (setAwaited_aspects ..) (setAspect_aspects ..)

theorem each_aspects {order : State → GroupIx → State} (h : ∀ (s : State) (g : GroupIx), s.Aspects (order s g)) (l : List GroupIx) (s : State) :
    s.Aspects (s.each order l) := by
  induction l generalizing s with
  | nil => exact Aspects_refl s
  | cons g l ih => exact Aspects_trans (h s g) (ih (order s g))

theorem requestGreen_aspects (s : State) (g : GroupIx) (change : Instant) : s.Aspects (s.requestGreen g change) := by
  unfold State.requestGreen
  split
  · exact Aspects_refl s
  · split
    · exact Aspects_refl s
    · exact Aspects_trans (t := s.setGuard _) (by rw [State.Aspects]; rfl) (guardJudge_aspects _)

/-! ## The aspects after an order -/

theorem guardJudge_aspect (s : State) (g : GroupIx) : (s.guardJudge.group g).aspect = (s.group g).aspect
    ∧ (s.guardJudge.group g).config = (s.group g).config := by
  obtain ⟨a, e⟩ := guardJudge_group s g
  rw [e]
  exact ⟨rfl, rfl⟩

theorem setAspect_aspect (s : State) (g h : GroupIx) (a : Aspect) :
    ((s.setAspect g a).group h).aspect = if h = g then a else (s.group h).aspect := by
  obtain ⟨w, e⟩ := setAspect_group s g h a
  rw [e]

theorem setAspect_config (s : State) (g h : GroupIx) (a : Aspect) :
    ((s.setAspect g a).group h).config = (s.group h).config := by
  obtain ⟨w, e⟩ := setAspect_group s g h a
  rw [e]

/-- A setting of a group's awaited green start moves no aspect. -/
theorem setAwaited_aspect (s : State) (g h : GroupIx) (a : Option Instant) :
    ((s.setGroup g { s.group g with awaited := a }).group h).aspect = (s.group h).aspect := by
  rw [State.setGroup_group]
  split
  · rename_i e; subst e; rfl
  · rfl

theorem cancel_aspect (s : State) (g h : GroupIx) : ((s.cancel g).group h).aspect =
    if h = g ∧ (s.group g).config ≠ none ∧ (s.group g).aspect = .redAmber then .red else (s.group h).aspect := by
  unfold State.cancel State.dropAwaited
  cases hk : (s.group g).config with
  | none => simp
  | some k =>
    cases ha : (s.group g).aspect with
    | redAmber =>
      dsimp only
      rw [setAspect_aspect, setAwaited_aspect]
      by_cases e : h = g <;> simp [e]
    | red | amber =>
      dsimp only
      rw [(guardJudge_aspect _ h).1, setAwaited_aspect, if_neg (by simp)]
    | green | dark | flashAmber => simp

/-- The aspect after LOSE (R12, R13). -/
def GroupConfig.lost (k : GroupConfig) : Aspect → Aspect
  | .green => if k.vehicle.isSome then .amber else .red
  | .redAmber => .red
  | a => a

theorem GroupConfig.lost_lost (k : GroupConfig) (a : Aspect) : k.lost (k.lost a) = k.lost a := by
  cases a with
  | green => cases h : k.vehicle.isSome <;> simp [GroupConfig.lost, h]
  | dark | red | redAmber | amber | flashAmber => rfl

theorem lose_aspect (s : State) (g h : GroupIx) : ((s.lose g).group h).aspect =
    match (s.group g).config with
    | none => (s.group h).aspect
    | some k => if h = g then k.lost (s.group g).aspect else (s.group h).aspect := by
  unfold State.lose
  cases hk : (s.group g).config with
  | none => rfl
  | some k =>
    cases ha : (s.group g).aspect with
    | green => exact setAspect_aspect ..
    | redAmber => exact (cancel_aspect ..).trans (by by_cases e : h = g <;> simp [e, hk, ha, GroupConfig.lost])
    | amber | red | dark | flashAmber =>
      dsimp only
      split
      · rename_i e; subst e; exact ha
      · rfl

theorem lose_config (s : State) (g h : GroupIx) : ((s.lose g).group h).config = (s.group h).config :=
  still_config (each_lose_still s [g]) h

/-- The aspects after LOSE given to each group of a list. -/
theorem each_lose_aspect (l : List GroupIx) (s : State) (h : GroupIx) : ((s.each State.lose l).group h).aspect =
    match (s.group h).config with
    | none => (s.group h).aspect
    | some k => if h ∈ l then k.lost (s.group h).aspect else (s.group h).aspect := by
  induction l generalizing s with
  | nil => cases (s.group h).config <;> simp [State.each]
  | cons g l ih =>
    rw [show s.each State.lose (g :: l) = (s.lose g).each State.lose l from rfl, ih, lose_config, lose_aspect]
    by_cases e : h = g
    · subst e
      cases (s.group h).config with
      | none => rfl
      | some k => simp [GroupConfig.lost_lost]
    · cases hk : (s.group h).config with
      | none => cases (s.group g).config <;> simp [e]
      | some k => cases (s.group g).config <;> simp [e]

/-! ## Requests to the guard (R31 to R34) -/

/-- The group awaits its green start, or a request of the instant stands open. -/
def State.Asks (s : State) (g : GroupIx) (now : Instant) : Prop :=
  (s.group g).awaited ≠ none ∨ ∃ r ∈ s.guard, r.group = g ∧ r.change = now

/-- The group takes a GAIN: it is present and RED, RED_AMBER or AMBER (R11). -/
def State.Takes (s : State) (g : GroupIx) : Prop :=
  (s.group g).config ≠ none ∧ ((s.group g).aspect = .red ∨ (s.group g).aspect = .redAmber ∨ (s.group g).aspect = .amber)

theorem gain_awaited (s : State) (g h : GroupIx) (tg : Instant) : ((s.gain g tg).group h).awaited =
    if h = g ∧ (s.group g).config.isSome ∧ ((s.group g).aspect = .red ∨ (s.group g).aspect = .redAmber
      ∨ (s.group g).aspect = .amber) then some tg else (s.group h).awaited := by
  unfold State.gain
  dsimp only
  split
  · rename_i takes
    rw [State.setGroup_group]
    by_cases e : h = g
    · rw [if_pos e, if_pos ⟨e, takes⟩]
    · rw [if_neg e, if_neg fun h => e h.1]
  · rename_i not
    rw [if_neg fun h => not h.2]

theorem gain_takes (s : State) (g h : GroupIx) (tg : Instant) : (s.gain g tg).Takes h ↔ s.Takes h := by
  obtain ⟨a, e⟩ := gain_group s g h tg
  unfold State.Takes
  rw [e]

theorem guardWalk_asks (l : List GuardRequest) (older : List GuardRequest) (s : State) (g : GroupIx) (now : Instant)
    (takes : s.Takes g)
    (h : (s.group g).awaited ≠ none ∨ (∃ r ∈ older, r.group = g ∧ r.change = now)
      ∨ ∃ r ∈ l, r.group = g ∧ r.change = now) : (guardWalk older l s).Asks g now := by
  induction l generalizing older s with
  | nil =>
    rcases h with h | h | ⟨_, h, _⟩
    · exact .inl h
    · exact .inr h
    · cases h
  | cons q l ih =>
    unfold guardWalk
    split
    · refine ih older _ ((gain_takes ..).2 takes) ?_
      rw [gain_awaited]
      by_cases e : g = q.group
      · subst e
        rw [if_pos ⟨rfl, Option.isSome_iff_ne_none.2 takes.1, takes.2⟩]
        exact .inl (by simp)
      · rw [if_neg fun h => e h.1]
        rcases h with h | h | ⟨r, mem, at_, rest⟩
        · exact .inl h
        · exact .inr (.inl h)
        · rcases List.mem_cons.1 mem with rfl | mem
          · exact absurd at_.symm e
          · exact .inr (.inr ⟨r, mem, at_, rest⟩)
    · refine ih (older ++ [q]) s takes ?_
      rcases h with h | ⟨r, mem, at_⟩ | ⟨r, mem, at_⟩
      · exact .inl h
      · exact .inr (.inl ⟨r, List.mem_append_left _ mem, at_⟩)
      · rcases List.mem_cons.1 mem with rfl | mem
        · exact .inr (.inl ⟨r, List.mem_append_right _ (List.mem_singleton_self r), at_⟩)
        · exact .inr (.inr ⟨r, mem, at_⟩)

theorem guardJudge_asks {s : State} {g : GroupIx} {now : Instant} (takes : s.Takes g) (h : s.Asks g now) :
    s.guardJudge.Asks g now :=
  guardWalk_asks s.guard [] s g now takes (h.imp_right .inr)

theorem requestGreen_aspect (s : State) (g h : GroupIx) (change : Instant) :
    ((s.requestGreen g change).group h).aspect = (s.group h).aspect
      ∧ ((s.requestGreen g change).group h).config = (s.group h).config := by
  unfold State.requestGreen
  split
  · exact ⟨rfl, rfl⟩
  · split
    · exact ⟨rfl, rfl⟩
    · exact guardJudge_aspect ..

theorem requestGreen_takes (s : State) (g h : GroupIx) (change : Instant) :
    (s.requestGreen g change).Takes h ↔ s.Takes h := by
  unfold State.Takes
  rw [(requestGreen_aspect s g h change).1, (requestGreen_aspect s g h change).2]

/-- A request leaves its own group asking, and every other that asks (R31, R34). -/
theorem requestGreen_asks {s : State} {g h : GroupIx} {now : Instant} (takes : s.Takes h)
    (asks : h = g ∨ s.Asks h now) : (s.requestGreen g now).Asks h now := by
  have same (ne : h ≠ g) : s.Asks h now := asks.resolve_left ne
  unfold State.requestGreen
  split
  · rename_i absent
    refine same fun e => takes.1 ?_
    rw [e]
    exact Option.isNone_iff_eq_none.1 absent
  · split
    · rename_i green
      refine same fun e => ?_
      rw [← e] at green
      rcases takes.2 with h | h | h <;> rw [h] at green <;> cases green
    · refine guardJudge_asks takes ?_
      by_cases e : h = g
      · exact .inr ⟨_, List.mem_append_right _ (List.mem_singleton_self _), e.symm, rfl⟩
      · rcases same e with a | ⟨r, mem, at_, change⟩
        · exact .inl a
        · refine .inr ⟨r, List.mem_append_left _ (List.mem_filter.2 ⟨mem, ?_⟩), at_, change⟩
          rw [at_]
          exact bne_iff_ne.2 e

/-- Requests made for a list of groups. -/
def State.requestAll (s : State) (gs : List GroupIx) (now : Instant) : State :=
  gs.foldl (fun u g => u.requestGreen g now) s

theorem requestAll_spec (l : List GroupIx) (s : State) (now : Instant) : s.Aspects (s.requestAll l now)
    ∧ (∀ h, ((s.requestAll l now).group h).aspect = (s.group h).aspect
        ∧ ((s.requestAll l now).group h).config = (s.group h).config)
    ∧ ∀ h, s.Takes h → h ∈ l ∨ s.Asks h now → (s.requestAll l now).Asks h now := by
  induction l generalizing s with
  | nil => exact ⟨Aspects_refl s, fun _ => ⟨rfl, rfl⟩, fun h _ asks => asks.resolve_left (List.not_mem_nil)⟩
  | cons g l ih =>
    obtain ⟨frame, aspect, asks⟩ := ih (s.requestGreen g now)
    refine ⟨Aspects_trans (requestGreen_aspects ..) frame, fun h => ?_, fun h takes asked => ?_⟩
    · obtain ⟨a, k⟩ := aspect h
      obtain ⟨a', k'⟩ := requestGreen_aspect s g h now
      exact ⟨a.trans a', k.trans k'⟩
    · refine asks h ((requestGreen_takes ..).2 takes) ?_
      rw [List.mem_cons, or_assoc] at asked
      rcases asked with e | mem | asked
      · exact .inr (requestGreen_asks takes (.inl e))
      · exact .inl mem
      · exact .inr (requestGreen_asks takes (.inr asked))

/-! ## An interstage opened (R63, R95, R102) -/

/-- The instant at which the losing groups are given LOSE. -/
def State.loseInstant (s : State) (losing : List GroupIx) (delayed : Bool) : Instant :=
  latest s.now (if delayed then s.expiries losing else [])

/-- The sequencer as an interstage is opened. -/
def Sequencer.opened (q : Sequencer) (now : Instant) (stage : Nat) (losing gaining : List GroupIx)
    (loseAt : Option Instant) (resumed slackLength : Option Nat) : Sequencer :=
  { q with
    state := .interstage, stage := some stage, interStart := now, gaining := gaining, losing := losing
    loseAt := loseAt, length := none, holdMinGreen := false, resumed := resumed, slackLength := slackLength
    dwellOver := false, above := 0 }

/-- The groups after the LOSE of an opening, where its instant is now. -/
def State.losesNow (s : State) (losing : List GroupIx) (delayed : Bool) : State :=
  if s.loseInstant losing delayed ≤ s.now then s.each State.lose losing else s

/-- The state of an interstage just opened, before its end is judged. -/
def State.opened (s : State) (stage : Nat) (losing gaining : List GroupIx) (delayed : Bool)
    (resumed slackLength : Option Nat) : State :=
  ((s.losesNow losing delayed).setSeq ((s.losesNow losing delayed).seq.opened s.now stage losing gaining
    (if s.loseInstant losing delayed ≤ s.now then none else some (s.loseInstant losing delayed)) resumed
    slackLength)).requestAll gaining s.now

theorem openInterstage_eq (s : State) (stage : Nat) (losing gaining : List GroupIx) (delayed : Bool)
    (resumed slackLength : Option Nat) : s.openInterstage stage losing gaining delayed resumed slackLength =
    if (s.opened stage losing gaining delayed resumed slackLength).interstageDone then
      (s.opened stage losing gaining delayed resumed slackLength).beginStage
    else s.opened stage losing gaining delayed resumed slackLength := rfl

theorem losesNow_aspects (s : State) (losing : List GroupIx) (delayed : Bool) : s.Aspects (s.losesNow losing delayed) := by
  unfold State.losesNow
  split
  · exact each_aspects lose_aspects losing s
  · exact Aspects_refl s

theorem losesNow_config (s : State) (losing : List GroupIx) (delayed : Bool) (g : GroupIx) :
    ((s.losesNow losing delayed).group g).config = (s.group g).config := by
  unfold State.losesNow
  split
  · exact still_config (each_lose_still s losing) g
  · rfl

section Opened

variable (s : State) (stage : Nat) (losing gaining : List GroupIx) (delayed : Bool) (resumed slackLength : Option Nat)

/-- What the opening of an interstage moves: the aspects, and the sequencer's items of the transition. -/
theorem opened_frame : s.opened stage losing gaining delayed resumed slackLength = { s with
    groups := (s.opened stage losing gaining delayed resumed slackLength).groups
    guard := (s.opened stage losing gaining delayed resumed slackLength).guard
    circuits := (s.opened stage losing gaining delayed resumed slackLength).circuits
    channel := (s.opened stage losing gaining delayed resumed slackLength).channel
    output := { s.output with flash := (s.opened stage losing gaining delayed resumed slackLength).output.flash }
    seq := { s.seq.opened s.now stage losing gaining
        (if s.loseInstant losing delayed ≤ s.now then none else some (s.loseInstant losing delayed)) resumed slackLength with
      greenStarts := (s.opened stage losing gaining delayed resumed slackLength).seq.greenStarts } } := by
  unfold State.opened
  have lost := losesNow_aspects s losing delayed
  generalize s.losesNow losing delayed = v at lost
  generalize (if s.loseInstant losing delayed ≤ s.now then none else some (s.loseInstant losing delayed)) = at_
  have asked := (requestAll_spec gaining (v.setSeq (v.seq.opened s.now stage losing gaining at_ resumed slackLength))
    s.now).1
  generalize (v.setSeq (v.seq.opened s.now stage losing gaining at_ resumed slackLength)).requestAll gaining s.now = w
    at asked
  rw [State.Aspects] at lost asked
  rw [asked, lost]
  rfl

theorem opened_aspect (g : GroupIx) : ((s.opened stage losing gaining delayed resumed slackLength).group g).aspect =
    ((s.losesNow losing delayed).group g).aspect :=
  ((requestAll_spec gaining _ s.now).2.1 g).1

/-- Each gaining group that takes a GAIN awaits its green start or has been requested (R63). -/
theorem opened_asks {g : GroupIx} (mem : g ∈ gaining) (takes : (s.losesNow losing delayed).Takes g) :
    (s.opened stage losing gaining delayed resumed slackLength).Asks g s.now :=
  (requestAll_spec gaining _ s.now).2.2 g takes (.inl mem)

end Opened

/-- A group that is not told to lose green keeps its aspect. -/
theorem losesNow_aspect_of_not_mem {s : State} {losing : List GroupIx} {delayed : Bool} {g : GroupIx} (h : g ∉ losing) :
    ((s.losesNow losing delayed).group g).aspect = (s.group g).aspect := by
  unfold State.losesNow
  split
  · rw [each_lose_aspect]
    cases (s.group g).config <;> simp [h]
  · rfl

/-! ## The start of a stage (R64, R67, R68, R73, R96) -/

/-- What the start of a stage moves of the sequencer. -/
theorem beginBase_frame (q : Sequencer) (now : Instant) (m : Mode) (b : PlanBody) (d : Derived) (x : BaseDerived) :
    q.beginBase now m b d x = { q with
      state := .stage, greenStart := now, position := (q.beginBase now m b d x).position
      excess := (q.beginBase now m b d x).excess, remainder := (q.beginBase now m b d x).remainder
      length := (q.beginBase now m b d x).length, holdMinGreen := (q.beginBase now m b d x).holdMinGreen
      slackLength := (q.beginBase now m b d x).slackLength, dwellOver := (q.beginBase now m b d x).dwellOver } := by
  unfold Sequencer.beginBase
  dsimp only
  split
  · rfl
  · split
    · rfl
    · split <;> rfl

theorem beginStage_frame (s : State) : s.beginStage = { s with
    seq := { s.seq with
      state := .stage, greenStart := s.now, position := s.beginStage.seq.position
      excess := s.beginStage.seq.excess, remainder := s.beginStage.seq.remainder
      length := s.beginStage.seq.length, holdMinGreen := s.beginStage.seq.holdMinGreen
      slackLength := s.beginStage.seq.slackLength, dwellOver := s.beginStage.seq.dwellOver }
    pre := { s.pre with chain := s.beginStage.pre.chain } } := by
  unfold State.beginStage
  split
  · rfl
  · split
    · rfl
    · split
      · rw [beginBase_frame]; rfl
      · dsimp only
        split <;> rfl

/-- The stage begun of a preemption plan (R96). -/
theorem beginStage_preempt {s : State} {c : Context} {b : PlanBody} {d : Derived}
    (running : s.pre.chain[s.seq.above]? = some c) (data : s.planData c.plan = some (b, d)) (inv : c.invoker ≠ none) :
    s.beginStage.seq = s.seq.beginPreempt s.now d
      ∧ s.beginStage.pre = { s.pre with
          chain := if b.count ≤ s.seq.stage.getD 1 then s.pre.chain.set s.seq.above { c with inDwell := true }
            else s.pre.chain } := by
  have run : s.runningContext = some c := running
  unfold State.beginStage
  rw [run]
  dsimp only
  rw [data]
  obtain ⟨k, hk⟩ := Option.ne_none_iff_exists'.1 inv
  dsimp only
  rw [hk]
  dsimp only
  split <;> exact ⟨rfl, rfl⟩

/-- The stage begun of a base plan (R65, R67, R68). -/
theorem beginStage_base {s : State} {c : Context} {b : PlanBody} {d : Derived} {x : BaseDerived}
    (running : s.pre.chain[s.seq.above]? = some c) (data : s.planData c.plan = some (b, d)) (inv : c.invoker = none)
    (base : d.base = some x) : s.beginStage = s.setSeq (s.seq.beginBase s.now s.junction.mode b d x) := by
  have run : s.runningContext = some c := running
  unfold State.beginStage
  rw [run]
  dsimp only
  rw [data]
  dsimp only
  rw [inv, base]

end Sys2Proof.Machine
end

section
/-! The start of a stage as `StageBegun` says it, a truncation and a return as `Transfers` says it, and the truncation
at the end of an interstage (R64, R65, R94, R95, R102). -/

namespace Sys2Proof.Machine

/-! ## StageBegun -/

/-- `t` differs from `s` in aspects and requests that the start of a stage does not read. -/
def State.SameTransition (s t : State) : Prop :=
  t.plans = s.plans ∧ t.junction = s.junction ∧ t.guard.Sublist s.guard ∧ t.pre = s.pre ∧ t.now = s.now
    ∧ t.seq = { s.seq with greenStarts := t.seq.greenStarts, loseAt := none }

theorem beginBase_begun {q : Sequencer} {now : Instant} {m : Mode} {b : PlanBody} {d : Derived} {x : BaseDerived}
    (running : m ≠ .stepped) :
    let i := q.stage.getD 1
    let start := d.nominalStart x b.slackIndex i + d.interstage i
    let boundary := d.nominalStart x b.slackIndex (i + 1)
    let account := q.excess + (tenths (now - q.interStart) - d.interstage i)
    let portion := slackPortion b.cycleTime x q.remainder
    let slack := max x.slackFloor (x.slackSplit + portion.1 - (portion.2 + account))
    let w := q.beginBase now m b d x
    (q.resumed = none →
      w.position = (if q.above = 0 ∨ q.position ≠ none then
          some { value := start, since := some now, limit := boundary } else none)
      ∧ w.holdMinGreen = false
      ∧ (i = b.slackIndex → w.length = some slack ∧ w.slackLength = some slack ∧ w.excess = 0
          ∧ w.remainder = remainderAfter (portion.1 + portion.2) q.remainder)
      ∧ (i ≠ b.slackIndex → w.length = some (d.split i) ∧ w.excess = account
          ∧ w.remainder = q.remainder ∧ w.slackLength = q.slackLength))
    ∧ ∀ e, q.resumed = some e →
      w.length = some ((if i = b.slackIndex then q.slackLength.getD (d.split i) else d.split i) - e)
      ∧ w.holdMinGreen = true ∧ w.excess = account ∧ w.remainder = q.remainder ∧ w.slackLength = q.slackLength
      ∧ (q.position = none → w.position = none)
      ∧ ∀ p, q.position = some p → w.position = some {
          value := if p.since = none then p.value else start, since := some now, limit := boundary } := by
  unfold Sequencer.beginBase
  dsimp only
  rw [if_neg running]
  refine ⟨fun fresh => ?_, fun e resumed => ?_⟩
  · rw [fresh]
    have position : positionAtGreen { q with state := .stage, greenStart := now, resumed := none } now
        (d.nominalStart x b.slackIndex (q.stage.getD 1) + d.interstage (q.stage.getD 1))
        (d.nominalStart x b.slackIndex (q.stage.getD 1 + 1)) =
        if q.above = 0 ∨ q.position ≠ none then some {
          value := d.nominalStart x b.slackIndex (q.stage.getD 1) + d.interstage (q.stage.getD 1)
          since := some now, limit := d.nominalStart x b.slackIndex (q.stage.getD 1 + 1) } else none := by
      unfold positionAtGreen
      cases q.position <;> simp
    dsimp only
    by_cases slack : q.stage.getD 1 = b.slackIndex
    · rw [if_pos slack]
      exact ⟨position, rfl, fun _ => ⟨rfl, rfl, rfl, rfl⟩, fun h => absurd slack h⟩
    · rw [if_neg slack]
      exact ⟨position, rfl, fun h => absurd h slack, fun _ => ⟨rfl, rfl, rfl, rfl⟩⟩
  · rw [resumed]
    dsimp only
    refine ⟨rfl, rfl, rfl, rfl, rfl, fun absent => ?_, fun p held => ?_⟩
    · unfold positionAtGreen
      dsimp only
      rw [absent]
    · unfold positionAtGreen
      dsimp only
      rw [held]
      obtain ⟨v, since, limit⟩ := p
      cases since <;> rfl

/-- The stage that begins as an interstage ends (R65, R67, R68, R73, R96, R102). -/
theorem beginStage_begun {s t : State} {c : Context} {b : PlanBody} {d : Derived} {i : Nat} (same : s.SameTransition t)
    (running : s.pre.chain[s.seq.above]? = some c) (data : s.planData c.plan = some (b, d))
    (stage : s.seq.stage = some i) (base : c.invoker = none → d.base ≠ none) : s.StageBegun t.beginStage c b d i := by
  obtain ⟨plans, junction, guard, pre, now, seq⟩ := same
  have above : t.seq.above = s.seq.above := by rw [seq]
  have stage' : t.seq.stage.getD 1 = i := by rw [seq]; simp [stage]
  have running' : t.pre.chain[t.seq.above]? = some c := by rw [pre, above]; exact running
  have data' : t.planData c.plan = some (b, d) := by
    unfold State.planData State.plan
    rw [plans]
    exact data
  have frame := beginStage_frame t
  refine ⟨by rw [frame]; exact plans, by rw [frame]; exact junction, by rw [frame]; exact guard, ?_, fun inv => ?_,
    fun inv => ?_, fun x inv hx => ?_⟩
  · rw [frame, now]
    generalize t.beginStage = w
    rw [seq]
  · obtain ⟨x, hx⟩ := Option.ne_none_iff_exists'.1 (base inv)
    rw [beginStage_base running' data' inv hx]
    exact pre
  · obtain ⟨eseq, epre⟩ := beginStage_preempt running' data' inv
    rw [eseq, epre, stage', pre, above]
    have len : (t.seq.beginPreempt t.now d).length = some (d.split i - s.seq.resumed.getD 0) := by
      unfold Sequencer.beginPreempt
      dsimp only
      rw [stage', seq]
    refine ⟨len, ?_, rfl, ?_, ?_, ?_⟩
    · rw [seq]; rfl
    · rw [seq]; rfl
    · rw [seq]; rfl
    · change { s.pre with
          chain := if b.stages.length ≤ i then s.pre.chain.set s.seq.above { c with inDwell := true } else s.pre.chain } = _
      dsimp only
      split
      · rfl
      · have same : s.pre.chain.set s.seq.above c = s.pre.chain := by
          obtain ⟨lt, e⟩ := List.getElem?_eq_some_iff.1 running
          rw [← e, List.set_getElem_self]
        rw [same]
  · rw [beginStage_base running' data' inv hx, junction]
    dsimp only
    rw [State.setSeq_seq]
    refine ⟨fun stepped => ?_, fun cyclic => ?_⟩
    · unfold Sequencer.beginBase
      dsimp only
      rw [if_pos stepped, seq]
      exact ⟨rfl, rfl, rfl, rfl, rfl, rfl⟩
    · have begun := beginBase_begun (q := t.seq) (now := t.now) (b := b) (d := d) (x := x) cyclic
      dsimp only at begun
      rw [stage', now] at begun
      rw [now]
      generalize t.seq.beginBase s.now s.junction.mode b d x = w at begun ⊢
      rw [seq] at begun
      obtain ⟨fresh, resumed⟩ := begun
      refine ⟨fun none => ?_, resumed⟩
      obtain ⟨position, hold, slack, other⟩ := fresh none
      refine ⟨position, hold, fun k => ?_, other⟩
      obtain ⟨length, slackLength, excess, remainder⟩ := slack k
      clear position hold other fresh resumed
      generalize s.seq.remainder = r at length slackLength remainder ⊢
      rcases r with _ | ⟨_ | _, a⟩
      · exact ⟨length, slackLength, excess, remainder⟩
      · exact ⟨length, slackLength, excess, remainder⟩
      · exact ⟨length, slackLength, excess, remainder⟩

/-! ## Transfers -/

theorem mem_greenGroups (s : State) (g : GroupIx) : g ∈ s.greenGroups ↔ (s.group g).aspect = .green := by
  simp [State.greenGroups]

theorem expiredAt_iff {s : State} {gs : List GroupIx} {p : GroupIx → Prop} (h : ∀ g, p g ↔ g ∈ gs) (a : Instant) :
    s.ExpiredAt p a ↔ ∀ e ∈ s.expiries gs, e ≤ a := by
  unfold State.ExpiredAt State.expiries
  constructor
  · intro all e mem
    obtain ⟨g, among, start⟩ := List.mem_filterMap.1 mem
    cases at_ : s.seq.greenStarts.get g with
    | none => rw [at_] at start; cases start
    | some t =>
      rw [at_] at start
      cases start
      exact all g ((h g).2 among) t at_
  · intro all g lose t start
    refine all _ (List.mem_filterMap.2 ⟨g, (h g).1 lose, ?_⟩)
    rw [start]
    rfl

theorem latest_le_iff {a n : Nat} (h : a ≤ n) (l : List Nat) : latest a l ≤ n ↔ ∀ e ∈ l, e ≤ n := by
  refine ⟨fun le e mem => (le_latest_of_mem mem).trans le, fun all => ?_⟩
  rcases latest_attained a l with e | mem
  · rw [e]; exact h
  · exact all _ mem

/-- The delayed LOSE of groups comes as soon as all their min greens have passed (R95). -/
theorem loseInstant_le_iff {s : State} {gs : List GroupIx} {p : GroupIx → Prop} (h : ∀ g, p g ↔ g ∈ gs) {a : Instant}
    (now : s.now ≤ a) : s.loseInstant gs true ≤ a ↔ s.ExpiredAt p a :=
  (latest_le_iff now _).trans (expiredAt_iff h a).symm

theorem loseInstant_least {s : State} {gs : List GroupIx} {p : GroupIx → Prop} (h : ∀ g, p g ↔ g ∈ gs)
    (late : ¬s.loseInstant gs true ≤ s.now) {b : Instant} (before : b < s.loseInstant gs true) : ¬s.ExpiredAt p b := by
  rw [expiredAt_iff h]
  intro all
  have attained : s.loseInstant gs true = s.now ∨ s.loseInstant gs true ∈ s.expiries gs := latest_attained s.now _
  rcases attained with e | mem
  · exact late e.le
  · exact absurd (all _ mem) (Nat.not_le.2 before)

theorem Transfers_congr {s t u : State} {stage : Nat} {target : List GroupIx} (groups : t.groups = s.groups)
    (now : t.now = s.now) (starts : t.seq.greenStarts = s.seq.greenStarts) (h : t.Transfers u stage target) :
    s.Transfers u stage target := by
  unfold State.Transfers State.ExpiredAt State.minGreen State.group at *
  rw [groups, now, starts] at h
  exact h

theorem interstageDone_iff (s : State) : s.interstageDone = true ↔
    (∀ g ∈ s.seq.gaining, (s.group g).aspect = .green) ∧ ∀ g ∈ s.seq.losing, (s.group g).aspect ≠ .green := by
  simp [State.interstageDone]

/-- What an opened interstage leaves, whether its stage begins at once or not. -/
theorem openInterstage_spec (s : State) (stage : Nat) (losing gaining : List GroupIx) (delayed : Bool)
    (resumed slackLength : Option Nat) :
    let v := s.opened stage losing gaining delayed resumed slackLength
    let u := s.openInterstage stage losing gaining delayed resumed slackLength
    (v.interstageDone = true → u = v.beginStage) ∧ (v.interstageDone = false → u = v)
      ∧ u.groups = v.groups ∧ u.guard = v.guard ∧ v.seq.state = .interstage
      ∧ u.seq.state = (if v.interstageDone then .stage else .interstage)
      ∧ u.seq.stage = some stage ∧ u.seq.interStart = s.now ∧ u.seq.gaining = gaining ∧ u.seq.losing = losing
      ∧ u.seq.loseAt = v.seq.loseAt ∧ u.seq.resumed = resumed ∧ u.seq.above = 0 ∧ u.seq.greenStarts = v.seq.greenStarts := by
  intro v u
  have frame : v = _ := opened_frame s stage losing gaining delayed resumed slackLength
  have run : u = if v.interstageDone then v.beginStage else v := openInterstage_eq ..
  clear_value u v
  have vseq : v.seq.state = .interstage ∧ v.seq.stage = some stage ∧ v.seq.interStart = s.now ∧ v.seq.gaining = gaining
      ∧ v.seq.losing = losing ∧ v.seq.resumed = resumed ∧ v.seq.above = 0 := by
    rw [frame]
    exact ⟨rfl, rfl, rfl, rfl, rfl, rfl, rfl⟩
  obtain ⟨state, stage', start, gain, lose, resume, above⟩ := vseq
  have begun := beginStage_frame v
  cases done : v.interstageDone with
  | true =>
    rw [done, if_pos rfl] at run
    rw [run]
    refine ⟨fun _ => rfl, fun h => (nomatch h), by rw [begun], by rw [begun], state, by rw [begun]; rfl, ?_⟩
    rw [begun]
    exact ⟨stage', start, gain, lose, rfl, resume, above, rfl⟩
  | false =>
    rw [done, if_neg Bool.false_ne_true] at run
    rw [run]
    exact ⟨fun h => (nomatch h), fun _ => rfl, rfl, rfl, state, state, stage', start, gain, lose, rfl, resume, above, rfl⟩

/-- A truncation or a return opened into a green set (R95, R102). -/
theorem openInterstage_transfers (s : State) (stage : Nat) (target : List GroupIx) (resumed slackLength : Option Nat) :
    s.Transfers (s.openInterstage stage (s.greenGroups.filter fun g => !target.contains g)
      (target.filter fun g => (s.group g).aspect != .green) true resumed slackLength) stage target := by
  have spec := openInterstage_spec s stage (s.greenGroups.filter fun g => !target.contains g)
    (target.filter fun g => (s.group g).aspect != .green) true resumed slackLength
  have aspect := opened_aspect s stage (s.greenGroups.filter fun g => !target.contains g)
    (target.filter fun g => (s.group g).aspect != .green) true resumed slackLength
  have frame := opened_frame s stage (s.greenGroups.filter fun g => !target.contains g)
    (target.filter fun g => (s.group g).aspect != .green) true resumed slackLength
  have asks (g : GroupIx) := opened_asks s stage (s.greenGroups.filter fun g => !target.contains g)
    (target.filter fun g => (s.group g).aspect != .green) true resumed slackLength (g := g)
  have losers (g : GroupIx) : ((s.group g).aspect = .green ∧ g ∉ target) ↔
      g ∈ s.greenGroups.filter fun g => !target.contains g := by
    simp [mem_greenGroups]
  have gainers (g : GroupIx) : g ∈ (target.filter fun g => (s.group g).aspect != .green) ↔
      g ∈ target ∧ (s.group g).aspect ≠ .green := by
    simp
  generalize (s.greenGroups.filter fun g => !target.contains g) = losing at *
  generalize hg : (target.filter fun g => (s.group g).aspect != .green) = gaining at *
  dsimp only at spec
  generalize s.openInterstage stage losing gaining true resumed slackLength = u at *
  generalize s.opened stage losing gaining true resumed slackLength = v at *
  obtain ⟨-, -, groups, guard, -, state, stage', start, gain, lose, loseAt, -, -, -⟩ := spec
  have group (g : GroupIx) : (u.group g).aspect = ((s.losesNow losing true).group g).aspect := by
    rw [← aspect g]
    unfold State.group
    rw [groups]
  have kept {g : GroupIx} (not : g ∉ losing) : (u.group g).aspect = (s.group g).aspect :=
    (group g).trans (losesNow_aspect_of_not_mem not)
  have instant := loseInstant_le_iff losers (le_refl s.now)
  have vloseAt : v.seq.loseAt = if s.loseInstant losing true ≤ s.now then none else some (s.loseInstant losing true) := by
    rw [frame]
    rfl
  refine ⟨stage', start, gain.trans hg.symm, fun g not => kept (mt (losers g).2 not), fun expired => ?_, fun late => ?_,
    fun g mem present takes => ?_, ?_, ?_⟩
  · have now := instant.2 expired
    refine ⟨by rw [loseAt, vloseAt, if_pos now], fun g k loses hk => ?_⟩
    rw [group, State.losesNow, if_pos now, each_lose_aspect, hk]
    dsimp only
    rw [if_pos ((losers g).1 loses), loses.1]
    rfl
  · have not := mt instant.1 late
    refine ⟨Table.ext_get fun g => ?_, s.loseInstant losing true, by rw [loseAt, vloseAt, if_neg not], ?_,
      fun b before => loseInstant_least losers not before⟩
    · rw [Table.get_map, Table.get_map]
      refine (group g).trans ?_
      rw [State.losesNow, if_neg not]
      rfl
    · exact (loseInstant_le_iff losers (Nat.le_of_not_le not)).1 (le_refl _)
  · have other : g ∉ losing := fun h => ((losers g).2 h).2 mem
    have among : g ∈ gaining := (gainers g).2 ⟨mem, by rcases takes with h | h | h <;> rw [h] <;> decide⟩
    have takes' : (s.losesNow losing true).Takes g := by
      unfold State.Takes
      rw [losesNow_config, losesNow_aspect_of_not_mem other]
      exact ⟨present, takes⟩
    have := asks g among takes'
    unfold State.Asks State.group at this
    rw [← groups, ← guard] at this
    exact this
  · rw [state]
    split
    · exact .inr rfl
    · exact .inl rfl
  · have done := interstageDone_iff v
    have vgroup (g : GroupIx) : (v.group g).aspect = (u.group g).aspect := (aspect g).trans (group g).symm
    have vgain : v.seq.gaining = gaining := by rw [frame]; rfl
    have vlose : v.seq.losing = losing := by rw [frame]; rfl
    rw [vgain, vlose] at done
    simp only [vgroup] at done
    have target' : (∀ g ∈ gaining, (u.group g).aspect = .green) ↔ ∀ g ∈ target, (u.group g).aspect = .green := by
      refine ⟨fun all g mem => ?_, fun all g mem => all g ((gainers g).1 mem).1⟩
      by_cases green : (s.group g).aspect = .green
      · rw [kept fun h => ((losers g).2 h).2 mem, green]
      · exact all g ((gainers g).2 ⟨mem, green⟩)
    have loses' : (∀ g ∈ losing, (u.group g).aspect ≠ .green) ↔
        ∀ g, ((s.group g).aspect = .green ∧ g ∉ target) → (u.group g).aspect ≠ .green :=
      forall_congr' fun g => imp_congr_left (losers g).symm
    rw [target', loses'] at done
    rw [state, ← done]
    cases v.interstageDone <;> simp

/-! ## Truncation at the end of an interstage (R94, R95) -/

theorem openInterstage_frame (s : State) (stage : Nat) (losing gaining : List GroupIx) (delayed : Bool)
    (resumed slackLength : Option Nat) : ∀ u, u = s.openInterstage stage losing gaining delayed resumed slackLength →
    u = { s with
      groups := u.groups, guard := u.guard, circuits := u.circuits, channel := u.channel
      output := { s.output with flash := u.output.flash }, seq := u.seq, pre := { s.pre with chain := u.pre.chain } } := by
  intro u hu
  have spec := openInterstage_spec s stage losing gaining delayed resumed slackLength
  dsimp only at spec
  have frame := opened_frame s stage losing gaining delayed resumed slackLength
  rw [← hu] at spec
  generalize s.opened stage losing gaining delayed resumed slackLength = v at spec frame
  obtain ⟨begun, open_, -⟩ := spec
  cases done : v.interstageDone with
  | true =>
    rw [begun done]
    have e := beginStage_frame v
    generalize v.beginStage = w at e ⊢
    rw [e]
    rw [frame]
  | false =>
    rw [open_ done, frame]

/-- The sequencer and the chain in the interstage that has been opened. -/
theorem openInterstage_open {s : State} {stage : Nat} {losing gaining : List GroupIx} {delayed : Bool}
    {resumed slackLength : Option Nat} {u : State} (hu : u = s.openInterstage stage losing gaining delayed resumed slackLength)
    (state : u.seq.state = .interstage) : u.pre = s.pre
      ∧ u.seq = { s.seq.opened s.now stage losing gaining u.seq.loseAt resumed slackLength with
          greenStarts := u.seq.greenStarts } := by
  have spec := openInterstage_spec s stage losing gaining delayed resumed slackLength
  dsimp only at spec
  have frame := opened_frame s stage losing gaining delayed resumed slackLength
  rw [← hu] at spec
  generalize s.opened stage losing gaining delayed resumed slackLength = v at spec frame
  obtain ⟨-, open_, -, -, -, state', -⟩ := spec
  have not : v.interstageDone = false := by
    rw [state] at state'
    cases h : v.interstageDone with
    | false => rfl
    | true => rw [h] at state'; cases state'
  rw [open_ not]
  rw [frame]
  exact ⟨rfl, rfl⟩

/-- The stage of a preemption plan that begins as its interstage is opened (R96). -/
theorem openInterstage_preempt {s : State} {stage : Nat} {losing gaining : List GroupIx} {delayed : Bool}
    {resumed slackLength : Option Nat} {u : State} (hu : u = s.openInterstage stage losing gaining delayed resumed slackLength)
    {c : Context} {b : PlanBody} {d : Derived} (top : s.pre.chain.head? = some c)
    (data : s.planData c.plan = some (b, d)) (inv : c.invoker ≠ none) :
    u.pre.chain = (if u.seq.state = .stage ∧ b.stages.length ≤ stage then { c with inDwell := true } else c)
        :: s.pre.chain.tail
      ∧ u.seq.position = s.seq.position ∧ u.seq.excess = s.seq.excess := by
  have spec := openInterstage_spec s stage losing gaining delayed resumed slackLength
  dsimp only at spec
  have frame := opened_frame s stage losing gaining delayed resumed slackLength
  rw [← hu] at spec
  generalize s.opened stage losing gaining delayed resumed slackLength = v at spec frame
  obtain ⟨begun, open_, -, -, -, state', -⟩ := spec
  have whole : s.pre.chain = c :: s.pre.chain.tail := by
    obtain ⟨l, e⟩ := List.head?_eq_some_iff.1 top
    rw [e]
    rfl
  have vpre : v.pre = s.pre := by rw [frame]
  have vposition : v.seq.position = s.seq.position ∧ v.seq.excess = s.seq.excess ∧ v.seq.above = 0
      ∧ v.seq.stage.getD 1 = stage := by
    rw [frame]
    exact ⟨rfl, rfl, rfl, rfl⟩
  obtain ⟨position, excess, above, at_⟩ := vposition
  cases done : v.interstageDone with
  | false =>
    rw [done] at state'
    rw [open_ done, if_neg (by rw [← open_ done, state']; rintro ⟨h, -⟩; cases h), vpre, ← whole]
    exact ⟨rfl, position, excess⟩
  | true =>
    rw [done] at state'
    have running : v.pre.chain[v.seq.above]? = some c := by rw [vpre, above, whole]; rfl
    have data' : v.planData c.plan = some (b, d) := by
      unfold State.planData State.plan
      rw [frame]
      exact data
    obtain ⟨eseq, epre⟩ := beginStage_preempt running data' inv
    have run := begun done
    have stage_ : u.seq.state = .stage := state'
    rw [stage_]
    rw [run, eseq, epre, vpre, above, at_]
    refine ⟨?_, position, excess⟩
    change (if b.stages.length ≤ stage then s.pre.chain.set 0 { c with inDwell := true } else s.pre.chain) = _
    by_cases last : b.stages.length ≤ stage
    · rw [if_pos last, if_pos ⟨rfl, last⟩, whole]
      rfl
    · rw [if_neg last, if_neg fun h => last h.2, ← whole]

end Sys2Proof.Machine
end

section
/-! Aspects in time (R10 to R14), the ends of interstages and stages (R63 to R66, R80, R94 to R96), and the greens ended
late (R81, R95). -/

namespace Sys2Proof.Machine

/-! ## What the guard's judgement leaves -/

theorem guardWalk_sublist (l older : List GuardRequest) (s : State) :
    (guardWalk older l s).guard.Sublist (older ++ l) := by
  induction l generalizing older s with
  | nil => rw [List.append_nil]; exact List.Sublist.refl _
  | cons r l ih =>
    unfold guardWalk
    split
    · exact (ih older _).trans ((List.sublist_cons_self r l).append_left older)
    · exact (ih (older ++ [r]) s).trans (by rw [List.append_assoc]; exact List.Sublist.refl _)

theorem guardJudge_sublist (s : State) : s.guardJudge.guard.Sublist s.guard := guardWalk_sublist s.guard [] s

/-- A judgement gives a green start only to a group that has a request and takes a GAIN (R11, R34). -/
theorem guardWalk_awaited (l older : List GuardRequest) (s : State) (g : GroupIx)
    (h : ¬s.Takes g ∨ ∀ r ∈ l, r.group ≠ g) :
    ((guardWalk older l s).group g).awaited = (s.group g).awaited := by
  induction l generalizing older s with
  | nil => rfl
  | cons r l ih =>
    unfold guardWalk
    have rest : ∀ t : State, (t.Takes g ↔ s.Takes g) → (¬t.Takes g ∨ ∀ r ∈ l, r.group ≠ g) := fun t same =>
      h.imp (mt same.1) fun all q mem => all q (List.mem_cons_of_mem _ mem)
    split
    · rw [ih older _ (rest _ (gain_takes ..)), gain_awaited, if_neg]
      rintro ⟨e, present, aspect⟩
      subst e
      rcases h with h | h
      · exact h ⟨Option.isSome_iff_ne_none.1 present, aspect⟩
      · exact h r List.mem_cons_self rfl
    · exact ih (older ++ [r]) s (rest s Iff.rfl)

theorem guardJudge_awaited {s : State} {g : GroupIx} (h : ¬s.Takes g ∨ ∀ r ∈ s.guard, r.group ≠ g) :
    (s.guardJudge.group g).awaited = (s.group g).awaited := guardWalk_awaited s.guard [] s g h

/-! ## The change of an aspect (R10, R16, R17, R124, R133, R153) -/

theorem watched_of_aspects {t u : State} (config : ∀ g : GroupIx, (t.group g).config = (u.group g).config)
    (aspect : ∀ g : GroupIx, (t.group g).aspect = (u.group g).aspect)
    (safe : t.output.safeEnable = u.output.safeEnable) (c : CircuitIx) : t.watched c = u.watched c := by
  unfold State.watched State.assignment
  simp only [config, aspect, safe]

theorem Ordered_congr {s s' u u' : State} {named named' : CircuitIx → Prop} {on on' : CircuitIx → Bool}
    (h : s.Ordered u named on) (named_ : ∀ c, named c ↔ named' c) (on_ : ∀ c, named c → on c = on' c)
    (circuits : s'.circuits = s.circuits) (channel : s'.channel = s.channel) (now : s'.now = s.now)
    (safe : s'.output.safeEnable = s.output.safeEnable) (circuits' : u'.circuits = u.circuits)
    (channel' : u'.channel = u.channel) (watched : ∀ c, u'.watched c = u.watched c) : s'.Ordered u' named' on' := by
  have switches (c : CircuitIx) : s'.Switches named' on' c ↔ s.Switches named on c := by
    unfold State.Switches State.circuit
    rw [circuits, safe, ← named_ c]
    exact and_congr_right fun mem => by rw [on_ c mem]
  have freed : s'.freedChannel = s.freedChannel := by
    unfold State.freedChannel
    rw [channel, now]
  have flight (c : CircuitIx) : s'.watchInFlight c = s.watchInFlight c := by
    unfold State.watchInFlight
    rw [channel]
  have circuit (c : CircuitIx) : s'.circuit c = s.circuit c := by unfold State.circuit; rw [circuits]
  have circuit' (c : CircuitIx) : u'.circuit c = u.circuit c := by unfold State.circuit; rw [circuits']
  obtain ⟨moved, kept, void, still⟩ := h
  refine ⟨fun c sw => ?_, fun c not => ?_, fun w flying sw => ?_, fun none => ?_⟩
  · rw [circuit', circuit, now, flight, watched, ← on_ c ((switches c).1 sw).1]
    exact moved c ((switches c).1 sw)
  · rw [circuit', circuit]
    exact kept c (mt (switches c).2 not)
  · rw [channel', freed]
    exact void w (by rw [← channel]; exact flying) ((switches _).1 sw)
  · rw [channel', channel]
    exact still fun w flying sw => none w (by rw [channel]; exact flying) ((switches _).2 sw)

/-- The state of a change of aspect before its drives are ordered. -/
def State.aspectSet (s : State) (g : GroupIx) (a : Aspect) : State :=
  let t := (s.setOutput { s.output with flash := s.flashAfter g a }).setGroup g ((s.group g).entering a s.now)
  if a = .green then t else t.setSeq { t.seq with greenStarts := t.seq.greenStarts.set g none }

theorem setAspect_eq {s : State} {g : GroupIx} {k : GroupConfig} (hk : (s.group g).config = some k) (a : Aspect) :
    s.setAspect g a = ((s.aspectSet g a).orderDrives k a).guardJudge := by
  unfold State.setAspect
  dsimp only
  rw [hk]
  rfl

theorem aspectSet_frame (s : State) (g : GroupIx) (a : Aspect) : s.aspectSet g a = { s with
    groups := s.groups.set g ((s.group g).entering a s.now)
    output := { s.output with flash := s.flashAfter g a }
    seq := { s.seq with greenStarts := (s.aspectSet g a).seq.greenStarts } } := by
  unfold State.aspectSet
  dsimp only
  split <;> rfl

theorem setAspect_ordered {s : State} {g : GroupIx} {k : GroupConfig} (hk : (s.group g).config = some k) (a : Aspect) :
    s.Ordered (s.setAspect g a) (· ∈ k.circuits) (k.lights a (s.setAspect g a).flashOn) := by
  have base := aspectSet_frame s g a
  have ordered := orderDrives_ordered (s.aspectSet g a) k a
  have same := orderDrives_spec (s.aspectSet g a) k a
  have judged := guardJudge_spec ((s.aspectSet g a).orderDrives k a)
  have aspects (h : GroupIx) := guardJudge_aspect ((s.aspectSet g a).orderDrives k a) h
  rw [← setAspect_eq hk a] at judged aspects
  generalize s.setAspect g a = u at judged aspects ⊢
  generalize (s.aspectSet g a).orderDrives k a = v at ordered same judged aspects
  generalize s.aspectSet g a = t at base ordered same
  have output : u.output = t.output := by rw [judged, same]
  have flash : u.flashOn = t.flashOn := by unfold State.flashOn; rw [output]
  rw [flash]
  refine Ordered_congr ordered (fun _ => Iff.rfl) (fun _ _ => rfl) ?_ ?_ ?_ ?_ ?_ ?_ fun c => ?_
  · rw [base]
  · rw [base]
  · rw [base]
  · rw [base]
  · rw [judged]
  · rw [judged]
  · exact watched_of_aspects (fun h => (aspects h).2) (fun h => (aspects h).1) (by rw [judged]) c

/-- A change of aspect behind a setting of the group's awaited green start. -/
theorem setAspect_changed {s v u : State} {g : GroupIx} {k : GroupConfig} (hk : (s.group g).config = some k) (a : Aspect)
    (awaited : Option Instant) (hv : v = (s.setGroup g { s.group g with awaited := awaited }).setAspect g a)
    (groups : u.groups = v.groups) (circuits : u.circuits = v.circuits) (channel : u.channel = v.channel)
    (output : u.output = v.output) (junction : u.junction.state = s.junction.state) (still : u.still = s.still) :
    s.AspectChanged u g k a := by
  have group (h : GroupIx) : u.group h = v.group h := by unfold State.group; rw [groups]
  have own (h : GroupIx) : ∃ w, v.group h = { s.group h with
      aspect := if h = g then a else (s.group h).aspect
      aspectEntry := if h = g then s.now else (s.group h).aspectEntry
      greenOff := if h = g ∧ (s.group h).aspect = .green ∧ a ≠ .green then s.now else (s.group h).greenOff
      awaited := w } := by
    obtain ⟨w, e⟩ := setAspect_group (s.setGroup g { s.group g with awaited := awaited }) g h a
    refine ⟨w, ?_⟩
    rw [hv, e, State.setGroup_group]
    by_cases eq : h = g
    · subst eq; simp
    · simp [eq]
  have hk' : ((s.setGroup g { s.group g with awaited := awaited }).group g).config = some k := by
    rw [State.setGroup_group_self]; exact hk
  refine ⟨?_, ?_, ?_, fun h ne => ?_, ?_, ?_, junction, still⟩
  · obtain ⟨w, e⟩ := own g
    rw [group, e]; exact if_pos rfl
  · obtain ⟨w, e⟩ := own g
    rw [group, e]; exact if_pos rfl
  · obtain ⟨w, e⟩ := own g
    rw [group, e]; simp
  · obtain ⟨w, e⟩ := own h
    rw [group, e]; simp [ne]
  · have ordered := setAspect_ordered hk' a
    rw [← hv] at ordered
    have flash : u.flashOn = v.flashOn := by unfold State.flashOn; rw [output]
    rw [flash]
    refine Ordered_congr ordered (fun _ => Iff.rfl) (fun _ _ => rfl) rfl rfl rfl rfl circuits channel fun c => ?_
    exact watched_congr groups output c
  · rw [output, hv, setAspect_spec]
    rfl

theorem setGroup_self (s : State) (g : GroupIx) : s.setGroup g (s.group g) = s := by
  unfold State.setGroup State.group
  have : s.groups.set g (s.groups.get g) = s.groups := Table.ext_get fun h => by
    rw [Table.get_set]
    split
    · rename_i e; rw [e]
    · rfl
  rw [this]

/-! ## The truncation at an interstage's end (R94, R95) -/

theorem truncate_eq {s : State} {y : Context} {b : PlanBody} {d : Derived} (top : s.pre.chain.head? = some y)
    (data : s.planData y.plan = some (b, d)) : s.truncate =
    (s.setSeq { s.seq with position := none, excess := 0 }).openInterstage 1
      (s.greenGroups.filter fun g => !(b.greens 1).contains g)
      ((b.greens 1).filter fun g => (s.group g).aspect != .green) true none none := by
  unfold State.truncate
  rw [top]
  dsimp only
  rw [data]

theorem truncate_transfers {s : State} {y : Context} {b : PlanBody} {d : Derived} (top : s.pre.chain.head? = some y)
    (data : s.planData y.plan = some (b, d)) (inv : y.invoker ≠ none) :
    s.Transfers s.truncate 1 (b.greens 1) ∧ s.truncate.seq.position = none ∧ s.truncate.seq.excess = 0
      ∧ s.truncate.seq.above = 0
      ∧ s.truncate.pre = { s.pre with
          chain := (if s.truncate.seq.state = .stage ∧ b.stages.length ≤ 1 then { y with inDwell := true } else y)
            :: s.pre.chain.tail } := by
  have run := truncate_eq top data
  have transfers := openInterstage_transfers (s.setSeq { s.seq with position := none, excess := 0 }) 1 (b.greens 1)
    none none
  have above := (openInterstage_spec (s.setSeq { s.seq with position := none, excess := 0 }) 1
      (s.greenGroups.filter fun g => !(b.greens 1).contains g)
      ((b.greens 1).filter fun g => (s.group g).aspect != .green) true none none).2.2.2.2.2.2.2.2.2.2.2.2.1
  rw [← run] at above
  obtain ⟨chain, position, excess⟩ := openInterstage_preempt run top data inv
  have frame := openInterstage_frame _ _ _ _ _ _ _ _ run
  refine ⟨Transfers_congr rfl rfl rfl ?_, position, excess, above, ?_⟩
  · rw [run]; exact transfers
  · exact (congrArg State.pre frame).trans (congrArg (fun l => { s.pre with chain := l }) chain)

theorem truncate_frame (s : State) : s.truncate = { s with
    groups := s.truncate.groups, guard := s.truncate.guard, circuits := s.truncate.circuits
    channel := s.truncate.channel, output := { s.output with flash := s.truncate.output.flash }
    seq := s.truncate.seq, pre := { s.pre with chain := s.truncate.pre.chain } } := by
  cases top : s.pre.chain.head? with
  | none =>
    have same : s.truncate = s := by unfold State.truncate; rw [top]
    rw [same]
  | some y =>
    cases data : s.planData y.plan with
    | none =>
      have same : s.truncate = s := by
        unfold State.truncate
        rw [top]
        dsimp only
        rw [data]
      rw [same]
    | some x =>
      obtain ⟨b, d⟩ := x
      have frame := openInterstage_frame _ _ _ _ _ _ _ _ (truncate_eq top data)
      exact frame

theorem saveRunning_eq {s : State} {c : Context} (running : s.pre.chain[s.seq.above]? = some c) :
    s.saveRunning = s.setPre { s.pre with chain := s.pre.chain.set s.seq.above (s.savedContext c) } := by
  unfold State.saveRunning State.runningContext
  rw [running]

theorem tenths_zero : tenths 0 = 0 := rfl

/-- The record written of a stage that has just begun (R94). -/
theorem savedContext_begun {w : State} (state : w.seq.state = .stage) (start : w.seq.greenStart = w.now) (c : Context) :
    w.savedContext c = { w.interrupted c with elapsed := 0, dwell := c.dwell } := by
  unfold State.savedContext State.interrupted
  simp only [state, start, Nat.sub_self, tenths_zero, BEq.rfl, Option.isNone_iff_eq_none, Bool.true_and,
    Nat.add_zero, ite_self]

/-- The truncation that has waited for an interstage's end (R94, R95). -/
theorem truncatesBegun {w : State} (state : w.seq.state = .stage) (start : w.seq.greenStart = w.now)
    (waits : w.seq.above ≠ 0) : w.TruncatesBegun w.saveRunning.truncate := by
  intro c y b d running top inv data
  have saved := saveRunning_eq running
  rw [savedContext_begun state start] at saved
  have top' : w.saveRunning.pre.chain.head? = some y := by
    obtain ⟨l, e⟩ := List.head?_eq_some_iff.1 top
    rw [saved, State.setPre_pre, e]
    obtain ⟨n, hn⟩ := Nat.exists_eq_succ_of_ne_zero waits
    rw [hn]
    rfl
  have data' : w.saveRunning.planData y.plan = some (b, d) := by rw [saved]; exact data
  obtain ⟨transfers, position, excess, above, pre⟩ := truncate_transfers top' data' inv
  have frame := truncate_frame w.saveRunning
  have still : w.saveRunning.truncate.still = w.still := (truncate_still _).trans (saveRunning_still w)
  generalize w.saveRunning.truncate = u at transfers position excess above pre frame still ⊢
  generalize w.saveRunning = v at saved transfers pre frame
  refine ⟨Transfers_congr (by rw [saved]; rfl) (by rw [saved]; rfl) (by rw [saved]; rfl) transfers, position, excess, above,
    by rw [pre]; rfl, by rw [pre, saved]; rfl, ?_, by rw [frame, saved]; rfl, by rw [frame, saved]; rfl, still⟩
  rw [pre, saved]
  rfl

/-- The judgement of an interstage's end (R64, R94, R95): the stage begun, where it ends. -/
theorem judgeInterstage_ends {s t : State} (state : t.seq.state = s.seq.state) (above : t.seq.above = s.seq.above)
    (interstage : s.seq.state = .interstage) :
    ∃ w, (w = if t.seq.loseAt = none ∧ t.interstageDone = true then t.beginStage else t)
      ∧ s.EndsInterstage w t.judgeInterstage := by
  refine ⟨_, rfl, ?_⟩
  unfold State.judgeInterstage
  by_cases done : t.seq.loseAt = none ∧ t.interstageDone = true
  · rw [if_pos done, if_pos ⟨state.trans interstage, Option.isNone_iff_eq_none.2 done.1, done.2⟩]
    have frame := beginStage_frame t
    unfold State.endInterstage
    dsimp only
    generalize t.beginStage = w at frame ⊢
    have kept : w.seq.above = t.seq.above := by rw [frame]
    have begun : w.seq.state = .stage ∧ w.seq.greenStart = w.now := by rw [frame]; exact ⟨rfl, rfl⟩
    by_cases zero : w.seq.above = 0
    · rw [if_pos zero]
      exact ⟨fun _ => rfl, fun h => absurd (above.symm.trans (kept.symm.trans zero)) h.1⟩
    · rw [if_neg zero]
      refine ⟨fun h => absurd ⟨?_, interstage, begun.1⟩ h, fun _ => truncatesBegun begun.1 begun.2 zero⟩
      rw [← above, ← kept]
      exact zero
  · rw [if_neg done, if_neg fun h => done ⟨Option.isNone_iff_eq_none.1 h.2.1, h.2.2⟩]
    refine ⟨fun _ => rfl, fun h => ?_⟩
    obtain ⟨-, -, stage⟩ := h
    rw [state, interstage] at stage
    cases stage

theorem judgeInterstage_elsewhere {t : State} (h : t.seq.state ≠ .interstage) : t.judgeInterstage = t := by
  unfold State.judgeInterstage
  rw [if_neg fun h' => h h'.1]

end Sys2Proof.Machine
end

section
/-! The events of groups and of stages: RED_AMBER, GREEN and RED in time (R11, R12), the flash (R14), the ends of stages
and interstages (R63 to R66, R80), and the greens ended late (R81, R95). -/

namespace Sys2Proof.Machine

/-! ## The greens ended late (R81, R95) -/

theorem exec_loseDue {s : State} {q : SeqState} {a : Instant} (state : s.seq.state = q) (at_ : s.seq.loseAt = some a)
    (due : a ≤ s.now) : s.loseDue q = true := by
  simp [State.loseDue, state, at_, due]

theorem clearanceCheck_frame (t : State) : t.clearanceCheck = { t with
    junction := { t.junction with
      clearance := if t.junction.clearance = some .awaitingRed
          ∧ (∀ g : GroupIx, (t.group g).config ≠ none → (t.group g).aspect = .red)
        then some (.allRed t.now) else t.junction.clearance } } := by
  have all : t.presentGroups.all (fun g => (t.group g).aspect == .red) = true ↔
      ∀ g : GroupIx, (t.group g).config ≠ none → (t.group g).aspect = .red := by
    simp [mem_presentGroups]
  unfold State.clearanceCheck
  by_cases h : t.junction.clearance = some .awaitingRed
      ∧ (∀ g : GroupIx, (t.group g).config ≠ none → (t.group g).aspect = .red)
  · rw [if_pos ⟨h.1, all.2 h.2⟩, if_pos h]
    rfl
  · rw [if_neg fun h' => h ⟨h'.1, all.1 h'.2⟩, if_neg h]

theorem orderSublist_each {order : State → GroupIx → State} (h : ∀ (s : State) (g : GroupIx), (order s g).guard.Sublist s.guard)
    (l : List GroupIx) (s : State) : (s.each order l).guard.Sublist s.guard := by
  induction l generalizing s with
  | nil => exact List.Sublist.refl _
  | cons g l ih => exact (ih (order s g)).trans (h s g)

theorem setAspect_sublist (s : State) (g : GroupIx) (a : Aspect) : (s.setAspect g a).guard.Sublist s.guard := by
  have judged (t : State) (ht : t.guard = s.guard) : t.guardJudge.guard.Sublist s.guard := ht ▸ guardJudge_sublist t
  cases hk : (s.group g).config with
  | some k =>
    rw [setAspect_eq hk]
    exact judged _ (by rw [orderDrives_spec, aspectSet_frame])
  | none =>
    have run : s.setAspect g a = (s.aspectSet g a).guardJudge := by
      unfold State.setAspect
      dsimp only
      rw [hk]
      rfl
    rw [run]
    exact judged _ (by rw [aspectSet_frame])

theorem cancel_sublist (s : State) (g : GroupIx) : (s.cancel g).guard.Sublist s.guard := by
  unfold State.cancel State.dropAwaited
  split <;> first
    | exact List.Sublist.refl _
    | exact guardJudge_sublist (s.setGroup g { s.group g with awaited := none })
    | exact setAspect_sublist (s.setGroup g { s.group g with awaited := none }) g .red

theorem lose_sublist (s : State) (g : GroupIx) : (s.lose g).guard.Sublist s.guard := by
  unfold State.lose
  split <;> first
    | exact List.Sublist.refl _
    | exact setAspect_sublist ..
    | exact cancel_sublist ..

/-- The greens ended in a clearance (R81). -/
theorem clearanceLose_spec {s : State} (clearance : s.seq.state = .clearance) :
    let u := s.loseInClearance
    u.still = s.still ∧ u.seq.loseAt = none ∧ u.seq.state = .clearance
      ∧ (∀ (g : GroupIx) k, (s.group g).config = some k → (u.group g).aspect =
          if (s.group g).aspect = .green then (if k.vehicle.isSome then .amber else .red) else (s.group g).aspect)
      ∧ (s.junction.clearance = some .awaitingRed →
          (∀ g : GroupIx, (s.group g).config ≠ none → (u.group g).aspect = .red) →
          u.junction.clearance = some (.allRed s.now)) := by
  obtain ⟨v, hv⟩ : ∃ v, v = (s.setSeq { s.seq with loseAt := none }).loseGreens := ⟨_, rfl⟩
  have aspects : (s.setSeq { s.seq with loseAt := none }).Aspects v := by
    rw [hv]
    exact each_aspects lose_aspects _ _
  have aspect (g : GroupIx) := each_lose_aspect s.greenGroups (s.setSeq { s.seq with loseAt := none }) g
  have still : v.still = s.still := by
    rw [hv]
    exact (loseGreens_still _).trans (setSeq_still s _)
  have vgroup (g : GroupIx) : (v.group g).aspect = _ := (congrArg (fun t => (t.group g).aspect) hv).trans (aspect g)
  have run : s.loseInClearance = v.clearanceCheck := by rw [hv]; rfl
  intro u
  have frame := clearanceCheck_frame v
  change (u = _) at run
  rw [← run] at frame
  clear_value u
  have config (g : GroupIx) : (v.group g).config = (s.group g).config := still_config still g
  have ugroup (g : GroupIx) : u.group g = v.group g := by rw [frame]; rfl
  have vseq : v.seq.loseAt = none ∧ v.seq.state = .clearance := by
    rw [aspects]
    exact ⟨rfl, clearance⟩
  refine ⟨?_, by rw [frame]; exact vseq.1, by rw [frame]; exact vseq.2, fun g k hk => ?_, fun awaiting red => ?_⟩
  · rw [run]; exact (clearanceCheck_still v).trans still
  · rw [ugroup, vgroup]
    change (match (s.group g).config with
      | none => (s.group g).aspect
      | some k => if g ∈ s.greenGroups then k.lost (s.group g).aspect else (s.group g).aspect) = _
    rw [hk]
    dsimp only
    by_cases green : (s.group g).aspect = .green
    · rw [if_pos ((mem_greenGroups s g).2 green), if_pos green, green]
      rfl
    · rw [if_neg (mt (mem_greenGroups s g).1 green), if_neg green]
  · have vjunction : v.junction = s.junction := by rw [aspects]; rfl
    have vnow : v.now = s.now := by rw [aspects]; rfl
    rw [frame]
    dsimp only
    rw [if_pos, vnow]
    refine ⟨by rw [vjunction]; exact awaiting, fun g present => ?_⟩
    rw [← ugroup]
    exact red g (by rw [← config]; exact present)

/-- The losing groups given LOSE late, with the end of their interstage (R95). -/
theorem truncationLose_spec {s : State} (interstage : s.seq.state = .interstage) :
    ∃ w, w.still = s.still ∧ w.seq.loseAt = none
      ∧ (∀ (g : GroupIx) k, (s.group g).config = some k → (w.group g).aspect =
          if g ∈ s.seq.losing ∧ (s.group g).aspect = .green then (if k.vehicle.isSome then .amber else .red)
          else if g ∈ s.seq.losing ∧ (s.group g).aspect = .redAmber then .red
          else (s.group g).aspect)
      ∧ (w.seq.state = .stage ↔ ((∀ g ∈ s.seq.gaining, (w.group g).aspect = .green)
          ∧ ∀ g ∈ s.seq.losing, (w.group g).aspect ≠ .green))
      ∧ (∀ c b d i, s.pre.chain[s.seq.above]? = some c → s.planData c.plan = some (b, d) → s.seq.stage = some i →
          (c.invoker = none → d.base ≠ none) → w.seq.state = .stage → s.StageBegun w c b d i)
      ∧ s.EndsInterstage w s.loseInTruncation := by
  obtain ⟨t, ht⟩ : ∃ t, t = (s.setSeq { s.seq with loseAt := none }).each State.lose s.seq.losing := ⟨_, rfl⟩
  have aspects : (s.setSeq { s.seq with loseAt := none }).Aspects t := by
    rw [ht]
    exact each_aspects lose_aspects _ _
  have aspect (g : GroupIx) := each_lose_aspect s.seq.losing (s.setSeq { s.seq with loseAt := none }) g
  have tgroup (g : GroupIx) : (t.group g).aspect = _ := (congrArg (fun t => (t.group g).aspect) ht).trans (aspect g)
  have still : t.still = s.still := by
    rw [ht]
    exact (each_lose_still _ _).trans (setSeq_still s _)
  have guard : t.guard.Sublist s.guard := by
    rw [ht]
    exact orderSublist_each lose_sublist _ (s.setSeq { s.seq with loseAt := none })
  have run : s.loseInTruncation = t.judgeInterstage := by rw [ht]; rfl
  have tseq : t.seq = { s.seq with greenStarts := t.seq.greenStarts, loseAt := none } := by rw [aspects]; rfl
  have same : s.SameTransition t :=
    ⟨by rw [aspects]; rfl, by rw [aspects]; rfl, guard, by rw [aspects]; rfl, by rw [aspects]; rfl, tseq⟩
  obtain ⟨w, hw, ends⟩ := judgeInterstage_ends (s := s) (t := t) (by rw [tseq]) (by rw [tseq]) interstage
  rw [← run] at ends
  have loseAt : t.seq.loseAt = none := by rw [tseq]
  have done := interstageDone_iff t
  rw [show t.seq.gaining = s.seq.gaining by rw [tseq], show t.seq.losing = s.seq.losing by rw [tseq]] at done
  have begun := beginStage_frame t
  have cases_ : (t.interstageDone = true ∧ w = t.beginStage) ∨ (t.interstageDone = false ∧ w = t) := by
    cases h : t.interstageDone with
    | true => rw [hw, if_pos ⟨loseAt, h⟩]; exact .inl ⟨rfl, rfl⟩
    | false => rw [hw, if_neg fun h' => by rw [h] at h'; cases h'.2]; exact .inr ⟨rfl, rfl⟩
  have groups : w.groups = t.groups := by
    rcases cases_ with ⟨-, e⟩ | ⟨-, e⟩
    · rw [e, begun]
    · rw [e]
  have wgroup (g : GroupIx) : w.group g = t.group g := by unfold State.group; rw [groups]
  refine ⟨w, ?_, ?_, fun g k hk => ?_, ?_, fun c b d i running data stage base state => ?_, ends⟩
  · rcases cases_ with ⟨-, e⟩ | ⟨-, e⟩
    · rw [e]; exact (beginStage_still t).trans still
    · rw [e]; exact still
  · rcases cases_ with ⟨-, e⟩ | ⟨-, e⟩
    · rw [e, begun]; exact loseAt
    · rw [e]; exact loseAt
  · rw [wgroup, tgroup]
    change (match (s.group g).config with
      | none => (s.group g).aspect
      | some k => if g ∈ s.seq.losing then k.lost (s.group g).aspect else (s.group g).aspect) = _
    rw [hk]
    dsimp only
    by_cases mem : g ∈ s.seq.losing
    · cases (s.group g).aspect <;> simp [mem, GroupConfig.lost]
    · simp [mem]
  · simp only [wgroup]
    rw [← done]
    rcases cases_ with ⟨d, e⟩ | ⟨d, e⟩
    · rw [e, begun, d]; simp
    · rw [e, d, tseq, interstage]; simp
  · rcases cases_ with ⟨-, e⟩ | ⟨-, e⟩
    · rw [e]; exact beginStage_begun same running data stage base
    · rw [e, tseq, interstage] at state; cases state

/-- Settles O42. -/
theorem delayedLosesEndTheGreens : Obligations.DelayedLosesEndTheGreens := by
  intro s a live at_ due
  refine ⟨fun clearance => ?_, fun interstage _ => ?_⟩
  · have run : exec .clearanceLose s = .next (s.settle s.loseInClearance) := by
      rw [exec_of_live (i := .clearanceLose) live rfl, State.whenDue, if_pos (exec_loseDue clearance at_ due)]
    exact ⟨_, _, settle_ends s _, run, clearanceLose_spec clearance⟩
  · have run : exec .truncationLose s = .next (s.settle s.loseInTruncation) := by
      rw [exec_of_live (i := .truncationLose) live rfl, State.whenDue, if_pos (exec_loseDue interstage at_ due)]
    obtain ⟨w, still, loseAt, aspect, state, begun, ends⟩ := truncationLose_spec interstage
    exact ⟨w, _, _, settle_ends s _, run, still, loseAt, aspect, state, begun, ends⟩

/-! ## RED_AMBER, GREEN and RED in time (R11, R12, R26) -/

theorem mem_conflictsOf (s : State) (l g : GroupIx) : l ∈ s.conflictsOf g ↔ s.conflicting l g = true := by
  simp [State.conflictsOf]

theorem redAmber_ne_zero_iff (k : GroupConfig) : k.redAmber ≠ 0 ↔ ∃ v, k.vehicle = some v ∧ v.redAmber ≠ 0 := by
  unfold GroupConfig.redAmber
  cases k.vehicle <;> simp

theorem redAmber_of_vehicle {k : GroupConfig} {v : VehicleFields} (h : k.vehicle = some v) : k.redAmber = v.redAmber := by
  simp [GroupConfig.redAmber, h]

theorem redAmber_eq_zero_iff (k : GroupConfig) : k.redAmber = 0 ↔ ∀ v, k.vehicle = some v → v.redAmber = 0 := by
  unfold GroupConfig.redAmber
  cases k.vehicle <;> simp

theorem redAmberDue_iff {s : State} {g : GroupIx} {k : GroupConfig} (hk : (s.group g).config = some k) :
    s.redAmberDue g = true ↔ (s.group g).aspect = .red
      ∧ ∃ v a, k.vehicle = some v ∧ (s.group g).awaited = some a ∧ v.redAmber ≠ 0 ∧ a ≤ s.now + 100 * v.redAmber := by
  unfold State.redAmberDue
  dsimp only
  rw [hk]
  cases ha : (s.group g).awaited with
  | none => simp
  | some a =>
    simp only [Bool.and_eq_true, decide_eq_true_eq, bne_iff_ne, and_assoc]
    refine and_congr_right fun _ => ⟨fun ⟨some_, due⟩ => ?_, fun ⟨v, b, hv, hb, some_, due⟩ => ?_⟩
    · obtain ⟨v, hv, ne⟩ := (redAmber_ne_zero_iff k).1 some_
      rw [redAmber_of_vehicle hv] at due
      exact ⟨v, a, hv, rfl, ne, due⟩
    · cases hb
      rw [redAmber_of_vehicle hv]
      exact ⟨some_, due⟩

theorem amberGone_iff (s : State) (g : GroupIx) :
    s.amberGone g = true ↔ ∀ l : GroupIx, s.conflicting l g = true → (s.group l).aspect ≠ .amber := by
  simp [State.amberGone, mem_conflictsOf]

theorem greenDue_iff {s : State} {g : GroupIx} {k : GroupConfig} (hk : (s.group g).config = some k) :
    s.greenDue g = true ↔ (∀ l : GroupIx, s.conflicting l g = true → (s.group l).aspect ≠ .amber)
      ∧ ∃ a, (s.group g).awaited = some a ∧ a ≤ s.now
      ∧ (((s.group g).aspect = .red ∧ ∀ v, k.vehicle = some v → v.redAmber = 0)
        ∨ ((s.group g).aspect = .redAmber ∧ (s.group g).aspectEntry ≤ s.now
          ∧ ∀ v, k.vehicle = some v → (s.group g).aspectEntry + 100 * v.redAmber ≤ s.now)) := by
  have run : ((s.group g).aspectEntry ≤ s.now ∧ ∀ v, k.vehicle = some v →
      (s.group g).aspectEntry + 100 * v.redAmber ≤ s.now) ↔ (s.group g).aspectEntry + ms k.redAmber ≤ s.now := by
    unfold GroupConfig.redAmber ms
    cases hv : k.vehicle with
    | none => simp
    | some v =>
      simp only [Option.some.injEq, forall_eq']
      exact ⟨fun h => h.2, fun h => ⟨(Nat.le_add_right _ _).trans h, h⟩⟩
  unfold State.greenDue
  dsimp only
  rw [hk]
  cases ha : (s.group g).awaited with
  | none => simp
  | some a =>
    simp only [Bool.and_eq_true, Bool.or_eq_true, decide_eq_true_eq, amberGone_iff, beq_iff_eq, Option.some.injEq,
      exists_eq_left']
    refine and_congr_right fun _ => ⟨?_, ?_⟩
    · rintro (⟨⟨red, zero⟩, due⟩ | ⟨amber, due⟩)
      · exact ⟨due, .inl ⟨red, (redAmber_eq_zero_iff k).1 zero⟩⟩
      · have h := max_le_iff.1 due
        exact ⟨h.1, .inr ⟨amber, run.2 h.2⟩⟩
    · rintro ⟨due, ⟨red, zero⟩ | ⟨amber, past⟩⟩
      · exact .inl ⟨⟨red, (redAmber_eq_zero_iff k).2 zero⟩, due⟩
      · exact .inr ⟨amber, max_le due (run.1 past)⟩

theorem amberDue_iff {s : State} {g : GroupIx} {k : GroupConfig} (hk : (s.group g).config = some k) :
    s.amberDue g = true ↔ (s.group g).aspect = .amber
      ∧ ∃ v, k.vehicle = some v ∧ (s.group g).aspectEntry + 100 * v.amberTime ≤ s.now := by
  unfold State.amberDue
  dsimp only
  rw [hk]
  cases hv : k.vehicle with
  | none => simp [hv]
  | some v =>
    simp only [Option.bind_some, hv, Bool.and_eq_true, decide_eq_true_eq, Option.some.injEq, exists_eq_left']
    rfl

theorem intergreen_of_conflicting {s : State} {l g : GroupIx} (h : s.conflicting l g = true) :
    ∃ n, s.intergreen l g = some n := by
  rw [conflicting_eq] at h
  exact Option.isSome_iff_exists.1 h

/-- An amber that a due green waits for is due to end too (R26). -/
theorem amberDue_of_awaited {s : State} (await : s.AwaitLaw) (amber : s.AmberLaw) {l g : GroupIx} {a : Instant}
    (awaited : (s.group g).awaited = some a) (due : a ≤ s.now) (apart : s.conflicting l g = true)
    (shows : (s.group l).aspect = .amber) : s.amberDue l = true := by
  obtain ⟨n, green⟩ := intergreen_of_conflicting apart
  obtain ⟨times, entries, -⟩ := amber
  obtain ⟨entry, k, v, hk, hv⟩ := entries l shows
  have fits := times l g k v n hk hv green
  have bound := await l g n a green awaited
  refine (amberDue_iff hk).2 ⟨shows, v, hv, ?_⟩
  rw [entry]
  exact (Nat.add_le_add_left (Nat.mul_le_mul_left 100 fits) _).trans (bound.trans due)

/-! ## The green that ends an interstage (R11, R64, R94) -/

/-- The state of a green begun, before its interstage's end is judged. -/
def State.greenBegun (s : State) (g : GroupIx) : State :=
  let t := (s.setGroup g { s.group g with awaited := none }).setAspect g .green
  t.setSeq { t.seq with greenStarts := t.seq.greenStarts.set g (some t.now) }

theorem startGreen_eq (s : State) (g : GroupIx) : s.startGreen g = (s.greenBegun g).judgeInterstage := rfl

theorem greenBegun_spec {s : State} {g : GroupIx} {k : GroupConfig} (hk : (s.group g).config = some k) :
    s.AspectChanged (s.greenBegun g) g k .green ∧ ((s.greenBegun g).group g).awaited = none
      ∧ (s.greenBegun g).seq = { s.seq with greenStarts := s.seq.greenStarts.set g (some s.now) }
      ∧ (s.greenBegun g).guard.Sublist s.guard
      ∧ s.greenBegun g = { s with
          groups := (s.greenBegun g).groups, guard := (s.greenBegun g).guard, circuits := (s.greenBegun g).circuits
          channel := (s.greenBegun g).channel, output := (s.greenBegun g).output, seq := (s.greenBegun g).seq } := by
  obtain ⟨v, hv⟩ : ∃ v, v = (s.setGroup g { s.group g with awaited := none }).setAspect g .green := ⟨_, rfl⟩
  have frame := setAspect_spec (s.setGroup g { s.group g with awaited := none }) g .green
  rw [← hv, if_pos rfl] at frame
  have run : s.greenBegun g = v.setSeq { v.seq with greenStarts := v.seq.greenStarts.set g (some v.now) } := by
    rw [hv]; rfl
  have still : v.still = s.still := by
    rw [hv]
    exact (setAspect_still _ _ _).trans (setGroup_still s rfl)
  refine ⟨setAspect_changed hk .green none hv (by rw [run]; rfl) (by rw [run]; rfl) (by rw [run]; rfl) (by rw [run]; rfl)
    (by rw [run, frame]; rfl) (by rw [run]; exact (setSeq_still v _).trans still), ?_, by rw [run, frame]; rfl, ?_,
    by rw [run, frame]; rfl⟩
  · have hk' : ((s.setGroup g { s.group g with awaited := none }).group g).config = some k := by
      rw [State.setGroup_group_self]; exact hk
    rw [run]
    change (v.group g).awaited = none
    have aspect : (v.group g).aspect = .green := by rw [hv, setAspect_aspect, if_pos rfl]
    rw [hv, setAspect_eq hk'] at aspect ⊢
    rw [guardJudge_awaited (.inl fun takes => ?_)]
    · rw [orderDrives_spec, aspectSet_frame]
      simp [State.group, Group.entering]
    · obtain ⟨-, takes⟩ := takes
      rw [(guardJudge_aspect _ g).1] at aspect
      rw [aspect] at takes
      rcases takes with h | h | h <;> cases h
  · rw [run]
    change v.guard.Sublist s.guard
    rw [hv]
    exact setAspect_sublist (s.setGroup g { s.group g with awaited := none }) g .green

theorem AspectChanged_of_groups {s t w : State} {g : GroupIx} {k : GroupConfig} {a : Aspect} (h : s.AspectChanged t g k a)
    (groups : w.groups = t.groups) (circuits : w.circuits = t.circuits) (channel : w.channel = t.channel)
    (output : w.output = t.output) (junction : w.junction = t.junction) (still : w.still = t.still) :
    s.AspectChanged w g k a := by
  obtain ⟨aspect, entry, greenOff, others, ordered, safe, state, held⟩ := h
  have group (h : GroupIx) : w.group h = t.group h := by unfold State.group; rw [groups]
  have flash : w.flashOn = t.flashOn := by unfold State.flashOn; rw [output]
  refine ⟨by rw [group]; exact aspect, by rw [group]; exact entry, by rw [group]; exact greenOff,
    fun h ne => by rw [group]; exact others h ne, ?_, by rw [output]; exact safe, by rw [junction]; exact state,
    still.trans held⟩
  rw [flash]
  exact Ordered_congr ordered (fun _ => Iff.rfl) (fun _ _ => rfl) rfl rfl rfl rfl circuits channel
    fun c => watched_congr groups output c

/-- A green begun, with the end of its interstage (R11, R64, R94, R95). -/
theorem startGreen_spec {s : State} {g : GroupIx} {k : GroupConfig} (hk : (s.group g).config = some k) :
    ∃ w, s.AspectChanged w g k .green ∧ (w.group g).awaited = none ∧ w.seq.greenStarts.get g = some s.now
      ∧ (s.seq.state ≠ .interstage → w.seq.state = s.seq.state)
      ∧ (s.seq.state = .interstage →
          (w.seq.state = .stage ↔ s.seq.loseAt = none
            ∧ (∀ l ∈ s.seq.losing, l ≠ g ∧ (s.group l).aspect ≠ .green)
            ∧ ∀ h ∈ s.seq.gaining, h = g ∨ (s.group h).aspect = .green))
      ∧ (∀ c b d i, s.pre.chain[s.seq.above]? = some c → s.planData c.plan = some (b, d) → s.seq.stage = some i →
          (c.invoker = none → d.base ≠ none) → s.seq.state = .interstage → w.seq.state = .stage →
          s.StageBegun w c b d i)
      ∧ s.EndsInterstage w (s.startGreen g) := by
  obtain ⟨changed, awaited, seq, guard, frame⟩ := greenBegun_spec hk
  rw [startGreen_eq]
  generalize s.greenBegun g = t at changed awaited seq guard frame ⊢
  have start : t.seq.greenStarts.get g = some s.now := by rw [seq]; simp
  have state : t.seq.state = s.seq.state := by rw [seq]
  by_cases interstage : s.seq.state = .interstage
  · obtain ⟨w, hw, ends⟩ := judgeInterstage_ends (s := s) (t := t) state (by rw [seq]) interstage
    have begun := beginStage_frame t
    have cases_ : (t.seq.loseAt = none ∧ t.interstageDone = true ∧ w = t.beginStage)
        ∨ (¬(t.seq.loseAt = none ∧ t.interstageDone = true) ∧ w = t) := by
      by_cases h : t.seq.loseAt = none ∧ t.interstageDone = true
      · rw [hw, if_pos h]; exact .inl ⟨h.1, h.2, rfl⟩
      · rw [hw, if_neg h]; exact .inr ⟨h, rfl⟩
    have same : s.AspectChanged w g k .green ∧ w.groups = t.groups ∧ w.seq.greenStarts = t.seq.greenStarts := by
      rcases cases_ with ⟨-, -, e⟩ | ⟨-, e⟩
      · rw [e]
        exact ⟨AspectChanged_of_groups changed (by rw [begun]) (by rw [begun]) (by rw [begun]) (by rw [begun])
          (by rw [begun]) (beginStage_still t), by rw [begun], by rw [begun]⟩
      · rw [e]; exact ⟨changed, rfl, rfl⟩
    obtain ⟨changed', groups, starts⟩ := same
    have done := interstageDone_iff t
    rw [show t.seq.gaining = s.seq.gaining by rw [seq], show t.seq.losing = s.seq.losing by rw [seq]] at done
    have aspect (h : GroupIx) : (t.group h).aspect = if h = g then .green else (s.group h).aspect := by
      obtain ⟨own, -, -, others, -⟩ := changed
      by_cases e : h = g
      · subst e; rw [if_pos rfl]; exact own
      · rw [if_neg e]; exact (others h e).1
    refine ⟨w, changed', ?_, by rw [starts]; exact start, fun h => absurd interstage h, fun _ => ?_,
      fun c b d i running data stage base _ begins => ?_, ends⟩
    · unfold State.group at awaited ⊢
      rw [groups]
      exact awaited
    · have whole : w.seq.state = .stage ↔ t.seq.loseAt = none ∧ t.interstageDone = true := by
        rcases cases_ with ⟨l, d, e⟩ | ⟨not, e⟩
        · rw [e, begun, l, d]; simp
        · rw [e, state, interstage]
          exact ⟨fun h => (nomatch h), fun h => absurd h not⟩
      rw [whole, done, show t.seq.loseAt = s.seq.loseAt by rw [seq]]
      simp only [aspect]
      refine and_congr_right fun _ => and_comm.trans (and_congr (forall₂_congr fun l _ => ?_) (forall₂_congr fun h _ => ?_))
      · by_cases e : l = g <;> simp [e]
      · by_cases e : h = g <;> simp [e]
    · rcases cases_ with ⟨l, -, e⟩ | ⟨-, e⟩
      · rw [e]
        have loseAt : s.seq.loseAt = none := by rw [← l, seq]
        refine beginStage_begun ⟨by rw [frame], by rw [frame], guard, by rw [frame], by rw [frame], ?_⟩ running data stage base
        rw [seq, ← loseAt]
      · rw [e, state, interstage] at begins; cases begins
  · have away : t.seq.state ≠ .interstage := by rw [state]; exact interstage
    rw [judgeInterstage_elsewhere away]
    exact ⟨t, changed, awaited, start, fun _ => state, fun h => absurd h interstage,
      fun _ _ _ _ _ _ _ _ h => absurd h interstage, fun _ => rfl, fun h => absurd h.2.1 interstage⟩

theorem exec_greenStart {s : State} {g : GroupIx} (live : s.resetHeld = false) (due : s.greenDue g = true) :
    exec (.greenStart (number g)) s = .next (s.settle (s.startGreen g)) := by
  rw [exec_of_live (i := .greenStart (number g)) live rfl, indexOf_number]
  simp only [State.whenDue, due, if_true]

end Sys2Proof.Machine
end

section
/-! Aspects in time, the flash timebase and the ends of stages: the obligations O40 and O41. -/

namespace Sys2Proof.Machine

/-! ## RED_AMBER begun and AMBER ended (R11, R12, R81) -/

theorem redAmberBegin_spec {s : State} {g : GroupIx} {k : GroupConfig} (hk : (s.group g).config = some k) :
    s.AspectChanged (s.setAspect g .redAmber) g k .redAmber
      ∧ ((∀ r ∈ s.guard, r.group ≠ g) → ((s.setAspect g .redAmber).group g).awaited = (s.group g).awaited) := by
  refine ⟨setAspect_changed hk .redAmber (s.group g).awaited ?_ rfl rfl rfl rfl ?_ (setAspect_still s g .redAmber),
    fun none => ?_⟩
  · rw [show ({ s.group g with awaited := (s.group g).awaited } : Group) = s.group g from rfl, setGroup_self]
  · rw [setAspect_spec]
  · rw [setAspect_eq hk, guardJudge_awaited (.inr ?_)]
    · rw [orderDrives_spec, aspectSet_frame]
      simp [State.group, Group.entering]
    · rw [orderDrives_spec, aspectSet_frame]
      exact none

theorem amberEnd_spec {s : State} {g : GroupIx} {k : GroupConfig} (hk : (s.group g).config = some k) :
    s.AspectChanged (s.setAspect g .red).clearanceCheck g k .red
      ∧ (s.setAspect g .red).clearanceCheck.junction = { s.junction with
          clearance := if s.junction.clearance = some .awaitingRed
              ∧ (∀ h : GroupIx, (s.group h).config ≠ none → h = g ∨ (s.group h).aspect = .red)
            then some (.allRed s.now) else s.junction.clearance } := by
  have changed : s.AspectChanged (s.setAspect g .red) g k .red := by
    refine setAspect_changed hk .red (s.group g).awaited ?_ rfl rfl rfl rfl ?_ (setAspect_still s g .red)
    · rw [show ({ s.group g with awaited := (s.group g).awaited } : Group) = s.group g from rfl, setGroup_self]
    · rw [setAspect_spec]
  have frame := clearanceCheck_frame (s.setAspect g .red)
  have aspect (h : GroupIx) := setAspect_aspect s g h .red
  have config (h : GroupIx) := setAspect_config s g h .red
  have junction : (s.setAspect g .red).junction = s.junction := by rw [setAspect_spec]
  have now : (s.setAspect g .red).now = s.now := by rw [setAspect_spec]
  have still := clearanceCheck_still (s.setAspect g .red)
  generalize s.setAspect g .red = t at changed frame aspect config junction now still ⊢
  generalize t.clearanceCheck = u at frame still ⊢
  obtain ⟨own, entry, greenOff, others, ordered, safe, state, held⟩ := changed
  have red (h : GroupIx) : (t.group h).aspect = .red ↔ h = g ∨ (s.group h).aspect = .red := by
    rw [aspect]
    by_cases e : h = g <;> simp [e]
  refine ⟨?_, ?_⟩
  · rw [frame]
    refine ⟨own, entry, greenOff, others, ?_, safe, state, ?_⟩
    · exact Ordered_congr ordered (fun _ => Iff.rfl) (fun _ _ => rfl) rfl rfl rfl rfl rfl rfl
        fun c => watched_congr rfl rfl c
    · rw [← frame]; exact still.trans held
  · rw [frame]
    dsimp only
    rw [junction, now]
    simp only [red, config]

/-! ## The flash timebase (R14) -/

/-- Orders given to the circuits of each of a list of groups are orders to one list of circuits. -/
theorem each_orderFlash (l : List GroupIx) (t : State) (on : CircuitIx → Bool)
    (agrees : ∀ g ∈ l, ∀ k, (t.group g).config = some k → (t.group g).aspect = .flashAmber →
      ∀ c ∈ k.circuits, k.lights .flashAmber t.flashOn c = on c) :
    t.each State.orderFlash l = (l.flatMap fun g => match (t.group g).config with
      | some k => if (t.group g).aspect = .flashAmber then k.circuits else []
      | none => []).foldl (fun t c => t.orderDrive c (on c)) t := by
  induction l generalizing t with
  | nil => rfl
  | cons g l ih =>
    have first : t.orderFlash g = ((match (t.group g).config with
        | some k => if (t.group g).aspect = Aspect.flashAmber then k.circuits else []
        | none => [])).foldl (fun t c => t.orderDrive c (on c)) t := by
      unfold State.orderFlash
      cases hk : (t.group g).config with
      | none => rfl
      | some k =>
        dsimp only
        by_cases flashes : (t.group g).aspect = .flashAmber
        · rw [if_pos flashes, if_pos flashes]
          have same := agrees g List.mem_cons_self k hk flashes
          unfold State.orderDrives
          dsimp only
          generalize t.flashOn = half at same
          generalize hl : k.circuits = cs at same
          clear hk hl
          generalize t = v
          induction cs generalizing v with
          | nil => rfl
          | cons c cs ihc =>
            rw [List.foldl_cons, List.foldl_cons, same c List.mem_cons_self]
            exact ihc (fun c mem => same c (List.mem_cons_of_mem _ mem)) _
        · rw [if_neg flashes, if_neg flashes]
          rfl
    have frame : t.orderFlash g = { t with circuits := (t.orderFlash g).circuits, channel := (t.orderFlash g).channel } := by
      unfold State.orderFlash
      split
      · split
        · rw [orderDrives_spec]
        · rfl
      · rfl
    have group (h : GroupIx) : (t.orderFlash g).group h = t.group h := by rw [frame]; rfl
    have flash : (t.orderFlash g).flashOn = t.flashOn := by rw [frame]; rfl
    rw [show t.each State.orderFlash (g :: l) = (t.orderFlash g).each State.orderFlash l from rfl,
      ih (t.orderFlash g) fun h mem k hk flashes => ?_]
    · simp only [group]
      rw [List.flatMap_cons, List.foldl_append, ← first]
    · rw [flash]
      rw [group] at hk flashes
      exact agrees h (List.mem_cons_of_mem _ mem) k hk flashes

theorem lights_flashAmber (k : GroupConfig) (half : Bool) (c : CircuitIx) :
    k.lights .flashAmber half c = (half && k.vehicle.any fun v => v.amber == c) := rfl

theorem amber_mem_circuits {k : GroupConfig} {v : VehicleFields} (h : k.vehicle = some v) : v.amber ∈ k.circuits := by
  simp [GroupConfig.circuits, h]

/-- The change of half (R14). -/
theorem changeHalf_spec {s : State} {f : FlashBase} (unique : s.UniqueLaw) (safe : s.output.safeEnable = true)
    (base : s.output.flash = some f) :
    let u := s.changeHalf
    u.output = { s.output with flash := some { on := !f.on, next := f.next + 500 } }
      ∧ (∀ (g : GroupIx) k v, (s.group g).config = some k → k.vehicle = some v →
          (s.group g).aspect = .flashAmber → (u.circuit v.amber).drive.on = !f.on)
      ∧ (∀ c : CircuitIx, (∀ (g : GroupIx) k, (s.group g).config = some k →
            (s.group g).aspect = .flashAmber → c ∉ k.circuits) → (u.circuit c).drive = (s.circuit c).drive)
      ∧ s.Ordered u
          (fun c => ∃ (g : GroupIx) (k : GroupConfig), (s.group g).config = some k
            ∧ (s.group g).aspect = .flashAmber ∧ c ∈ k.circuits)
          (fun c => !f.on && (List.finRange 16).any fun g => (s.group g).aspect == .flashAmber
            && (s.group g).config.any fun k => k.vehicle.any fun v => v.amber == c)
      ∧ u.groups = s.groups ∧ u.seq = s.seq ∧ u.pre = s.pre ∧ u.junction = s.junction ∧ u.still = s.still := by
  intro u
  obtain ⟨t, ht⟩ : ∃ t, t = s.setOutput { s.output with flash := some { on := !f.on, next := f.next + 500 } } := ⟨_, rfl⟩
  have run : u = t.each State.orderFlash t.presentGroups := by
    change s.changeHalf = _
    unfold State.changeHalf
    rw [base, ht]
  obtain ⟨on, hon⟩ : ∃ on : CircuitIx → Bool, on = fun c => !f.on && (List.finRange 16).any fun g =>
      (s.group g).aspect == .flashAmber && (s.group g).config.any fun k => k.vehicle.any fun v => v.amber == c := ⟨_, rfl⟩
  rw [← hon]
  have tgroup (g : GroupIx) : t.group g = s.group g := by rw [ht]; rfl
  have flash : t.flashOn = !f.on := by rw [ht]; rfl
  have lit (g : GroupIx) (k : GroupConfig) (hk : (s.group g).config = some k) (flashes : (s.group g).aspect = .flashAmber)
      (c : CircuitIx) (mem : c ∈ k.circuits) : k.lights .flashAmber (!f.on) c = on c := by
    rw [lights_flashAmber, hon]
    dsimp only
    congr 1
    rw [Bool.eq_iff_iff, List.any_eq_true]
    constructor
    · intro amber
      exact ⟨g, List.mem_finRange g, by rw [flashes, hk]; simpa using amber⟩
    · rintro ⟨h, -, both⟩
      obtain ⟨-, amber⟩ := Bool.and_eq_true_iff.1 both
      obtain ⟨m, hm, amber⟩ := Option.any_eq_true _ _ |>.1 amber
      obtain ⟨v, hv, eq⟩ := Option.any_eq_true _ _ |>.1 amber
      by_cases e : h = g
      · subst e
        rw [hk] at hm
        cases hm
        rw [hv]
        exact eq
      · have shared : c ∈ m.circuits := by
          rw [← beq_iff_eq.1 eq]
          exact amber_mem_circuits hv
        exact absurd shared ((unique g k hk).2 h m hm e c mem)
  have whole := each_orderFlash t.presentGroups t on fun g _ k hk flashes c mem => by
    rw [flash]
    rw [tgroup] at hk flashes
    exact lit g k hk flashes c mem
  simp only [tgroup] at whole
  obtain ⟨L, hL⟩ : ∃ L, L = t.presentGroups.flatMap fun g => match (s.group g).config with
      | some k => if (s.group g).aspect = .flashAmber then k.circuits else []
      | none => [] := ⟨_, rfl⟩
  rw [← hL] at whole
  have mem (c : CircuitIx) : c ∈ L ↔ ∃ (g : GroupIx) (k : GroupConfig), (s.group g).config = some k
      ∧ (s.group g).aspect = .flashAmber ∧ c ∈ k.circuits := by
    rw [hL, List.mem_flatMap]
    constructor
    · rintro ⟨g, -, h⟩
      cases hk : (s.group g).config with
      | none => rw [hk] at h; cases h
      | some k =>
        rw [hk] at h
        dsimp only at h
        by_cases flashes : (s.group g).aspect = .flashAmber
        · rw [if_pos flashes] at h; exact ⟨g, k, hk, flashes, h⟩
        · rw [if_neg flashes] at h; cases h
    · rintro ⟨g, k, hk, flashes, h⟩
      refine ⟨g, ?_, ?_⟩
      · rw [mem_presentGroups, tgroup, hk]; simp
      · rw [hk]
        dsimp only
        rw [if_pos flashes]
        exact h
  rw [whole] at run
  have frame := orders_spec on L t
  have drive (c : CircuitIx) := orders_drive on c L t
  have ordered := orders_ordered on L t
  rw [← run] at frame drive ordered
  have tsafe : t.output.safeEnable = true := by rw [ht]; exact safe
  clear_value u
  refine ⟨by rw [frame, ht]; rfl, fun g k v hk hv flashes => ?_, fun c none => ?_, ?_, by rw [frame, ht]; rfl,
    by rw [frame, ht]; rfl, by rw [frame, ht]; rfl, by rw [frame, ht]; rfl, ?_⟩
  · have among : v.amber ∈ L := (mem v.amber).2 ⟨g, k, hk, flashes, amber_mem_circuits hv⟩
    have wants : on v.amber = !f.on := by
      rw [← lit g k hk flashes v.amber (amber_mem_circuits hv), lights_flashAmber, hv]
      simp
    rw [drive, if_pos among, tsafe, wants]
    unfold Drive.ordered
    split
    · assumption
    · simp
  · rw [drive, if_neg fun h => ?_, ht]
    · rfl
    · obtain ⟨g, k, hk, flashes, inside⟩ := (mem c).1 h
      exact none g k hk flashes inside
  · refine Ordered_congr ordered mem (fun _ _ => rfl) (by rw [ht]; rfl) (by rw [ht]; rfl) (by rw [ht]; rfl)
      (by rw [ht]; rfl) rfl rfl fun c => rfl
  · rw [run]
    refine (foldl_keeps State.still _ (fun t c => orderDrive_still t c (on c)) L t).trans ?_
    rw [ht]
    exact setOutput_still s rfl

/-- Settles O40. -/
theorem aspectsFollowInTime : Obligations.AspectsFollowInTime := by
  refine ⟨fun s g k hk => ⟨fun await amber l a awaited due apart shows => ?_, redAmberDue_iff hk, greenDue_iff hk,
    amberDue_iff hk⟩, fun s g k live hk => ⟨fun due => ?_, fun due => ?_, fun due => ?_⟩,
    fun s f live unique safe base due => ?_⟩
  · exact amberDue_of_awaited await amber awaited due apart shows
  · have run : exec (.redAmberBegin (number g)) s = .next (s.settle (s.setAspect g .redAmber)) := by
      rw [exec_of_live (i := .redAmberBegin (number g)) live rfl, indexOf_number]
      simp only [State.whenDue, due, if_true]
    obtain ⟨changed, awaited⟩ := redAmberBegin_spec hk
    exact ⟨_, _, settle_ends s _, run, changed, awaited, by rw [setAspect_spec], by rw [setAspect_spec],
      by rw [setAspect_spec]⟩
  · obtain ⟨w, changed, awaited, start, elsewhere, stage, -, ends⟩ := startGreen_spec hk
    exact ⟨w, _, _, settle_ends s _, exec_greenStart live due, changed, awaited, start, elsewhere, stage, ends⟩
  · have run : exec (.amberEnd (number g)) s = .next (s.settle (s.setAspect g .red).clearanceCheck) := by
      rw [exec_of_live (i := .amberEnd (number g)) live rfl, indexOf_number]
      simp only [State.whenDue, due, if_true]
    obtain ⟨changed, junction⟩ := amberEnd_spec hk
    exact ⟨_, _, settle_ends s _, run, changed, junction⟩
  · have run : exec .flashHalf s = .next (s.settle s.changeHalf) := by
      have flashDue : s.flashDue = true := by
        rw [State.flashDue, base]
        exact decide_eq_true due
      rw [exec_of_live (i := .flashHalf) live rfl, State.whenDue, if_pos flashDue]
    exact ⟨_, _, settle_ends s _, run, changeHalf_spec unique safe base⟩

end Sys2Proof.Machine
end


section
/-! The end of a stage: the transition into the next, and the plan switch of a cycle boundary (R63 to R66, R80, R96). -/

namespace Sys2Proof.Machine

/-! ## What an opened interstage keeps of the sequencer and of the chain -/

/-- What a context is for: its plan and the preemption it serves. -/
def Context.purpose (c : Context) : PlanIx × Option Invoker := (c.plan, c.invoker)

theorem beginStage_purposes (s : State) :
    s.beginStage.pre.chain.map Context.purpose = s.pre.chain.map Context.purpose := by
  unfold State.beginStage
  split
  · rfl
  · rename_i c running
    split
    · rfl
    · split
      · rfl
      · dsimp only
        split
        · refine (List.map_set ..).trans ?_
          refine List.ext_getElem? fun n => ?_
          rw [List.getElem?_set]
          split
          · rename_i e
            subst e
            have running : s.pre.chain[s.seq.above]? = some c := running
            have bound := (List.getElem?_eq_some_iff.1 running).1
            rw [if_pos (by rw [List.length_map]; exact bound), List.getElem?_map, running]
            rfl
          · rfl
        · rfl

/-- A remainder that is absent stays absent as a stage begins (R73). -/
theorem beginStage_remainder {s : State} (h : s.seq.remainder = none) : s.beginStage.seq.remainder = none := by
  unfold State.beginStage
  split
  · exact h
  · split
    · exact h
    · split
      · rename_i x _ _
        change (s.seq.beginBase s.now s.junction.mode _ _ x).remainder = none
        unfold Sequencer.beginBase
        dsimp only
        split
        · exact h
        · split
          · exact h
          · split
            · dsimp only; rw [h]; rfl
            · exact h
      · dsimp only
        split <;> exact h

section Opening

variable {s : State} {stage : Nat} {losing gaining : List GroupIx} {delayed : Bool} {resumed slackLength : Option Nat}
  {u : State}

/-- What an opened interstage moves of the sequencer, whether its stage begins at once or not. -/
theorem openInterstage_seq (hu : u = s.openInterstage stage losing gaining delayed resumed slackLength) :
    u.seq = { s.seq.opened s.now stage losing gaining u.seq.loseAt resumed slackLength with
      state := u.seq.state, greenStart := u.seq.greenStart, greenStarts := u.seq.greenStarts
      position := u.seq.position, excess := u.seq.excess, remainder := u.seq.remainder, length := u.seq.length
      holdMinGreen := u.seq.holdMinGreen, slackLength := u.seq.slackLength, dwellOver := u.seq.dwellOver }
    ∧ u.pre.chain.map Context.purpose = s.pre.chain.map Context.purpose
    ∧ (s.seq.remainder = none → u.seq.remainder = none)
    ∧ (u.seq.state = .stage → u.seq.greenStart = s.now) := by
  have spec := openInterstage_spec s stage losing gaining delayed resumed slackLength
  dsimp only at spec
  have frame := opened_frame s stage losing gaining delayed resumed slackLength
  rw [← hu] at spec
  generalize s.opened stage losing gaining delayed resumed slackLength = v at spec frame
  obtain ⟨begun, open_, -, -, state, -⟩ := spec
  have vseq : v.seq = { s.seq.opened s.now stage losing gaining v.seq.loseAt resumed slackLength with
      greenStarts := v.seq.greenStarts } := by
    rw [frame]
    rfl
  have vpre : v.pre = s.pre := by rw [frame]
  have vnow : v.now = s.now := by rw [frame]
  cases done : v.interstageDone with
  | true =>
    have e := beginStage_frame v
    have purposes := beginStage_purposes v
    have remainder := beginStage_remainder (s := v)
    rw [begun done]
    generalize v.beginStage = w at e purposes remainder ⊢
    have wseq : w.seq = _ := congrArg State.seq e
    refine ⟨?_, by rw [purposes, vpre], fun none => remainder (by rw [vseq]; exact none), fun _ => by rw [wseq]; exact vnow⟩
    rw [wseq]
    dsimp only
    rw [vseq]
    rfl
  | false =>
    rw [open_ done]
    refine ⟨?_, by rw [vpre], fun none => by rw [vseq]; exact none, fun h => by rw [state] at h; cases h⟩
    conv_lhs => rw [vseq]
    rw [show v.seq.state = .interstage from state]
    rw [vseq]
    rfl

end Opening

/-! ## The transition into the next stage (R63) -/

theorem transition_spec {s : State} {before after : List GroupIx} {i : Nat} (present : ∀ g ∈ before, (s.group g).config ≠ none)
    {u : State} (hu : u = s.transition before i after) :
    u.seq.stage = some i ∧ u.seq.interStart = s.now
      ∧ (∀ g ∈ before, g ∉ after → (u.group g).aspect ≠ .green)
      ∧ (∀ g : GroupIx, (g ∉ before ∨ g ∈ after) → (u.group g).aspect = (s.group g).aspect)
      ∧ (∀ g ∈ after, g ∉ before → (s.group g).config ≠ none →
          ((s.group g).aspect = .red ∨ (s.group g).aspect = .redAmber ∨ (s.group g).aspect = .amber) →
          (u.group g).awaited ≠ none ∨ ∃ r ∈ u.guard, r.group = g ∧ r.change = s.now)
      ∧ ((∀ g ∈ after, g ∈ before) → u.seq.state = .stage ∧ u.seq.greenStart = s.now) := by
  obtain ⟨losing, hl⟩ : ∃ losing, losing = before.filter fun g => !after.contains g := ⟨_, rfl⟩
  obtain ⟨gaining, hg⟩ : ∃ gaining, gaining = after.filter fun g => !before.contains g := ⟨_, rfl⟩
  have run : u = s.openInterstage i losing gaining false none none := by rw [hu, hl, hg]; rfl
  have losers (g : GroupIx) : g ∈ losing ↔ g ∈ before ∧ g ∉ after := by rw [hl]; simp
  have gainers (g : GroupIx) : g ∈ gaining ↔ g ∈ after ∧ g ∉ before := by rw [hg]; simp
  have spec := openInterstage_spec s i losing gaining false none none
  have aspect := opened_aspect s i losing gaining false none none
  have asks (g : GroupIx) := opened_asks s i losing gaining false none none (g := g)
  obtain ⟨-, -, -, greenStart⟩ := openInterstage_seq run
  have lost : s.losesNow losing false = s.each State.lose losing := if_pos (le_refl s.now)
  dsimp only at spec
  rw [← run] at spec
  have vseq : (s.opened i losing gaining false none none).seq.gaining = gaining
      ∧ (s.opened i losing gaining false none none).seq.losing = losing := by
    rw [opened_frame]
    exact ⟨rfl, rfl⟩
  generalize s.opened i losing gaining false none none = v at spec aspect asks vseq
  obtain ⟨-, -, groups, guard, -, state, stage, start, -⟩ := spec
  have group (g : GroupIx) : u.group g = v.group g := by
    unfold State.group
    rw [groups]
  have kept {g : GroupIx} (not : g ∉ losing) : (u.group g).aspect = (s.group g).aspect := by
    rw [group, aspect, losesNow_aspect_of_not_mem not]
  have loser {g : GroupIx} (mem : g ∈ losing) : (u.group g).aspect ≠ .green := by
    obtain ⟨k, hk⟩ := Option.ne_none_iff_exists'.1 (present g ((losers g).1 mem).1)
    rw [group, aspect, lost, each_lose_aspect, hk]
    dsimp only
    rw [if_pos mem]
    unfold GroupConfig.lost
    split
    · split <;> decide
    · decide
    · rename_i green _; exact green
  refine ⟨stage, start, fun g mem not => loser ((losers g).2 ⟨mem, not⟩), fun g h => kept fun mem => ?_,
    fun g mem not there takes => ?_, fun none => ?_⟩
  · obtain ⟨inside, out⟩ := (losers g).1 mem
    exact h.elim (fun h => h inside) out
  · have other : g ∉ losing := fun h => not ((losers g).1 h).1
    have takes' : (s.losesNow losing false).Takes g := by
      unfold State.Takes
      rw [losesNow_config, losesNow_aspect_of_not_mem other]
      exact ⟨there, takes⟩
    have := asks g ((gainers g).2 ⟨mem, not⟩) takes'
    unfold State.Asks at this
    rw [← group, ← guard] at this
    exact this
  · have done : v.interstageDone = true := by
      refine (interstageDone_iff v).2 ⟨fun g mem => ?_, fun g mem => ?_⟩
      · rw [vseq.1, gainers] at mem
        exact absurd (none g mem.1) mem.2
      · rw [vseq.2] at mem
        rw [← group]
        exact loser mem
    rw [done, if_pos rfl] at state
    exact ⟨state, greenStart state⟩

/-! ## The end of a stage -/

/-- The preparation of a base stage's end: the position at the start of the next interstage (R65). -/
def State.positioned (s : State) (d : Derived) (x : BaseDerived) (k i : Nat) : State :=
  s.setSeq { s.seq with position := s.positionAtInterstage d x k i }

/-- The end of a base stage with no plan switch (R63, R65). -/
theorem endStage_base {s : State} {c : Context} {b : PlanBody} {d : Derived} {x : BaseDerived} {i : Nat}
    (top : s.pre.chain.head? = some c) (data : s.planData c.plan = some (b, d)) (inv : c.invoker = none)
    (current : s.seq.current = some c.plan) (base : d.base = some x) (stage : s.seq.stage = some i)
    (stays : i < b.stages.length ∨ s.seq.pendingPlan = none ∨ ∃ z ∈ s.pre.chain, z.invoker ≠ none) :
    let next := if i < b.stages.length then i + 1 else 1
    s.endStage = (s.positioned d x b.slackIndex next).transition (b.greens i) next (b.greens next) := by
  have at_ : s.seq.stage.getD 1 = i := by rw [stage]; rfl
  have boundary : (if i < b.count then s else s.atBoundary) = s := by
    split
    · rfl
    · rename_i last
      unfold State.atBoundary
      rcases stays with h | h | ⟨z, mem, h⟩
      · exact absurd h last
      · rw [h]
      · have preempted : s.preempted = true := List.any_eq_true.2 ⟨z, mem, Option.isSome_iff_ne_none.2 h⟩
        split
        · rw [if_pos preempted]
        · rfl
  have baseData : s.baseData = some (b, d, x) := by simp [State.baseData, current, data, base]
  unfold State.endStage
  rw [top]
  dsimp only
  rw [data]
  dsimp only
  rw [inv]
  dsimp only
  unfold State.endBaseStage
  dsimp only
  rw [at_, boundary, baseData]
  rfl

/-- The end of a stage of a preemption plan (R96). -/
theorem endStage_preempt {s : State} {c : Context} {b : PlanBody} {d : Derived} {i : Nat}
    (top : s.pre.chain.head? = some c) (data : s.planData c.plan = some (b, d)) (inv : c.invoker ≠ none)
    (stage : s.seq.stage = some i) : s.endStage = s.transition (b.greens i) (i + 1) (b.greens (i + 1)) := by
  have at_ : s.seq.stage.getD 1 = i := by rw [stage]; rfl
  obtain ⟨k, hk⟩ := Option.ne_none_iff_exists'.1 inv
  unfold State.endStage
  rw [top]
  dsimp only
  rw [data]
  dsimp only
  rw [hk]
  dsimp only
  rw [at_]

theorem chain_of_head {s : State} {c : Context} (top : s.pre.chain.head? = some c) :
    s.pre.chain = c :: s.pre.chain.tail := by
  obtain ⟨l, e⟩ := List.head?_eq_some_iff.1 top
  rw [e]
  rfl

/-- The stage of a base plan that begins as its interstage is opened moves no context (R64). -/
theorem openInterstage_base {s : State} {stage : Nat} {losing gaining : List GroupIx} {delayed : Bool}
    {resumed slackLength : Option Nat} {u : State} (hu : u = s.openInterstage stage losing gaining delayed resumed slackLength)
    {c : Context} {b : PlanBody} {d : Derived} {x : BaseDerived} (top : s.pre.chain.head? = some c)
    (data : s.planData c.plan = some (b, d)) (inv : c.invoker = none) (base : d.base = some x) : u.pre = s.pre := by
  have spec := openInterstage_spec s stage losing gaining delayed resumed slackLength
  dsimp only at spec
  have frame := opened_frame s stage losing gaining delayed resumed slackLength
  rw [← hu] at spec
  generalize s.opened stage losing gaining delayed resumed slackLength = v at spec frame
  obtain ⟨begun, open_, -⟩ := spec
  have vpre : v.pre = s.pre := by rw [frame]
  cases done : v.interstageDone with
  | false => rw [open_ done, vpre]
  | true =>
    have running : v.pre.chain[v.seq.above]? = some c := by
      rw [vpre, frame, chain_of_head top]
      rfl
    have vdata : v.planData c.plan = some (b, d) := by
      rw [frame]
      exact data
    rw [begun done, beginStage_base running vdata inv base]
    exact vpre

/-- The end of a base stage whose plan stays (R63 to R65). -/
theorem endStage_base_spec {s : State} {c : Context} {b : PlanBody} {d : Derived} {x : BaseDerived} {i : Nat}
    (top : s.pre.chain.head? = some c) (data : s.planData c.plan = some (b, d)) (inv : c.invoker = none)
    (current : s.seq.current = some c.plan) (base : d.base = some x) (stage : s.seq.stage = some i)
    (stays : i < b.stages.length ∨ s.seq.pendingPlan = none ∨ ∃ z ∈ s.pre.chain, z.invoker ≠ none) {next : Nat}
    (hnext : next = if i < b.stages.length then i + 1 else 1) {u : State} (hu : u = s.endStage) :
    u = (s.positioned d x b.slackIndex next).transition (b.greens i) next (b.greens next) ∧ u.pre = s.pre
      ∧ u.junction = s.junction ∧ u.plans = s.plans
      ∧ (u.seq.state = .interstage → s.junction.mode ≠ .stepped → u.seq.position = some {
          value := d.nominalStart x b.slackIndex next, since := some s.now,
          limit := d.nominalStart x b.slackIndex next + d.interstage next }) := by
  have run : u = (s.positioned d x b.slackIndex next).transition (b.greens i) next (b.greens next) := by
    have e := endStage_base top data inv current base stage stays
    dsimp only at e
    rw [← hnext] at e
    rw [hu, e]
  have frame := openInterstage_frame _ _ _ _ _ _ _ u run
  have pre := openInterstage_base (s := s.positioned d x b.slackIndex next) run top data inv base
  have position := openInterstage_open (s := s.positioned d x b.slackIndex next) run
  have junction := congrArg State.junction frame
  have plans := congrArg State.plans frame
  refine ⟨run, pre, junction, plans, fun open_ mode => ?_⟩
  rw [(position open_).2]
  change s.positionAtInterstage d x b.slackIndex next = _
  unfold State.positionAtInterstage
  rw [if_neg mode]

/-- The end of a stage of a preemption plan (R96). -/
theorem endStage_preempt_spec {s : State} {c : Context} {b : PlanBody} {d : Derived} {i : Nat}
    (top : s.pre.chain.head? = some c) (data : s.planData c.plan = some (b, d)) (inv : c.invoker ≠ none)
    (stage : s.seq.stage = some i) {u : State} (hu : u = s.endStage) :
    u = s.transition (b.greens i) (i + 1) (b.greens (i + 1))
      ∧ u.pre = { s.pre with chain :=
          (if u.seq.state = .stage ∧ b.stages.length ≤ i + 1 then { c with inDwell := true } else c) :: s.pre.chain.tail }
      ∧ u.junction = s.junction ∧ u.plans = s.plans := by
  have run := hu.trans (endStage_preempt top data inv stage)
  have frame := openInterstage_frame _ _ _ _ _ _ _ u run
  obtain ⟨chain, -⟩ := openInterstage_preempt run top data inv
  have junction := congrArg State.junction frame
  have plans := congrArg State.plans frame
  have pre := congrArg State.pre frame
  refine ⟨run, ?_, junction, plans⟩
  rw [pre]
  dsimp only
  rw [chain]

/-! ## The plan switch of a cycle boundary (R66, R80) -/

theorem resync_frame (s : State) : s.resync = { s with seq := { s.seq with sync := s.resync.seq.sync } } := by
  unfold State.resync
  split <;> rfl

/-- The pending plan switched in. -/
theorem switchPlan_spec {s : State} {c : Context} {p q : PlanIx} {b b' : PlanBody} {d d' : Derived} {x' : BaseDerived}
    (chain : s.pre.chain = [c]) (inv : c.invoker = none) (active : s.plan p = .valid .active b d) (ne : p ≠ q)
    (selected : s.plan q = .valid .selected b' d') (cls : b'.cls = .base) (base' : d'.base = some x') {u : State}
    (hu : u = s.switchPlan q) :
    u.seq.current = some q ∧ u.seq.pendingPlan = none ∧ u.seq.remainder = none
      ∧ u.plan q = .valid .active b' d' ∧ u.plan p = .valid .ready b d
      ∧ u.holds .planChanged = true ∧ (x'.stretched = true → u.holds .cycleStretched = true)
      ∧ u.pre.chain = [{ c with plan := q }] ∧ u.now = s.now := by
  have orders : ((s.plan q).phase = some .ready ∨ (s.plan q).phase = some .selected) ∧ (s.plan q).isBase = true := by
    rw [selected]
    exact ⟨.inr rfl, by simp [Plan.isBase, Plan.cls, cls]⟩
  have frame := makeActive_frame orders.1 orders.2
  have plan := makeActive_plan orders.1 orders.2
  have sync := resync_frame ((((s.makeActive q).setSeq { (s.makeActive q).seq with
    current := some q, pendingPlan := none, remainder := none, excess := 0 }).setPre { (s.makeActive q).pre with
      chain := (s.makeActive q).pre.chain.map fun c => if c.invoker.isNone then { c with plan := q } else c }).raise .planChanged)
  have stretched : (s.plan q).stretched = x'.stretched := by
    rw [selected]
    simp [Plan.stretched, base']
  have run : u = _ := hu
  change u = State.resync ((((s.makeActive q).setSeq { (s.makeActive q).seq with
    current := some q, pendingPlan := none, remainder := none, excess := 0 }).setPre { (s.makeActive q).pre with
      chain := (s.makeActive q).pre.chain.map fun c => if c.invoker.isNone then { c with plan := q } else c }).raise
        .planChanged) at run
  rw [sync] at run
  generalize (State.resync _).seq.sync = y at run
  generalize s.makeActive q = t at run frame plan
  have tchain : t.pre.chain = [c] := by rw [frame]; exact chain
  rw [run]
  refine ⟨rfl, rfl, rfl, ?_, ?_, (raise_holds _ _ _).trans (by simp), fun stretch => ?_, ?_, by rw [frame]; rfl⟩
  · change t.plan q = _
    rw [plan, State.promotePlan_plan_self, selected]
    rfl
  · change t.plan p = _
    rw [plan, State.promotePlan_plan_of_ne _ ne, active]
    rfl
  · rw [← stretched] at stretch
    have held : t.holds .cycleStretched = true := by
      rw [frame, if_pos stretch]
      exact (raise_holds _ _ _).trans (by simp)
    exact raise_keeps held
  · change t.pre.chain.map _ = _
    rw [tchain]
    simp [inv]

/-- The end of the last base stage with a plan pending (R66, R80). -/
theorem endStage_switch {s : State} {c : Context} {p q : PlanIx} {b b' : PlanBody} {d d' : Derived} {x' : BaseDerived}
    (chain : s.pre.chain = [c]) (inv : c.invoker = none) (plan : c.plan = p) (active : s.plan p = .valid .active b d)
    (stage : s.seq.stage = some b.stages.length) (pending : s.seq.pendingPlan = some q)
    (current : (s.switchPlan q).seq.current = some q) (switched : (s.switchPlan q).plan q = .valid .active b' d')
    (base' : d'.base = some x') :
    s.endStage = ((s.switchPlan q).positioned d' x' b'.slackIndex 1).transition (b.greens b.stages.length) 1 (b'.greens 1) := by
  have at_ : s.seq.stage.getD 1 = b.stages.length := by rw [stage]; rfl
  have last : ¬b.stages.length < b.count := Nat.lt_irrefl _
  have alone : s.preempted = false := by
    unfold State.preempted
    rw [chain]
    simp [inv]
  have boundary : s.atBoundary = s.switchPlan q := by
    unfold State.atBoundary
    rw [pending]
    exact if_neg (by rw [alone]; exact Bool.false_ne_true)
  have data : s.planData c.plan = some (b, d) := by rw [plan, State.planData, active]
  have baseData : (s.switchPlan q).baseData = some (b', d', x') := by
    simp [State.baseData, current, State.planData, switched, base']
  unfold State.endStage
  rw [chain]
  dsimp only [List.head?_cons]
  rw [data]
  dsimp only
  rw [inv]
  dsimp only
  unfold State.endBaseStage
  dsimp only
  rw [at_, if_neg last, if_neg last, boundary, baseData]
  rfl

theorem exec_stageEnd {s : State} (live : s.resetHeld = false) (due : s.stageEndDue = true) :
    exec .stageEnd s = .next (s.settle s.endStage) := by
  rw [exec_of_live (i := .stageEnd) live rfl, State.whenDue, if_pos due]

/-- Settles O41. -/
theorem stageEndsIntoTheNext : Obligations.StageEndsIntoTheNext := by
  refine ⟨fun s c b d i live due top data stage _ present ofBase ofPreempt => ?_,
    fun s c p q b b' d d' x x' live due chain inv plan current active base stage pending ne selected cls base' => ?_,
    fun s g k c b d i live hk due interstage loseAt gains loses running data stage base => ?_⟩
  · obtain ⟨next, hnext⟩ : ∃ next, next = if i < b.stages.length then i + 1 else 1 := ⟨_, rfl⟩
    obtain ⟨u, hu⟩ : ∃ u, u = s.endStage := ⟨_, rfl⟩
    have still : u.still = s.still := by rw [hu, endStage_still]
    rw [← hnext]
    refine ⟨u, s.settle u, settle_ends s u, by rw [hu]; exact exec_stageEnd live due, still, ?_⟩
    by_cases inv : c.invoker = none
    · obtain ⟨current, hx, stays⟩ := ofBase inv
      obtain ⟨x, hx⟩ := Option.ne_none_iff_exists'.1 hx
      obtain ⟨run, pre, junction, plans, position⟩ := endStage_base_spec top data inv current hx stage stays hnext hu
      obtain ⟨stage', start, lost, kept, asked, begun⟩ :=
        transition_spec (s := s.positioned d x b.slackIndex next) present run
      refine ⟨stage', start, lost, kept, asked, begun, fun y _ hy open_ mode => ?_, fun _ => pre, fun h => absurd inv h,
        junction, plans⟩
      cases hx.symm.trans hy
      exact position open_ mode
    · have inside := ofPreempt inv
      have e : next = i + 1 := by rw [hnext, if_pos inside]
      subst e
      obtain ⟨run, pre, junction, plans⟩ := endStage_preempt_spec top data inv stage hu
      obtain ⟨stage', start, lost, kept, asked, begun⟩ := transition_spec (s := s) present run
      exact ⟨stage', start, lost, kept, asked, begun, fun y h => absurd h inv, fun h => absurd h inv, fun _ => pre,
        junction, plans⟩
  · obtain ⟨t, ht⟩ : ∃ t, t = s.switchPlan q := ⟨_, rfl⟩
    obtain ⟨current', pending', remainder, switched, ready, changed, stretched, chain', now⟩ :=
      switchPlan_spec chain inv active ne selected cls base' ht
    obtain ⟨u, hu⟩ : ∃ u, u = s.endStage := ⟨_, rfl⟩
    have run := endStage_switch chain inv plan active stage pending (by rw [← ht]; exact current')
      (by rw [← ht]; exact switched) base'
    rw [← hu, ← ht] at run
    have frame := openInterstage_frame _ _ _ _ _ _ _ u run
    obtain ⟨seq, purposes, none_, -⟩ := openInterstage_seq run
    have still : u.still = s.still := by rw [hu, endStage_still]
    have seqCurrent := congrArg Sequencer.current seq
    have seqPending := congrArg Sequencer.pendingPlan seq
    have seqStage := congrArg Sequencer.stage seq
    have seqStart := congrArg Sequencer.interStart seq
    have plans := congrArg State.plans frame
    have link := congrArg State.link frame
    have plan' (r : PlanIx) : u.plan r = t.plan r := by
      unfold State.plan
      rw [plans]
      rfl
    have holds' (a : Attention) : u.holds a = t.holds a := by
      unfold State.holds
      rw [link]
      rfl
    refine ⟨u, s.settle u, settle_ends s u, by rw [hu]; exact exec_stageEnd live due, seqCurrent.trans current',
      seqPending.trans pending', none_ remainder, by rw [plan']; exact switched, by rw [plan']; exact ready,
      by rw [holds']; exact changed, fun h => by rw [holds']; exact stretched h, seqStage, seqStart.trans now, ?_, still⟩
    refine purposes.trans ?_
    change t.pre.chain.map _ = _
    rw [chain']
    simp [Context.purpose, inv]
  · obtain ⟨w, changed, -, -, -, stageIff, begun, ends⟩ := startGreen_spec hk
    have begins : w.seq.state = .stage := (stageIff interstage).2 ⟨loseAt, loses, gains⟩
    exact ⟨w, _, _, settle_ends s _, exec_greenStart live due, changed,
      begun c b d i running data stage base interstage begins, ends⟩

end Sys2Proof.Machine
end


section
/-! SET_MODE by the change of mode and the sequencer state, and O31 from it (R69, R78). -/

namespace Sys2Proof.Machine

/-! ## What the end of a stage keeps -/

theorem transition_keeps {s : State} {before after : List GroupIx} {i : Nat} {u : State} (hu : u = s.transition before i after) :
    u.seq.latch = s.seq.latch ∧ u.seq.watchStart = s.seq.watchStart ∧ (s.seq.remainder = none → u.seq.remainder = none)
      ∧ u.junction = s.junction := by
  have frame := openInterstage_frame _ _ _ _ _ _ _ u hu
  obtain ⟨seq, -, none, -⟩ := openInterstage_seq hu
  have latch := congrArg Sequencer.latch seq
  have watch := congrArg Sequencer.watchStart seq
  have junction := congrArg State.junction frame
  exact ⟨latch, watch, none, junction⟩

theorem atBoundary_keeps {s u : State} (hu : u = s.atBoundary) :
    u.seq.latch = s.seq.latch ∧ u.seq.watchStart = s.seq.watchStart ∧ (s.seq.remainder = none → u.seq.remainder = none)
      ∧ u.junction = s.junction := by
  have kept : u = s ∨ ∃ q, u = s.switchPlan q := by
    rw [hu]
    unfold State.atBoundary
    split
    · split
      · exact .inl rfl
      · exact .inr ⟨_, rfl⟩
    · exact .inl rfl
  rcases kept with e | ⟨q, e⟩
  · rw [e]; exact ⟨rfl, rfl, id, rfl⟩
  · have active : (s.makeActive q).seq = s.seq ∧ (s.makeActive q).junction = s.junction := by
      unfold State.makeActive
      split
      · split <;> exact ⟨rfl, rfl⟩
      · exact ⟨rfl, rfl⟩
    unfold State.switchPlan at e
    dsimp only at e
    rw [resync_frame] at e
    obtain ⟨seq, junction⟩ := active
    have latch := congrArg Sequencer.latch seq
    have watch := congrArg Sequencer.watchStart seq
    rw [e]
    exact ⟨latch, watch, fun _ => rfl, junction⟩

/-- The end of a stage leaves the latch, the watch and the junction, and an absent remainder absent. -/
theorem endStage_keeps {s u : State} (hu : u = s.endStage) :
    u.seq.latch = s.seq.latch ∧ u.seq.watchStart = s.seq.watchStart ∧ (s.seq.remainder = none → u.seq.remainder = none)
      ∧ u.junction = s.junction := by
  have same : s.seq.latch = s.seq.latch ∧ s.seq.watchStart = s.seq.watchStart ∧ (s.seq.remainder = none → s.seq.remainder = none)
      ∧ s.junction = s.junction := ⟨rfl, rfl, id, rfl⟩
  unfold State.endStage at hu
  split at hu
  · rw [hu]; exact same
  · split at hu
    · rw [hu]; exact same
    · split at hu
      · rename_i b _ _ _ _
        unfold State.endBaseStage at hu
        dsimp only at hu
        obtain ⟨t, ht⟩ : ∃ t, t = if s.seq.stage.getD 1 < b.count then s else s.atBoundary := ⟨_, rfl⟩
        have kept : t.seq.latch = s.seq.latch ∧ t.seq.watchStart = s.seq.watchStart
            ∧ (s.seq.remainder = none → t.seq.remainder = none) ∧ t.junction = s.junction := by
          split at ht
          · rw [ht]; exact same
          · exact atBoundary_keeps ht
        rw [← ht] at hu
        split at hu
        · rw [hu]; exact kept
        · obtain ⟨latch, watch, none, junction⟩ := kept
          obtain ⟨latch', watch', none', junction'⟩ := transition_keeps hu
          exact ⟨latch'.trans latch, watch'.trans watch, fun h => none' (none h), junction'.trans junction⟩
      · exact transition_keeps hu

/-! ## The change from STEPPED (R78) -/

/-- The sequencer with its cycle dropped and its watch begun or not. -/
def State.unstepped (s : State) (m : Mode) : Sequencer :=
  { s.seq with
    latch := false, excess := 0, remainder := none, lastPulse := none
    watchStart := if m = .synced then some s.now else none
    sync := if m = .synced then s.syncWithin else .none }

/-- The sequencer with the cycle of a base context on top re-established. -/
def State.restarted (s : State) (m : Mode) : Sequencer :=
  if s.topPreemption.isSome then s.unstepped m
  else
    match s.baseData with
    | some (b, d, x) => (s.unstepped m).reestablish s.now b d x
    | none => s.unstepped m

/-- The state after a change from STEPPED, before a stage that has run its split ends. -/
def State.remoded (s : State) (m : Mode) : State :=
  { s with junction := { s.junction with mode := m }, seq := s.restarted m }

theorem reestablish_stage {q : Sequencer} (h : q.state = .stage) (now : Instant) (b : PlanBody) (d : Derived) (x : BaseDerived) :
    q.reestablish now b d x = { q with
      length := some (d.split (q.stage.getD 1)), holdMinGreen := decide (q.greenStart + ms (d.split (q.stage.getD 1)) < now),
      position := some {
        value := d.nominalStart x b.slackIndex (q.stage.getD 1) + d.interstage (q.stage.getD 1), since := some q.greenStart,
        limit := d.nominalStart x b.slackIndex (q.stage.getD 1 + 1) } } := if_pos h

theorem reestablish_interstage {q : Sequencer} (h : q.state ≠ .stage) (now : Instant) (b : PlanBody) (d : Derived)
    (x : BaseDerived) : q.reestablish now b d x = { q with
      position := some {
        value := d.nominalStart x b.slackIndex (q.stage.getD 1), since := some q.interStart,
        limit := d.nominalStart x b.slackIndex (q.stage.getD 1) + d.interstage (q.stage.getD 1) } } := if_neg h

/-- The latch, the excess account and the remainder dropped. -/
def Sequencer.uncounted (q : Sequencer) : Sequencer := { q with latch := false, excess := 0, remainder := none }

theorem outOfStepped_eq (s : State) : s.outOfStepped = s.setSeq (if s.topPreemption.isSome then s.seq.uncounted
    else match s.baseData with
      | some (b, d, x) => s.seq.uncounted.reestablish s.now b d x
      | none => s.seq.uncounted) := by
  have top : (s.setSeq s.seq.uncounted).topPreemption = s.topPreemption := rfl
  have data : (s.setSeq s.seq.uncounted).baseData = s.baseData := rfl
  change (if (s.setSeq s.seq.uncounted).topPreemption.isSome = true then s.setSeq s.seq.uncounted
    else match (s.setSeq s.seq.uncounted).baseData with
      | some (b, d, x) => (s.setSeq s.seq.uncounted).setSeq
          ((s.setSeq s.seq.uncounted).seq.reestablish (s.setSeq s.seq.uncounted).now b d x)
      | none => s.setSeq s.seq.uncounted) = _
  rw [top, data]
  split
  · rfl
  · cases s.baseData with
    | none => rfl
    | some y => rfl

theorem changeMode_from_stepped {s : State} {m : Mode} (running : s.sequencing = true) (mode : s.junction.mode = .stepped)
    (ne : m ≠ .stepped) : s.changeMode m = (s.remoded m).endIfDue := by
  rw [State.changeMode, if_pos running]
  unfold State.modeEffect
  rw [mode]
  cases m with
  | stepped => exact absurd rfl ne
  | free =>
    dsimp only
    congr 1
    have top : (s.setMode .free).outOfSync.topPreemption = s.topPreemption := rfl
    have data : (s.setMode .free).outOfSync.baseData = s.baseData := rfl
    rw [outOfStepped_eq, top, data]
    unfold State.remoded State.restarted
    split
    · rfl
    · cases s.baseData with
      | none => rfl
      | some y => rfl
  | synced =>
    dsimp only
    congr 1
    have top : (s.setMode .synced).topPreemption = s.topPreemption := rfl
    have data : (s.setMode .synced).baseData = s.baseData := rfl
    rw [outOfStepped_eq, top, data]
    unfold State.remoded State.restarted
    split
    · rfl
    · cases s.baseData with
      | none => rfl
      | some y =>
        obtain ⟨b, d, x⟩ := y
        dsimp only
        by_cases stage : s.seq.state = .stage
        · rw [reestablish_stage (q := s.unstepped .synced) stage]
          change ((s.setMode .synced).setSeq (s.seq.uncounted.reestablish s.now b d x)).intoSync = _
          rw [reestablish_stage (q := s.seq.uncounted) stage]
          rfl
        · rw [reestablish_interstage (q := s.unstepped .synced) stage]
          change ((s.setMode .synced).setSeq (s.seq.uncounted.reestablish s.now b d x)).intoSync = _
          rw [reestablish_interstage (q := s.seq.uncounted) stage]
          rfl

/-! ## The stage that has run its split at the change -/

theorem stageEndDue_iff {s : State} (top : s.topPreemption = none) {n : Nat} (length : s.seq.length = some n) :
    s.stageEndDue = true ↔ s.seq.state = .stage ∧ s.seq.greenStart + ms n ≤ s.now
      ∧ (s.seq.holdMinGreen = true → s.expired s.seq.gaining = true) := by
  have dwell : s.inDwell = false := by simp [State.inDwell, top]
  simp only [State.stageEndDue, dwell, State.lengthPassed, length, Bool.and_eq_true, beq_iff_eq, decide_eq_true_eq,
    Bool.not_false, and_true, Bool.or_eq_true, Bool.not_eq_true']
  rw [and_congr_right_iff]
  intro _
  rw [and_congr_right_iff]
  intro _
  cases s.seq.holdMinGreen <;> simp

theorem exec_setMode {s : State} (listens : s.Listens) (m : Mode) :
    exec (match m with
      | .free => Instr.setModeFree
      | .synced => Instr.setModeSynced
      | .stepped => Instr.setModeStepped) s = .next (s.modeCommand m) := by
  cases m with
  | free => exact exec_of_listens (i := .setModeFree) listens rfl
  | synced => exact exec_of_listens (i := .setModeSynced) listens rfl
  | stepped => exact exec_of_listens (i := .setModeStepped) listens rfl

theorem changeMode_junction (s : State) (m : Mode) : (s.changeMode m).junction = { s.junction with mode := m } := by
  by_cases running : s.sequencing = true
  · by_cases mode : s.junction.mode = .stepped ∧ m ≠ .stepped
    · rw [changeMode_from_stepped running mode.1 mode.2]
      unfold State.endIfDue
      split
      · exact (endStage_keeps rfl).2.2.2
      · rfl
    · rw [State.changeMode, if_pos running]
      unfold State.modeEffect
      generalize hm : s.junction.mode = old at mode
      cases m with
      | stepped => rfl
      | free =>
        cases old with
        | stepped => exact absurd ⟨rfl, by decide⟩ mode
        | free | synced => rfl
      | synced =>
        cases old with
        | stepped => exact absurd ⟨rfl, by decide⟩ mode
        | free | synced => rfl
  · rw [State.changeMode, if_neg running]
    rfl

/-! ## O31 -/

theorem restarted_eq {s : State} {m : Mode} {b : PlanBody} {d : Derived} {x : BaseDerived}
    (top : s.topPreemption = none) (data : s.baseData = some (b, d, x)) :
    s.restarted m = (s.unstepped m).reestablish s.now b d x := by
  unfold State.restarted
  rw [top, if_neg (by simp), data]

/-- The cycle is dropped and the watch stands by the new mode, whatever is re-established. -/
theorem restarted_keeps (s : State) (m : Mode) : (s.restarted m).latch = false ∧ (s.restarted m).remainder = none
    ∧ (m = .synced → (s.restarted m).watchStart = some s.now) ∧ (s.restarted m).state = s.seq.state := by
  have own : (s.unstepped m).latch = false ∧ (s.unstepped m).remainder = none
      ∧ (m = .synced → (s.unstepped m).watchStart = some s.now) ∧ (s.unstepped m).state = s.seq.state :=
    ⟨rfl, rfl, fun h => if_pos h, rfl⟩
  unfold State.restarted
  split
  · exact own
  · split
    · unfold Sequencer.reestablish
      dsimp only
      split <;> exact own
    · exact own

/-- A change from STEPPED in RUNNING (R78). -/
theorem changeMode_from_stepped_spec {s : State} {m : Mode} (running : s.sequencing = true)
    (mode : s.junction.mode = .stepped) (ne : m ≠ .stepped) {u : State} (hu : u = (s.changeMode m).accept .empty) :
    u.seq.latch = false ∧ u.seq.remainder = none ∧ (m = .synced → u.seq.watchStart = some s.now)
      ∧ (s.topPreemption ≠ none → s.stageEndDue = false → u.seq = s.unstepped m ∧ u.pre = s.pre)
      ∧ ∀ b d x i, s.topPreemption = none → s.baseData = some (b, d, x) → s.seq.stage = some i →
        let start := d.nominalStart x b.slackIndex i
        let green := start + d.interstage i
        let stageEnd := s.seq.greenStart + 100 * d.split i
        let passed := stageEnd ≤ s.now
          ∧ (stageEnd < s.now → ∀ g ∈ s.seq.gaining, ∀ a, s.seq.greenStarts.get g = some a →
              a + 100 * s.minGreen g ≤ s.now)
        let staged := { s.unstepped m with
          length := some (d.split i), holdMinGreen := decide (stageEnd < s.now),
          position := some { value := green, since := some s.seq.greenStart,
                             limit := d.nominalStart x b.slackIndex (i + 1) } }
        (s.seq.state = .interstage → u.seq = { s.unstepped m with
          position := some { value := start, since := some s.seq.interStart, limit := green } })
        ∧ (s.seq.state = .stage → ¬passed → u.seq = staged)
        ∧ (s.seq.state = .stage → passed → u =
            State.accept ({ s with junction := u.junction, seq := staged } : State).endStage .empty) := by
  have junction : u.junction = { s.junction with mode := m } := by
    rw [hu]
    exact changeMode_junction s m
  rw [changeMode_from_stepped running mode ne] at hu
  obtain ⟨latch, remainder, watch, state⟩ := restarted_keeps s m
  have ends : (s.remoded m).stageEndDue = true → u = State.accept (s.remoded m).endStage .empty := fun h => by
    rw [hu, State.endIfDue, if_pos h]
  have stays : (s.remoded m).stageEndDue = false → u = State.accept (s.remoded m) .empty := fun h => by
    rw [hu, State.endIfDue, if_neg (by rw [h]; exact Bool.false_ne_true)]
  have kept : u.seq.latch = false ∧ u.seq.remainder = none ∧ (m = .synced → u.seq.watchStart = some s.now) := by
    cases due : (s.remoded m).stageEndDue with
    | false => rw [stays due]; exact ⟨latch, remainder, watch⟩
    | true =>
      obtain ⟨latch', watch', none', -⟩ := endStage_keeps (s := s.remoded m) rfl
      rw [ends due]
      exact ⟨latch'.trans latch, none' remainder, fun h => watch'.trans (watch h)⟩
  refine ⟨kept.1, kept.2.1, kept.2.2, fun top due => ?_, fun b d x i top data stage => ?_⟩
  · have same : s.restarted m = s.unstepped m := by
      unfold State.restarted
      rw [if_pos (Option.isSome_iff_ne_none.2 top)]
    have due' : (s.remoded m).stageEndDue = false := by
      unfold State.remoded
      rw [same]
      exact due
    rw [stays due']
    exact ⟨same, rfl⟩
  · have eq := restarted_eq (m := m) top data
    have at_ : (s.unstepped m).stage.getD 1 = i := by
      change s.seq.stage.getD 1 = i
      rw [stage]
      rfl
    dsimp only
    refine ⟨fun interstage => ?_, imp_and.1 fun running' => ?_⟩
    · have away : (s.unstepped m).state ≠ .stage := by
        change s.seq.state ≠ .stage
        rw [interstage]
        decide
      rw [reestablish_interstage away, at_] at eq
      have due : (s.remoded m).stageEndDue = false := by
        unfold State.stageEndDue
        rw [show (s.remoded m).seq.state = s.seq.state from state, interstage]
        rfl
      rw [stays due]
      exact eq
    · rw [reestablish_stage (q := s.unstepped m) running', at_] at eq
      have same : s.remoded m = { s with junction := { s.junction with mode := m }, seq := _ } :=
        congrArg (fun q => ({ s with junction := { s.junction with mode := m }, seq := q } : State)) eq
      have due : (s.remoded m).stageEndDue = true ↔ s.seq.greenStart + 100 * d.split i ≤ s.now
          ∧ (s.seq.greenStart + 100 * d.split i < s.now → ∀ g ∈ s.seq.gaining, ∀ a, s.seq.greenStarts.get g = some a →
            a + 100 * s.minGreen g ≤ s.now) := by
        rw [same]
        refine (stageEndDue_iff (by exact top) (by rfl)).trans ?_
        rw [expired_iff, decide_eq_true_eq]
        exact and_iff_right running'
      refine ⟨fun not => ?_, fun passed => ?_⟩
      · rw [stays (Bool.eq_false_iff.2 (mt due.1 not))]
        exact eq
      · rw [junction]
        exact (ends (due.2 passed)).trans (congrArg (fun v => State.accept (State.endStage v) .empty) same)

/-- Settles O31. -/
theorem setModeActsByTheChange : Obligations.SetModeActsByTheChange := by
  intro s m listens command
  have run : exec command s = .next (s.modeCommand m) := exec_setMode listens m
  refine ⟨fun held => by rw [run, State.modeCommand, if_pos held], fun changes => ?_⟩
  refine ⟨(s.changeMode m).accept .empty, _, settle_ends s _, by rw [run, State.modeCommand, if_neg changes], rfl,
    changeMode_junction s m, fun away => ?_, fun running => ?_⟩
  · have not : ¬s.sequencing = true := fun h => by
      rcases (sequencing_iff s).1 h with e | e <;> rcases away with a | a <;> rw [a] at e <;> cases e
    rw [State.changeMode, if_neg not]
    rfl
  · have sequencing : s.sequencing = true := (sequencing_iff s).2 running
    refine ⟨fun e => ?_, fun e free => ?_, fun e synced => ?_, fun stepped => ?_⟩
    · subst e
      have eq : s.changeMode .stepped = (s.setMode .stepped).intoStepped := by
        rw [State.changeMode, if_pos sequencing]
        unfold State.modeEffect
        cases s.junction.mode <;> rfl
      rw [eq]
      refine ⟨rfl, rfl, rfl, rfl, rfl, rfl, rfl, rfl, rfl, fun top => ?_⟩
      change (if s.topPreemption.isSome = true then s.seq.length else none) = none
      rw [top]
      rfl
    · subst e
      have eq : s.changeMode .synced = (s.setMode .synced).intoSync := by
        rw [State.changeMode, if_pos sequencing]
        unfold State.modeEffect
        rw [free]
      rw [eq]
      rfl
    · subst e
      have eq : s.changeMode .free = (s.setMode .free).outOfSync := by
        rw [State.changeMode, if_pos sequencing]
        unfold State.modeEffect
        rw [synced]
      rw [eq]
      rfl
    · exact changeMode_from_stepped_spec sequencing stepped (fun h => changes (stepped.trans h.symm)) rfl

end Sys2Proof.Machine
end


section
/-! Assertions judged, the acceptance of a preemption, and O36 from it (R88, R90 to R95). -/

namespace Sys2Proof.Machine

/-! ## The entry checks (R90) -/

theorem planUnfit_iff (s : State) (p : PlanIx) : s.planUnfit p = true ↔ (s.plan p).cls ≠ some .preempt
    ∨ ((s.plan p).phase ≠ some .ready ∧ (s.plan p).phase ≠ some .invoked) := by
  simp only [State.planUnfit, Bool.or_eq_true, Bool.not_eq_true', Bool.or_eq_false_iff, beq_eq_false_iff_ne, bne_iff_ne,
    ne_eq]
  exact or_comm

/-- The first failing check is the one found. -/
theorem firstFailure_iff {s : State} {e : EntryIx} {a code : PCode} (fails : s.EntryFails e a)
    (before : ∀ x : PCode, x.code < a.code → ¬s.EntryFails e x) :
    some a = some code ↔ s.EntryFails e code ∧ ∀ x : PCode, x.code < code.code → ¬s.EntryFails e x := by
  constructor
  · rintro h
    cases h
    exact ⟨fails, before⟩
  · rintro ⟨fails', before'⟩
    rcases Nat.lt_trichotomy a.code code.code with lt | eq | gt
    · exact absurd fails (before' a lt)
    · exact congrArg some (by cases a <;> cases code <;> simp_all [PCode.code])
    · exact absurd fails' (before code gt)

/-- The entry checks are those of R90 in their order. -/
theorem entryCheck_eq_iff (s : State) (e : EntryIx) (code : PCode) : s.entryCheck e = some code ↔
    (s.EntryFails e code ∧ ∀ x : PCode, x.code < code.code → ¬s.EntryFails e x) := by
  unfold State.entryCheck
  by_cases range : s.pre.length < number e
  · rw [if_pos range]
    exact firstFailure_iff range fun x lt => by cases x <;> exact absurd lt (by decide)
  rw [if_neg range]
  cases absent : (s.entry e).config with
  | none =>
    refine firstFailure_iff absent fun x lt => ?_
    cases x with
    | range => exact range
    | _ => exact absurd lt (by decide)
  | some c =>
    have present : ¬s.EntryFails e .absent := by
      change (s.entry e).config ≠ none
      rw [absent]
      exact Option.some_ne_none c
    dsimp only
    by_cases state : s.junction.state ≠ .running ∨ s.seq.state = .clearance
    · rw [if_pos state]
      refine firstFailure_iff state fun x lt => ?_
      cases x with
      | range => exact range
      | absent => exact present
      | _ => exact absurd lt (by decide)
    rw [if_neg state]
    have planFails : s.EntryFails e .plan ↔ s.planUnfit c.plan = true := by
      rw [planUnfit_iff]
      constructor
      · exact fun h => h c absent
      · intro h d hd
        cases absent.symm.trans hd
        exact h
    by_cases plan : s.planUnfit c.plan = true
    · rw [if_pos plan]
      refine firstFailure_iff (planFails.2 plan) fun x lt => ?_
      cases x with
      | range => exact range
      | absent => exact present
      | state => exact state
      | _ => exact absurd lt (by decide)
    rw [if_neg plan]
    have fit := mt planFails.1 plan
    have busyFails : s.EntryFails e .busy ↔ (s.plan c.plan).phase = some .invoked := by
      constructor
      · rintro ⟨d, hd, h⟩
        cases absent.symm.trans hd
        exact h
      · exact fun h => ⟨c, absent, h⟩
    by_cases busy : (s.plan c.plan).phase = some .invoked
    · rw [if_pos busy]
      refine firstFailure_iff (busyFails.2 busy) fun x lt => ?_
      cases x with
      | range => exact range
      | absent => exact present
      | state => exact state
      | plan => exact fit
      | _ => exact absurd lt (by decide)
    rw [if_neg busy]
    have free := mt busyFails.1 busy
    by_cases stuck : (s.entry e).stuck = true
    · rw [if_pos stuck]
      refine firstFailure_iff stuck fun x lt => ?_
      cases x with
      | range => exact range
      | absent => exact present
      | state => exact state
      | plan => exact fit
      | busy => exact free
      | _ => exact absurd lt (by decide)
    rw [if_neg stuck]
    by_cases depth : 3 ≤ s.pre.chain.length
    · rw [if_pos depth]
      refine firstFailure_iff depth fun x lt => ?_
      cases x with
      | range => exact range
      | absent => exact present
      | state => exact state
      | plan => exact fit
      | busy => exact free
      | stuck => exact stuck
      | depth => exact absurd lt (by decide)
    rw [if_neg depth]
    refine ⟨fun h => (nomatch h), fun h => ?_⟩
    obtain ⟨fails, -⟩ := h
    cases code with
    | range => exact absurd fails range
    | absent => exact absurd fails present
    | state => exact absurd fails state
    | plan => exact absurd fails fit
    | busy => exact absurd fails free
    | stuck => exact absurd fails stuck
    | depth => exact absurd fails depth

/-- An entry that passes every check is present, and its plan is READY and of class PREEMPT. -/
theorem entryCheck_passes {s : State} {e : EntryIx} (h : s.entryCheck e = none) :
    ∃ c, (s.entry e).config = some c ∧ s.junction.state = .running ∧ s.seq.state ≠ .clearance
      ∧ (s.plan c.plan).cls = some .preempt ∧ (s.plan c.plan).phase = some .ready ∧ s.pre.chain.length < 3 := by
  unfold State.entryCheck at h
  split at h
  · cases h
  · cases hc : (s.entry e).config with
    | none => rw [hc] at h; cases h
    | some c =>
      rw [hc] at h
      dsimp only at h
      repeat' split at h
      all_goals try cases h
      rename_i state plan busy _ depth
      rw [not_or, not_not] at state
      rw [planUnfit_iff, not_or, not_not, not_and_or, not_not, not_not] at plan
      exact ⟨c, rfl, state.1, state.2, plan.1, plan.2.resolve_right busy, Nat.lt_of_not_le depth⟩

theorem outranks_iff (s : State) (n : Nat) : s.outranks n = true ↔
    ∀ c k, s.pre.chain.head? = some c → c.invoker = some k → k.priority < n := by
  unfold State.outranks State.runningPriority State.topPreemption
  cases s.pre.chain.head? with
  | none => simp
  | some c =>
    cases hk : c.invoker with
    | none =>
      simp only [Option.filter, hk, Option.isSome_none, Bool.false_eq_true, if_false, Option.bind_none, true_iff]
      rintro d k e h
      cases e
      rw [hk] at h
      cases h
    | some k =>
      simp only [Option.filter, hk, Option.isSome_some, if_true, Option.bind_some, Option.map_some, decide_eq_true_eq]
      refine ⟨fun lt d j e h => ?_, fun all => all c k rfl hk⟩
      cases e
      rw [hk] at h
      cases h
      exact lt

/-! ## The acceptance (R94) -/

/-- What an acceptance pushes and drops. -/
theorem pushContext_spec {s : State} {e : EntryIx} {c : EntryConfig} (ready : (s.plan c.plan).phase = some .ready)
    (cls : (s.plan c.plan).cls = some .preempt) {u : State} (hu : u = s.pushContext e c) :
    u = { s with plans := u.plans, link := u.link, pre := { s.pre with chain := c.context e :: s.pre.chain }
                 seq := { s.seq with remainder := none, latch := false, sync :=
                   if s.seq.sync = .none ∨ s.seq.sync = .lost then s.seq.sync else .notHeld } }
      ∧ (u.plan c.plan).phase = some .invoked ∧ (∀ p, u.planData p = s.planData p)
      ∧ u.link = (s.raise .preemptStart).link := by
  obtain ⟨v, hv⟩ : ∃ v, v = ((s.setPre { s.pre with chain := c.context e :: s.pre.chain }).makeInvoked c.plan).raise
      .preemptStart := ⟨_, rfl⟩
  have made : v = (({ s with pre := { s.pre with chain := c.context e :: s.pre.chain } } : State).setPlan c.plan
      ((s.plan c.plan).toPhase .invoked)).raise .preemptStart := by
    rw [hv, makeInvoked_eq_setPlan]
    · rfl
    · exact ready
    · exact cls
  have run : u = (v.setSeq { v.seq with remainder := none, latch := false }).resync := by rw [hu, hv]; rfl
  have preempted : (v.setSeq { v.seq with remainder := none, latch := false }).syncWithin = .notHeld := by
    unfold State.syncWithin
    rw [if_pos]
    rw [made]
    rfl
  have resynced : u = v.setSeq { v.seq with remainder := none, latch := false, sync :=
      if v.seq.sync = .none ∨ v.seq.sync = .lost then v.seq.sync else .notHeld } := by
    rw [run]
    unfold State.resync
    rw [preempted]
    by_cases h : v.seq.sync = .none ∨ v.seq.sync = .lost
    · rw [if_pos h]
      exact (if_pos h)
    · rw [if_neg h]
      exact (if_neg h)
  rw [made] at resynced
  refine ⟨?_, ?_, fun p => ?_, ?_⟩
  · rw [resynced]; rfl
  · rw [resynced]
    change ((s.setPlan c.plan ((s.plan c.plan).toPhase .invoked)).plan c.plan).phase = _
    rw [State.setPlan_plan, if_pos rfl]
    cases h : s.plan c.plan with
    | free => rw [h] at ready; cases ready
    | draft b => rw [h] at ready; cases ready
    | valid ph b d => rfl
  · rw [resynced]
    change (s.setPlan c.plan ((s.plan c.plan).toPhase .invoked)).planData p = _
    unfold State.planData
    by_cases eq : p = c.plan
    · subst eq
      rw [State.setPlan_plan, if_pos rfl]
      cases s.plan c.plan <;> rfl
    · rw [State.setPlan_plan, if_neg eq]
  · rw [resynced]; rfl

/-! ## The truncation keeps -/

/-- What a truncation leaves of the sequencer and of the chain. -/
theorem truncate_keeps {s u : State} (hu : u = s.truncate) :
    u.pre.chain.map Context.purpose = s.pre.chain.map Context.purpose ∧ u.seq.sync = s.seq.sync ∧ u.seq.latch = s.seq.latch
      ∧ (s.seq.remainder = none → u.seq.remainder = none) := by
  cases top : s.pre.chain.head? with
  | none =>
    have same : s.truncate = s := by unfold State.truncate; rw [top]
    rw [hu, same]
    exact ⟨rfl, rfl, rfl, id⟩
  | some y =>
    cases data : s.planData y.plan with
    | none =>
      have same : s.truncate = s := by
        unfold State.truncate
        rw [top]
        dsimp only
        rw [data]
      rw [hu, same]
      exact ⟨rfl, rfl, rfl, id⟩
    | some x =>
      obtain ⟨b, d⟩ := x
      obtain ⟨seq, purposes, none, -⟩ := openInterstage_seq (hu.trans (truncate_eq top data))
      have sync := congrArg Sequencer.sync seq
      have latch := congrArg Sequencer.latch seq
      exact ⟨purposes, sync, latch, none⟩

/-- A context pushed and its truncation begun at once (R94, R95). -/
theorem pushed_truncates {s : State} {e : EntryIx} {c : EntryConfig} (ready : (s.plan c.plan).phase = some .ready)
    (cls : (s.plan c.plan).cls = some .preempt) {u : State} (hu : u = (s.pushContext e c).truncate) :
    (∃ y rest, u.pre.chain = y :: rest ∧ y.plan = c.plan ∧ y.invoker = some { entry := e, priority := c.priority }
        ∧ rest.map Context.purpose = s.pre.chain.map Context.purpose)
      ∧ (u.plan c.plan).phase = some .invoked ∧ u.link = (s.raise .preemptStart).link
      ∧ u.seq.remainder = none ∧ u.seq.latch = false
      ∧ u.seq.sync = (if s.seq.sync = .none ∨ s.seq.sync = .lost then s.seq.sync else .notHeld)
      ∧ u.pre = { s.pre with chain := u.pre.chain }
      ∧ ∀ b d, s.planData c.plan = some (b, d) → s.Transfers u 1 (b.greens 1) ∧ u.seq.excess = 0
          ∧ ∃ y, u.pre.chain = y :: s.pre.chain ∧ y.plan = c.plan
            ∧ y.invoker = some { entry := e, priority := c.priority } := by
  obtain ⟨t, ht⟩ : ∃ t, t = s.pushContext e c := ⟨_, rfl⟩
  rw [← ht] at hu
  obtain ⟨frame, phase, data, link⟩ := pushContext_spec ready cls ht
  have seq := congrArg State.seq frame
  have pre := congrArg State.pre frame
  dsimp only at seq pre
  obtain ⟨purposes, sync, latch, none⟩ := truncate_keeps hu
  have tframe := truncate_frame t
  rw [← hu] at tframe
  have plans := congrArg State.plans tframe
  have ulink := congrArg State.link tframe
  have upre := congrArg State.pre tframe
  dsimp only at plans ulink upre
  refine ⟨?_, ?_, ulink.trans link, none (by rw [seq]), latch.trans (by rw [seq]), sync.trans (by rw [seq]), ?_,
    fun b d hd => ?_⟩
  · rw [pre] at purposes
    cases hl : u.pre.chain with
    | nil => rw [hl] at purposes; cases purposes
    | cons y rest =>
      rw [hl] at purposes
      obtain ⟨first, rest'⟩ := List.cons.inj purposes
      obtain ⟨plan, invoker⟩ := Prod.mk.inj first
      exact ⟨y, rest, rfl, plan, invoker, rest'⟩
  · unfold State.plan at phase ⊢
    rw [plans]
    exact phase
  · rw [upre, pre]
  · have top : t.pre.chain.head? = some (c.context e) := by rw [pre]; rfl
    have inv : (c.context e).invoker ≠ Option.none := Option.some_ne_none _
    obtain ⟨transfers, -, excess, -, upre'⟩ := truncate_transfers top ((data c.plan).trans hd) inv
    rw [← hu] at transfers excess upre'
    refine ⟨Transfers_congr (by rw [frame]) (by rw [frame]) (by rw [seq]) transfers, excess, ?_⟩
    rw [upre', pre]
    refine ⟨_, rfl, ?_, ?_⟩ <;> split <;> rfl

/-! ## The record of the context pushed over (R93, R94) -/

theorem savedContext_stage {s : State} (h : s.seq.state = .stage) (c : Context) : s.savedContext c = s.interrupted c := by
  unfold State.savedContext State.interrupted
  simp only [h, BEq.rfl, if_true, Option.isNone_iff_eq_none, Bool.true_and]

theorem savedContext_interstage {s : State} (h : s.seq.state = .interstage) (c : Context) :
    s.savedContext c = { s.interrupted c with elapsed := 0, dwell := c.dwell } := by
  unfold State.savedContext State.interrupted
  simp only [h, show (SeqState.interstage == SeqState.stage) = false from rfl, Bool.false_eq_true, if_false,
    Option.isNone_iff_eq_none, Bool.false_and]

theorem saveTop_frame (s : State) : s.saveTop = s.setPre { s.pre with chain := s.saveTop.pre.chain }
    ∧ s.saveTop.pre.chain.map Context.purpose = s.pre.chain.map Context.purpose := by
  cases h : s.pre.chain with
  | nil =>
    have same : s.saveTop = s := by
      unfold State.saveTop State.saveRunning State.runningContext
      rw [h]
      split <;> rfl
    rw [same, h]
    refine ⟨?_, rfl⟩
    conv_lhs => rw [show s = s.setPre { s.pre with chain := s.pre.chain } from rfl, h]
  | cons z rest =>
    rw [saveTop_eq s z rest h]
    refine ⟨rfl, ?_⟩
    rw [State.setPre_pre]
    split <;> rfl

/-! ## The pending list (R92) -/

theorem joinWaiting_perm (w : Waiting) (l : List Waiting) : (joinWaiting w l).Perm (w :: l) := by
  induction l with
  | nil => exact List.Perm.refl _
  | cons x l ih =>
    unfold joinWaiting
    split
    · exact List.Perm.refl _
    · exact (ih.cons x).trans (List.Perm.swap w x l)

/-- An element joins behind its equals in a list by descending priority. -/
theorem joinWaiting_sorted (w : Waiting) {l : List Waiting} (sorted : l.Pairwise fun y z => z.priority ≤ y.priority) :
    joinWaiting w l = (l.filter fun y => w.priority ≤ y.priority) ++ w :: l.filter fun y => y.priority < w.priority := by
  induction l with
  | nil => rfl
  | cons x l ih =>
    obtain ⟨below, sorted⟩ := List.pairwise_cons.1 sorted
    unfold joinWaiting
    by_cases lt : x.priority < w.priority
    · have none : (x :: l).filter (fun y => w.priority ≤ y.priority) = [] := by
        refine List.filter_eq_nil_iff.2 fun y mem => ?_
        have : y.priority ≤ x.priority := by
          rcases List.mem_cons.1 mem with e | mem
          · rw [e]
          · exact below y mem
        simpa using Nat.lt_of_le_of_lt this lt
      have all : (x :: l).filter (fun y => y.priority < w.priority) = x :: l := by
        refine List.filter_eq_self.2 fun y mem => ?_
        have : y.priority ≤ x.priority := by
          rcases List.mem_cons.1 mem with e | mem
          · rw [e]
          · exact below y mem
        simpa using Nat.lt_of_le_of_lt this lt
      rw [if_pos lt, none, all]
      rfl
    · have le : w.priority ≤ x.priority := Nat.le_of_not_lt lt
      rw [if_neg lt, ih sorted, List.filter_cons_of_pos (by simpa using le), List.filter_cons_of_neg (by simpa using le)]
      rfl

/-! ## An assertion judged (R91) -/

theorem judgement_refused {w : State} {e : EntryIx} {code : PCode} (h : w.entryCheck e = some code) (ne : code ≠ .depth) :
    w.judgement e = .refused code := by
  unfold State.judgement
  rw [h]
  cases code with
  | depth => exact absurd rfl ne
  | _ => rfl

theorem judgement_waits {w : State} {e : EntryIx}
    (h : w.entryCheck e = some .depth ∨ (w.entryCheck e = none ∧ w.outranks (w.entryPriority e) = false)) :
    w.judgement e = .waits := by
  unfold State.judgement
  rcases h with h | ⟨h, not⟩
  · rw [h]
  · rw [h]
    exact if_neg (by rw [not]; exact Bool.false_ne_true)

theorem judgement_accepted {w : State} {e : EntryIx} (h : w.entryCheck e = none)
    (above : w.outranks (w.entryPriority e) = true) : w.judgement e = .accepted := by
  unfold State.judgement
  rw [h]
  exact if_pos above

theorem entryPriority_of {w : State} {e : EntryIx} {c : EntryConfig} (h : (w.entry e).config = some c) :
    w.entryPriority e = c.priority := by
  unfold State.entryPriority
  rw [h]

theorem judgeEntry_accepted {w : State} {e : EntryIx} {c : EntryConfig} (h : w.entryCheck e = none)
    (hc : (w.entry e).config = some c) (above : w.outranks c.priority = true) : w.judgeEntry e = w.acceptEntry e c := by
  unfold State.judgeEntry
  rw [judgement_accepted h (by rw [entryPriority_of hc]; exact above)]
  dsimp only
  rw [hc]

/-- An assertion accepted (R94, R95). -/
theorem acceptEntry_spec {w x : State} {e : EntryIx} {c : EntryConfig} (ready : (w.plan c.plan).phase = some .ready)
    (cls : (w.plan c.plan).cls = some .preempt) (hx : x = w.acceptEntry e c) :
    (∃ y rest, x.pre.chain = y :: rest ∧ y.plan = c.plan ∧ y.invoker = some { entry := e, priority := c.priority }
        ∧ rest.map Context.purpose = w.pre.chain.map Context.purpose)
      ∧ (x.plan c.plan).phase = some .invoked ∧ x.link = (w.raise .preemptStart).link
      ∧ x.seq.remainder = none ∧ x.seq.latch = false ∧ x.pre = { w.pre with chain := x.pre.chain }
      ∧ x.seq.sync = (if w.seq.sync = .none ∨ w.seq.sync = .lost then w.seq.sync else .notHeld)
      ∧ (w.seq.state = .interstage → x.seq.state = .interstage ∧ x.seq.stage = w.seq.stage
          ∧ x.seq.above = w.seq.above + 1 ∧ x.groups = w.groups
          ∧ (w.seq.above ≠ 0 → x.pre.chain.tail = w.pre.chain)
          ∧ ∀ z rest, w.seq.above = 0 → w.pre.chain = z :: rest →
              x.pre.chain.tail = { w.interrupted z with elapsed := 0, dwell := z.dwell } :: rest)
      ∧ (∀ b d z rest, w.seq.state = .stage → w.seq.above = 0 → w.planData c.plan = some (b, d) →
          w.pre.chain = z :: rest → x.pre.chain.tail = w.interrupted z :: rest
            ∧ x.seq.excess = 0 ∧ w.Transfers x 1 (b.greens 1)) := by
  obtain ⟨v, hv⟩ : ∃ v, v = w.saveTop := ⟨_, rfl⟩
  obtain ⟨frame, purposes⟩ := saveTop_frame w
  have saved := saveTop_eq w
  rw [← hv] at frame purposes
  simp only [← hv] at saved
  have plan (p : PlanIx) : v.plan p = w.plan p := by rw [frame]; rfl
  have ready' : (v.plan c.plan).phase = some .ready := by rw [plan]; exact ready
  have cls' : (v.plan c.plan).cls = some .preempt := by rw [plan]; exact cls
  have vseq : v.seq = w.seq := by rw [frame]; rfl
  have vpre : v.pre = { w.pre with chain := v.pre.chain } := by rw [frame]; rfl
  have vlink : (v.raise .preemptStart).link = (w.raise .preemptStart).link := by rw [frame]; rfl
  have run : x = (v.pushContext e c).beginTruncation := by rw [hx, hv]; rfl
  by_cases interstage : w.seq.state = .interstage
  · obtain ⟨push, phase, -, link⟩ := pushContext_spec (s := v) (e := e) ready' cls' rfl
    have there : (v.pushContext e c).seq.state = .interstage := by rw [push, vseq]; exact interstage
    rw [State.beginTruncation, if_pos there] at run
    generalize v.pushContext e c = t at push phase link run
    have chain : x.pre.chain = c.context e :: v.pre.chain := by rw [run, push]; rfl
    refine ⟨⟨_, _, chain, rfl, rfl, purposes⟩, by rw [run]; exact phase, ?_, ?_, ?_, ?_, ?_, fun _ => ?_,
      fun _ _ _ _ stage => ?_⟩
    · rw [run]; exact link.trans vlink
    · rw [run, push]; rfl
    · rw [run, push]; rfl
    · rw [run, push, vpre]; rfl
    · rw [run, push, vseq]; rfl
    · refine ⟨?_, ?_, ?_, ?_, fun waits => ?_, fun z rest top hc => ?_⟩
      · rw [run, push]; exact vseq ▸ interstage
      · rw [run, push, vseq]; rfl
      · rw [run, push, vseq]; rfl
      · rw [run, push, frame]; rfl
      · rw [chain]
        change v.pre.chain = w.pre.chain
        rw [hv, State.saveTop, if_neg waits]
      · rw [chain, saved z rest hc, if_pos top, savedContext_interstage interstage]
        rfl
    · rw [interstage] at stage; cases stage
  · have there : (v.pushContext e c).seq.state ≠ .interstage := by rw [pushContext_seq_state, vseq]; exact interstage
    rw [State.beginTruncation, if_neg there] at run
    obtain ⟨chain, phase, link, remainder, latch, sync, pre, transfers⟩ := pushed_truncates ready' cls' run
    rw [purposes] at chain
    rw [vseq] at sync
    refine ⟨chain, phase, link.trans vlink, remainder, latch, by rw [pre, vpre], sync, fun h => absurd h interstage,
      fun b d z rest stage top data hc => ?_⟩
    have data' : v.planData c.plan = some (b, d) := by rw [frame]; exact data
    obtain ⟨moves, excess, y, hy, -⟩ := transfers b d data'
    refine ⟨?_, excess, Transfers_congr (by rw [frame]; rfl) (by rw [frame]; rfl) (by rw [vseq]) moves⟩
    rw [hy, saved z rest hc, if_pos top, savedContext_stage stage]
    rfl

/-- What the judgement of an assertion leaves (R91 to R95). -/
theorem judgeEntry_judged {w : State} {e : EntryIx} (asserted : (w.entry e).asserted = true) :
    w.AssertionJudged (w.judgeEntry e) e := by
  have still : (w.judgeEntry e).still = w.still := judgeEntry_still w e
  have refused {code : PCode} (h : w.entryCheck e = some code) (ne : code ≠ .depth) :
      w.judgeEntry e = w.refuseEntry e code := by
    unfold State.judgeEntry
    rw [judgement_refused h ne]
  have waits (h : w.entryCheck e = some .depth ∨ (w.entryCheck e = none ∧ w.outranks (w.entryPriority e) = false)) :
      w.judgeEntry e = w.joinPending e := by
    unfold State.judgeEntry
    rw [judgement_waits h]
  refine ⟨?_, ?_, fun code h ne => ?_, fun h => ?_, fun c h hc above => ?_⟩
  · rw [still]
  · cases h : w.entryCheck e with
    | some code =>
      by_cases ne : code = .depth
      · rw [waits (.inl (by rw [h, ne]))]; exact asserted
      · rw [refused h ne]; exact asserted
    | none =>
      obtain ⟨c, hc, -, -, cls, ready, -⟩ := entryCheck_passes h
      cases above : w.outranks c.priority with
      | true =>
        rw [judgeEntry_accepted h hc above]
        obtain ⟨-, -, -, -, -, pre, -⟩ := acceptEntry_spec ready cls (e := e) rfl
        unfold State.entry at asserted ⊢
        rw [pre]
        exact asserted
      | false => rw [waits (.inr ⟨h, by rw [entryPriority_of hc]; exact above⟩)]; exact asserted
  · rw [refused h ne]
    rfl
  · rw [waits h]
    exact ⟨rfl, joinWaiting_perm .., joinWaiting_sorted _⟩
  · obtain ⟨d, hd, -, -, cls, ready, -⟩ := entryCheck_passes h
    cases hc.symm.trans hd
    obtain ⟨chain, phase, link, remainder, latch, pre, sync, interstage, stage⟩ :=
      acceptEntry_spec ready cls (judgeEntry_accepted h hc above)
    refine ⟨chain, phase, ?_, remainder, latch, by rw [pre], sync, interstage, stage⟩
    unfold State.holds
    rw [link]
    exact (raise_holds w .preemptStart .preemptStart).trans (by simp)

theorem judgeEntry_transaction (w : State) (e : EntryIx) : (w.judgeEntry e).link.transaction = w.link.transaction := by
  cases h : w.entryCheck e with
  | some code =>
    unfold State.judgeEntry
    by_cases ne : code = .depth
    · rw [judgement_waits (.inl (by rw [h, ne]))]; rfl
    · rw [judgement_refused h ne]; rfl
  | none =>
    obtain ⟨c, hc, -, -, cls, ready, -⟩ := entryCheck_passes h
    cases above : w.outranks c.priority with
    | true =>
      obtain ⟨-, -, link, -⟩ := acceptEntry_spec ready cls (judgeEntry_accepted h hc above)
      rw [link]
      rfl
    | false =>
      unfold State.judgeEntry
      rw [judgement_waits (.inr ⟨h, by rw [entryPriority_of hc]; exact above⟩)]
      rfl

/-- The reply moves nothing that the judgement speaks of. -/
theorem AssertionJudged_answer {w x : State} {e : EntryIx} (h : w.AssertionJudged x e) (r : Reply) :
    w.AssertionJudged (x.answer r) e := by
  obtain ⟨still, asserted, refused, waits, accepted⟩ := h
  have answered : (x.answer r).still = { x.still with link := (x.answer r).still.link } := rfl
  refine ⟨by rw [answered, still], asserted, fun code h ne => ?_, fun h => ?_, accepted⟩
  · have e := refused code h ne
    generalize x.link.transaction = y at e
    rw [e]
    rfl
  · obtain ⟨e, perm, sorted⟩ := waits h
    refine ⟨?_, perm, sorted⟩
    change x.answer r = { w with
      pre := { w.pre with waiting := x.pre.waiting }, link := { w.link with transaction := .replying r } }
    generalize x.pre.waiting = l at e
    generalize x.link.transaction = y at e
    rw [e]
    rfl

theorem judgement_reply {w : State} {e : EntryIx} : (w.judgement e).reply e = match w.entryCheck e with
    | some .depth => { status := .ok, payload := .word 1 }
    | some code => { status := .preempt, payload := .preempt code (number e) }
    | none => { status := .ok, payload := .word (if w.outranks (w.entryPriority e) then 0 else 1) } := by
  unfold State.judgement
  cases w.entryCheck e with
  | none => cases w.outranks (w.entryPriority e) <;> rfl
  | some code => cases code <;> rfl

/-- Settles O36. -/
theorem assertionsAreJudged : Obligations.AssertionsAreJudged := by
  refine ⟨entryCheck_eq_iff, outranks_iff, fun s v e i live out cases_ => ?_⟩
  dsimp only
  rcases cases_ with ⟨rfl, idle, command, rfl⟩ | ⟨n, rfl, at_, due, bound, rfl⟩
  · have fresh : (v.inChain e || v.isWaiting e) = false := Bool.eq_false_iff.2 (mt (engaged_iff v e).1 out)
    obtain ⟨w, hw⟩ : ∃ w, w = v.setEntry e { v.entry e with asserted := true } := ⟨_, rfl⟩
    have run : exec (.preemptAssert (number e)) v = .next (v.settle ((w.judgeEntry e).answer ((w.judgement e).reply e))) := by
      rw [exec_of_listens (i := .preemptAssert (number e)) ⟨live, idle⟩ rfl, indexOf_number]
      dsimp only
      rw [command, if_neg Bool.false_ne_true, State.preemptAssert, if_neg (by rw [fresh]; exact Bool.false_ne_true), hw]
      rfl
    rw [← hw]
    have asserted : (w.entry e).asserted = true := by rw [hw, State.setEntry_entry, if_pos rfl]
    exact ⟨_, _, settle_ends v _, run, AssertionJudged_answer (judgeEntry_judged asserted) _, fun n h => (nomatch h),
      fun n _ => congrArg some judgement_reply⟩
  · have e_eq : lineEntry n = e := Fin.ext (by simpa [number, lineEntry] using at_)
    obtain ⟨v, hv⟩ : ∃ v, v = s.setLine n { s.pre.lines.get n with asserted := true } := ⟨_, rfl⟩
    rw [← hv]
    obtain ⟨w, hw⟩ : ∃ w, w = v.setEntry e { s.entry e with asserted := true } := ⟨_, rfl⟩
    rw [← hw]
    have out' : ¬(w.inChain e || w.isWaiting e) = true := fun h => out (by
      have := (engaged_iff w e).1 h
      rw [hw, hv] at this
      exact this)
    have run : exec (.prqAsserted (number n)) s = .next (s.settle (w.judgeEntry e)) := by
      rw [exec_of_live (i := .prqAsserted (number n)) live rfl, indexOf_number]
      dsimp only
      rw [State.whenDue, if_pos due, State.qualifyAsserted, if_pos bound, e_eq, ← hv]
      have own : v.setAsserted e true = w := by rw [hw, hv]; rfl
      unfold State.assertEntry
      rw [own, if_neg out']
    have asserted : (w.entry e).asserted = true := by rw [hw, State.setEntry_entry, if_pos rfl]
    refine ⟨_, _, settle_ends s _, run, judgeEntry_judged asserted, fun _ _ => ?_, fun n h => (nomatch h)⟩
    rw [judgeEntry_transaction, hw, hv]
    rfl

end Sys2Proof.Machine
end


section
/-! The end of a preemption, the return over the pending list and the chain, and O38 from it (R97 to R102). -/

namespace Sys2Proof.Machine

/-! ## A context resumed (R102) -/

theorem resumeTop_spec {s : State} {c : Context} {b : PlanBody} {d : Derived} (top : s.pre.chain.head? = some c)
    (data : s.planData c.plan = some (b, d)) {u : State} (hu : u = s.resumeTop) :
    s.Transfers u c.stage (b.greens c.stage) ∧ u.seq.resumed = some c.elapsed
      ∧ (u.seq.state = .interstage → u.seq.slackLength = c.slackLength ∧ u.seq.excess = c.excess
          ∧ u.seq.position = c.position.map fun p => { value := p, since := none, limit := p })
      ∧ u.pre.chain.map Context.purpose = s.pre.chain.map Context.purpose
      ∧ u.plans = s.plans ∧ u.link = s.link ∧ u.pre = { s.pre with chain := u.pre.chain } := by
  obtain ⟨t, ht⟩ : ∃ t, t = (s.setSeq { s.seq with
    position := c.position.map fun p => { value := p, since := none, limit := p }, excess := c.excess }).resync := ⟨_, rfl⟩
  have frame := resync_frame (s.setSeq { s.seq with
    position := c.position.map fun p => { value := p, since := none, limit := p }, excess := c.excess })
  rw [← ht] at frame
  have run : u = t.openInterstage c.stage (t.greenGroups.filter fun g => !(b.greens c.stage).contains g)
      ((b.greens c.stage).filter fun g => (t.group g).aspect != .green) true (some c.elapsed) c.slackLength := by
    have greens : t.greenGroups = s.greenGroups := by rw [frame]; rfl
    have group (g : GroupIx) : t.group g = s.group g := by rw [frame]; rfl
    rw [greens]
    simp only [group]
    rw [hu, ht]
    unfold State.resumeTop
    rw [top]
    dsimp only
    rw [data]
  have transfers := openInterstage_transfers t c.stage (b.greens c.stage) (some c.elapsed) c.slackLength
  rw [← run] at transfers
  obtain ⟨seq, purposes, -⟩ := openInterstage_seq run
  have resumed := congrArg Sequencer.resumed seq
  have uframe := openInterstage_frame _ _ _ _ _ _ _ _ run
  have plans := congrArg State.plans uframe
  have link := congrArg State.link uframe
  have pre := congrArg State.pre uframe
  have open_ := openInterstage_open run
  dsimp only at plans link pre
  refine ⟨Transfers_congr (by rw [frame]; rfl) (by rw [frame]; rfl) (by rw [frame]; rfl) transfers, resumed, fun h => ?_,
    purposes.trans (by rw [frame]; rfl), plans.trans (by rw [frame]; rfl), link.trans (by rw [frame]; rfl), ?_⟩
  · obtain ⟨-, q⟩ := open_ h
    rw [q, frame]
    exact ⟨rfl, rfl, rfl⟩
  · rw [pre, frame]
    rfl

/-! ## A try of the pending list (R100) -/

theorem afterDrops_nil {s : State} {stay : List Waiting} (h : s.pre.waiting = stay) : s.afterDrops [] stay = s := by
  unfold State.afterDrops
  rw [← h]
  rfl

theorem raise_raise_link (s : State) (a : Attention) : ((s.raise a).raise a).link = (s.raise a).link := by
  simp [State.raise, BitVec.or_assoc]

/-- The elements dropped, one after another. -/
theorem serveWaiting_drops (dropped stay : List Waiting) (s : State) (list : s.pre.waiting = dropped ++ stay)
    (drops : ∀ w ∈ dropped, s.outranks w.priority = true ∧ ∃ code, s.entryCheck w.entry = some code ∧ code ≠ .depth) :
    serveWaiting (dropped ++ stay) s = serveWaiting stay (s.afterDrops dropped stay) := by
  induction dropped generalizing s with
  | nil => rw [afterDrops_nil (stay := stay) list]; rfl
  | cons w dropped ih =>
    obtain ⟨above, code, check, ne⟩ := drops w List.mem_cons_self
    obtain ⟨t, ht⟩ : ∃ t, t = (s.setPre { s.pre with waiting := dropped ++ stay }).refuseEntry w.entry code := ⟨_, rfl⟩
    have first : serveWaiting (w :: dropped ++ stay) s = serveWaiting (dropped ++ stay) t := by
      rw [List.cons_append, serveWaiting, if_pos above, check, ht]
      cases code with
      | depth => exact absurd rfl ne
      | _ => rfl
    have next := ih t (by rw [ht]; rfl) fun x mem => by
      have := drops x (List.mem_cons_of_mem _ mem)
      rw [ht]
      exact this
    rw [first, next]
    congr 1
    have checks (e : EntryIx) : t.entryCheck e = s.entryCheck e := by rw [ht]; rfl
    unfold State.afterDrops
    simp only [checks]
    cases dropped with
    | nil =>
      rw [ht]
      simp only [List.getLast?_nil, List.getLast?_singleton, Option.bind_none, Option.bind_some, Option.none_or, check]
      rfl
    | cons x l =>
      obtain ⟨y, hy⟩ : ∃ y, (x :: l).getLast? = some y := ⟨_, List.getLast?_eq_some_getLast (List.cons_ne_nil x l)⟩
      obtain ⟨-, code', check', -⟩ := drops y (List.mem_cons_of_mem _ (List.mem_of_getLast? hy))
      have last : (w :: x :: l).getLast? = some y := by rw [List.getLast?_cons_cons, hy]
      rw [hy, last]
      simp only [Option.bind_some, check', Option.map_some, Option.some_or]
      rw [ht]
      have link : (((s.setPre { s.pre with waiting := x :: l ++ stay }).refuseEntry w.entry code).raise .preemptRefused).link
          = (s.raise .preemptRefused).link := raise_raise_link s _
      rw [link]
      rfl

/-- A try that drops what it drops and stops there serves nothing. -/
theorem serveWaiting_stands {v : State} {dropped stay : List Waiting} (drops : v.Drops dropped stay)
    (stands : ∀ w later, stay = w :: later → v.outranks w.priority = false ∨ v.entryCheck w.entry ≠ none) :
    serveWaiting v.pre.waiting v = (false, v.afterDrops dropped stay) := by
  obtain ⟨list, dropping, stops⟩ := drops
  rw [list, serveWaiting_drops dropped stay v list dropping]
  cases stay with
  | nil => rfl
  | cons w later =>
    obtain ⟨left, hl⟩ : ∃ left, left = v.afterDrops dropped (w :: later) := ⟨_, rfl⟩
    have above : left.outranks w.priority = v.outranks w.priority := by rw [hl]; rfl
    have check : left.entryCheck w.entry = v.entryCheck w.entry := by rw [hl]; rfl
    have whole : left.setPre { left.pre with waiting := w :: later } = left := by rw [hl]; rfl
    rw [← hl, serveWaiting, above, check, whole]
    cases h : v.outranks w.priority with
    | false => rfl
    | true =>
      have depth : v.entryCheck w.entry = some .depth := by
        rcases stops w later rfl with no | none | depth
        · rw [h] at no; cases no
        · exact absurd none ((stands w later rfl).resolve_left (by rw [h]; decide))
        · exact depth
      rw [depth]
      rfl

/-- A try that comes to an element which passes serves it. -/
theorem serveWaiting_serves {v : State} {dropped later : List Waiting} {w : Waiting} {k : EntryConfig}
    (drops : v.Drops dropped (w :: later)) (above : v.outranks w.priority = true) (passes : v.entryCheck w.entry = none)
    (config : (v.entry w.entry).config = some k) : serveWaiting v.pre.waiting v =
      (true, ((v.afterDrops dropped (w :: later)).setPre { (v.afterDrops dropped (w :: later)).pre with
        waiting := later }).acceptWaiting w.entry k) := by
  obtain ⟨list, dropping, -⟩ := drops
  rw [list, serveWaiting_drops dropped (w :: later) v list dropping]
  obtain ⟨left, hl⟩ : ∃ left, left = v.afterDrops dropped (w :: later) := ⟨_, rfl⟩
  have above' : left.outranks w.priority = v.outranks w.priority := by rw [hl]; rfl
  have check : left.entryCheck w.entry = v.entryCheck w.entry := by rw [hl]; rfl
  have entry : left.entry w.entry = v.entry w.entry := by rw [hl]; rfl
  rw [← hl, serveWaiting, above', above, if_pos rfl, check, passes, entry, config]

/-! ## What a return keeps -/

/-- `t` holds the entries of `s` and whatever attention `s` holds. -/
def State.Returns (s t : State) : Prop := t.pre.entries = s.pre.entries ∧ ∀ a, s.holds a = true → t.holds a = true

theorem Returns_refl (s : State) : s.Returns s := ⟨rfl, fun _ => id⟩

theorem Returns_trans {s t u : State} (h : s.Returns t) (h' : t.Returns u) : s.Returns u :=
  ⟨h'.1.trans h.1, fun a held => h'.2 a (h.2 a held)⟩

theorem Returns_of_link {s t : State} (entries : t.pre.entries = s.pre.entries) (link : t.link = s.link) : s.Returns t := by
  refine ⟨entries, fun a held => ?_⟩
  unfold State.holds at held ⊢
  rw [link]
  exact held

theorem Returns_raise (s : State) (a : Attention) : s.Returns (s.raise a) := ⟨rfl, fun _ => raise_keeps⟩

theorem truncate_returns (s : State) : s.Returns s.truncate :=
  Returns_of_link (by rw [truncate_frame]) (by rw [truncate_frame])

theorem resumeTop_returns (s : State) : s.Returns s.resumeTop := by
  cases top : s.pre.chain.head? with
  | none =>
    have same : s.resumeTop = s := by unfold State.resumeTop; rw [top]
    rw [same]
    exact Returns_refl s
  | some c =>
    cases data : s.planData c.plan with
    | none =>
      have same : s.resumeTop = s := by
        unfold State.resumeTop
        rw [top]
        dsimp only
        rw [data]
      rw [same]
      exact Returns_refl s
    | some x =>
      obtain ⟨b, d⟩ := x
      obtain ⟨-, -, -, -, -, link, pre⟩ := resumeTop_spec top data rfl
      exact Returns_of_link (by rw [pre]) link

theorem popTop_returns (s : State) : s.Returns s.popTop := by
  unfold State.popTop
  split
  · exact Returns_refl s
  · exact Returns_trans (Returns_of_link rfl rfl) (Returns_raise _ .preemptEnd)

theorem serveWaiting_returns (l : List Waiting) (s : State) : s.Returns (serveWaiting l s).2 := by
  induction l generalizing s with
  | nil => exact Returns_of_link rfl rfl
  | cons w l ih =>
    unfold serveWaiting
    split
    · split
      · exact Returns_of_link rfl rfl
      · exact Returns_trans (Returns_trans (Returns_of_link rfl rfl) (Returns_raise _ .preemptRefused)) (ih _)
      · rename_i passes
        obtain ⟨c, hc, -, -, cls, ready, -⟩ := entryCheck_passes passes
        rw [hc]
        obtain ⟨frame, -, -, link⟩ := pushContext_spec (s := s.setPre { s.pre with waiting := l }) (e := w.entry) ready cls rfl
        refine Returns_trans (t := (s.setPre { s.pre with waiting := l }).pushContext w.entry c) ⟨?_, fun a held => ?_⟩
          (truncate_returns _)
        · rw [frame]; rfl
        · unfold State.holds
          rw [link]
          exact raise_keeps (s := s.setPre { s.pre with waiting := l }) held
    · exact Returns_of_link rfl rfl

theorem returnThrough_returns (l : List Context) (s : State) : s.Returns (returnThrough l s) := by
  induction l generalizing s with
  | nil => exact Returns_refl s
  | cons c l ih =>
    unfold returnThrough
    have tried := serveWaiting_returns s.pre.waiting s
    split
    · rename_i t e
      rw [e] at tried
      exact tried
    · rename_i t e
      rw [e] at tried
      split
      · exact Returns_trans tried (Returns_trans (popTop_returns t) (ih _))
      · exact Returns_trans tried (resumeTop_returns t)

/-! ## The end of the dwell (R96 to R99) -/

section Dwelling

variable {s : State} {c : Context} {k : Invoker} {b : PlanBody} {d : Derived} {rest : List Context}
  (stage : s.seq.state = .stage) (chain : s.pre.chain = c :: rest) (inv : c.invoker = some k) (dwell : c.inDwell = true)
  (data : s.planData c.plan = some (b, d))

include stage chain inv dwell data

theorem dwelling_eq : s.dwelling = some (c, s.entry k.entry, b) := by
  have top : s.topPreemption = some c := by simp [State.topPreemption, chain, Option.filter, inv]
  unfold State.dwelling
  rw [if_pos stage, top]
  dsimp only
  rw [if_pos dwell, inv, data]

theorem dwellEndDue_iff : s.dwellEndDue = true ↔ s.ExpiredAt (· ∈ s.seq.gaining) s.now
    ∧ (s.seq.dwellOver = true ∨ ((s.entry k.entry).asserted = false ∧ 100 * b.dwells.1 ≤ 100 * c.dwell + (s.now - s.seq.greenStart)
      ∧ s.seq.greenStart + 100 * s.seq.length.getD 0 ≤ s.now)) := by
  unfold State.dwellEndDue
  rw [dwelling_eq stage chain inv dwell data]
  simp only [Bool.and_eq_true, expired_iff, Bool.or_eq_true, Bool.not_eq_true', decide_eq_true_eq, and_assoc]
  exact Iff.rfl

theorem maxDwellDue_iff : s.maxDwellDue = true ↔ (s.entry k.entry).asserted = true ∧ s.seq.dwellOver = false
    ∧ 100 * b.dwells.2 ≤ 100 * c.dwell + (s.now - s.seq.greenStart) := by
  unfold State.maxDwellDue
  rw [dwelling_eq stage chain inv dwell data]
  simp only [Bool.and_eq_true, Bool.not_eq_true', decide_eq_true_eq, and_assoc]
  exact Iff.rfl

end Dwelling

theorem endPreemption_eq {s : State} {c : Context} {rest : List Context} (chain : s.pre.chain = c :: rest) :
    s.endPreemption = returnThrough rest
      (((s.setPre { s.pre with chain := rest }).returnReady c.plan).raise .preemptEnd) := by
  have popped : s.popTop = ((s.setPre { s.pre with chain := rest }).returnReady c.plan).raise .preemptEnd := by
    unfold State.popTop
    rw [chain]
  unfold State.endPreemption
  rw [popped]
  rfl

theorem exec_dwellEnd {s : State} (live : s.resetHeld = false) : exec .dwellEnd s =
    .next (if s.dwellEndDue = true then s.settle s.endPreemption else s) := exec_of_live (i := .dwellEnd) live rfl

theorem exec_maxDwell {s : State} (live : s.resetHeld = false) : exec .maxDwell s =
    .next (if s.maxDwellDue = true then s.settle s.reachMaxDwell else s) := exec_of_live (i := .maxDwell) live rfl

/-! ## The return (R99 to R102) -/

theorem returnThrough_served {v t : State} {c : Context} {rest : List Context}
    (h : serveWaiting v.pre.waiting v = (true, t)) : returnThrough (c :: rest) v = t := by
  rw [returnThrough, h]

theorem returnThrough_unserved {v t : State} {c : Context} {rest : List Context}
    (h : serveWaiting v.pre.waiting v = (false, t)) :
    returnThrough (c :: rest) v = if t.popsThrough c then returnThrough rest t.popTop else t.resumeTop := by
  rw [returnThrough, h]

theorem popsThrough_iff {t : State} {c : Context} {b : PlanBody} {d : Derived} (data : t.planData c.plan = some (b, d)) :
    t.popsThrough c = true ↔ c.inDwell = true ∧ b.dwells.1 ≤ c.dwell
      ∧ ∃ k, c.invoker = some k ∧ (t.entry k.entry).asserted = false := by
  unfold State.popsThrough
  rw [data]
  cases c.invoker with
  | none => simp
  | some k =>
    simp only [Bool.and_eq_true, Bool.not_eq_true', decide_eq_true_eq, Option.some.injEq, exists_eq_left']
    exact ⟨fun ⟨⟨a, b⟩, c⟩ => ⟨b, c, a⟩, fun ⟨b, c, a⟩ => ⟨⟨a, b⟩, c⟩⟩

theorem planData_of_phase {s : State} {p : PlanIx} {ph : PlanPhase} (h : (s.plan p).phase = some ph) :
    ∃ b d, s.planData p = some (b, d) := by
  unfold State.planData
  cases hp : s.plan p with
  | free => rw [hp] at h; cases h
  | draft b => rw [hp] at h; cases h
  | valid q b d => exact ⟨b, d, rfl⟩

theorem planData_returnReady {s : State} {p q : PlanIx} (ne : q ≠ p) : (s.returnReady p).planData q = s.planData q := by
  unfold State.planData State.returnReady
  rw [State.setPlan_plan, if_neg ne]

/-- A dwell's end with the base context beneath and nothing pending (R99, R102). -/
theorem endPreemption_to_base {s : State} {c base : Context} {b : PlanBody} {d : Derived} (chain : s.pre.chain = [c, base])
    (inv : base.invoker = none) (ne : c.plan ≠ base.plan) (waiting : s.pre.waiting = []) (data : s.planData base.plan = some (b, d))
    {x : State} (hx : x = s.endPreemption) :
    x.pre.waiting = [] ∧ x.holds .preemptEnd = true
      ∧ (x.plan c.plan) = (s.plan c.plan).toPhase .ready ∧ (∀ p : PlanIx, p ≠ c.plan → x.plan p = s.plan p)
      ∧ x.pre.chain.map Context.purpose = [(base.plan, none)] ∧ s.Transfers x base.stage (b.greens base.stage) := by
  obtain ⟨t, ht⟩ : ∃ t, t = ((s.setPre { s.pre with chain := [base] }).returnReady c.plan).raise .preemptEnd := ⟨_, rfl⟩
  have none_ : t.pre.waiting = [] := by rw [ht]; exact waiting
  have whole : t.setPre { t.pre with waiting := [] } = t := by rw [← none_]; rfl
  have unserved : serveWaiting t.pre.waiting t = (false, t) := by
    rw [none_, serveWaiting, whole]
  have tdata : t.planData base.plan = some (b, d) := by
    rw [ht]
    exact (planData_returnReady (s := s.setPre { s.pre with chain := [base] }) ne.symm).trans data
  have stays : ¬t.popsThrough base = true := fun h => by
    obtain ⟨-, -, k, hk, -⟩ := (popsThrough_iff tdata).1 h
    rw [inv] at hk
    cases hk
  have run : x = t.resumeTop := by
    rw [hx, endPreemption_eq chain, ← ht, returnThrough_unserved unserved, if_neg stays]
  have top : t.pre.chain.head? = some base := by rw [ht]; rfl
  obtain ⟨transfers, -, -, purposes, plans, link, pre⟩ := resumeTop_spec top tdata run
  have plan (p : PlanIx) : x.plan p = (s.returnReady c.plan).plan p := by
    unfold State.plan
    rw [plans, ht]
    rfl
  refine ⟨by rw [pre]; exact none_, ?_, ?_, fun p other => ?_, ?_, Transfers_congr (by rw [ht]; rfl) (by rw [ht]; rfl)
    (by rw [ht]; rfl) transfers⟩
  · unfold State.holds
    rw [link, ht]
    exact (raise_holds _ .preemptEnd .preemptEnd).trans (by simp)
  · rw [plan, State.returnReady, State.setPlan_plan, if_pos rfl]
  · rw [plan, State.returnReady, State.setPlan_plan, if_neg other]
  · rw [purposes, ht]
    change [(base.plan, base.invoker)] = _
    rw [inv]

/-- A return that serves an element of the pending list (R100). -/
theorem return_serves {v : State} {c : Context} {rest : List Context} {dropped later : List Waiting} {w : Waiting}
    {k : EntryConfig} (chain : v.pre.chain = c :: rest) (drops : v.Drops dropped (w :: later))
    (above : v.outranks w.priority = true) (passes : v.entryCheck w.entry = none)
    (config : (v.entry w.entry).config = some k) {x : State} (hx : x = returnThrough (c :: rest) v) :
    let left := v.afterDrops dropped (w :: later)
    (∃ y, x.pre.chain = y :: c :: rest ∧ y.plan = k.plan
        ∧ y.invoker = some { entry := w.entry, priority := k.priority })
      ∧ x.pre.waiting = later ∧ x.pre.lastRefusal = left.pre.lastRefusal
      ∧ (x.plan k.plan).phase = some .invoked ∧ x.holds .preemptStart = true
      ∧ x.holds .preemptRefused = left.holds .preemptRefused ∧ x.seq.remainder = none ∧ x.seq.latch = false
      ∧ x.still = v.still ∧ ∀ b' d', v.planData k.plan = some (b', d') → v.Transfers x 1 (b'.greens 1) := by
  intro left
  obtain ⟨t, ht⟩ : ∃ t, t = left.setPre { left.pre with waiting := later } := ⟨_, rfl⟩
  have run : x = (t.pushContext w.entry k).truncate := by
    rw [hx, returnThrough_served (serveWaiting_serves drops above passes config), ht]
    rfl
  obtain ⟨k', hk', -, -, cls, ready, -⟩ := entryCheck_passes passes
  cases config.symm.trans hk'
  have plan (p : PlanIx) : t.plan p = v.plan p := by rw [ht]; rfl
  have data (p : PlanIx) : t.planData p = v.planData p := by rw [ht]; rfl
  have tchain : t.pre.chain = c :: rest := by rw [ht]; exact chain
  obtain ⟨-, phase, link, remainder, latch, -, pre, transfers⟩ :=
    pushed_truncates (s := t) (by rw [plan]; exact ready) (by rw [plan]; exact cls) run
  obtain ⟨b, d, hd⟩ := planData_of_phase ready
  obtain ⟨-, -, y, hy, hplan, hinv⟩ := transfers b d ((data k.plan).trans hd)
  have holds (a : Attention) : x.holds a = (left.holds a || a == .preemptStart) := by
    unfold State.holds
    rw [link, ht]
    exact raise_holds left .preemptStart a
  refine ⟨⟨y, by rw [hy, tchain], hplan, hinv⟩, by rw [pre, ht]; rfl, by rw [pre, ht]; rfl, phase, by rw [holds]; simp,
    by rw [holds]; exact Bool.or_false _, remainder, latch, by rw [hx, returnThrough_still], fun b' d' hd' => ?_⟩
  obtain ⟨moves, -⟩ := transfers b' d' ((data k.plan).trans hd')
  exact Transfers_congr (by rw [ht]; rfl) (by rw [ht]; rfl) (by rw [ht]; rfl) moves

/-- A return that serves nothing: a context popped through, or resumed (R101, R102). -/
theorem return_stands {v : State} {c : Context} {rest : List Context} {b : PlanBody} {d : Derived}
    {dropped stay : List Waiting} (chain : v.pre.chain = c :: rest) (data : v.planData c.plan = some (b, d))
    (drops : v.Drops dropped stay)
    (stands : ∀ w later, stay = w :: later → v.outranks w.priority = false ∨ v.entryCheck w.entry ≠ none)
    {x : State} (hx : x = returnThrough (c :: rest) v) :
    let left := v.afterDrops dropped stay
    let through := c.inDwell = true ∧ b.dwells.1 ≤ c.dwell ∧ ∃ k, c.invoker = some k ∧ (v.entry k.entry).asserted = false
    (through → x = returnThrough rest
        (((left.setPre { left.pre with chain := rest }).returnReady c.plan).raise .preemptEnd))
      ∧ (¬through → x.pre.waiting = stay ∧ x.pre.lastRefusal = left.pre.lastRefusal
        ∧ x.link = left.link ∧ x.plans = v.plans ∧ x.still = v.still
        ∧ x.pre.chain.map Context.purpose = v.pre.chain.map Context.purpose
        ∧ v.Transfers x c.stage (b.greens c.stage) ∧ x.seq.resumed = some c.elapsed
        ∧ (x.seq.state = .interstage → x.seq.slackLength = c.slackLength ∧ x.seq.excess = c.excess
            ∧ x.seq.position = c.position.map fun p => { value := p, since := none, limit := p })) := by
  intro left through
  have run := hx.trans (returnThrough_unserved (serveWaiting_stands drops stands))
  have ldata : left.planData c.plan = some (b, d) := data
  have pops : left.popsThrough c = true ↔ through := popsThrough_iff ldata
  have lchain : left.pre.chain = c :: rest := chain
  change x = if left.popsThrough c then returnThrough rest left.popTop else left.resumeTop at run
  refine ⟨fun h => ?_, fun h => ?_⟩
  · rw [if_pos (pops.2 h)] at run
    rw [run]
    congr 1
    unfold State.popTop
    rw [lchain]
  · rw [if_neg (mt pops.1 h)] at run
    obtain ⟨transfers, resumed, open_, purposes, plans, link, pre⟩ := resumeTop_spec (by rw [lchain]; rfl) ldata run
    exact ⟨by rw [pre]; rfl, by rw [pre], link, plans, by rw [hx, returnThrough_still], purposes,
      Transfers_congr rfl rfl rfl transfers, resumed, open_⟩

/-- Settles O38. -/
theorem dwellsEndAndStick : Obligations.DwellsEndAndStick := by
  refine ⟨fun s c base b d live due chain inv ne waiting data => ?_,
    fun s c k b d rest live stage chain inv dwell data => ?_,
    fun v c rest b d dropped stay chain data drops => ?_⟩
  · obtain ⟨gone, held, own, others, purposes, transfers⟩ := endPreemption_to_base chain inv ne waiting data rfl
    exact ⟨s.endPreemption, _, settle_ends s _, by rw [exec_dwellEnd live, if_pos due], endPreemption_still s, gone, held,
      own, others, purposes, transfers⟩
  · have endDue := dwellEndDue_iff stage chain inv dwell data
    have maxDue := maxDwellDue_iff stage chain inv dwell data
    refine ⟨fun passed ends => ?_, fun not => ?_, fun asserted goes max => ⟨?_, expired_iff s _, ?_⟩⟩
    · rw [exec_dwellEnd live, if_pos (endDue.2 ⟨passed, ends⟩), endPreemption_eq chain]
    · rw [exec_dwellEnd live, if_neg (mt endDue.1 not)]
    · rw [exec_maxDwell live, if_pos (maxDue.2 ⟨asserted, goes, max⟩)]
      have invoker : s.topPreemption.bind (·.invoker) = some k := by simp [State.topPreemption, chain, Option.filter, inv]
      unfold State.reachMaxDwell
      rw [invoker]
      dsimp only
      generalize ht : State.setSeq _ _ = t
      have tchain : t.pre.chain = c :: rest := by rw [← ht]; exact chain
      rw [endPreemption_eq tchain, ← ht]
      rfl
    · obtain ⟨t, ht⟩ : ∃ t, t = (s.setEntry k.entry { s.entry k.entry with stuck := true }).raise .preemptStuck := ⟨_, rfl⟩
      rw [← ht]
      obtain ⟨u, hu⟩ : ∃ u, u = (((t.setSeq { t.seq with dwellOver := true }).setPre {
        (t.setSeq { t.seq with dwellOver := true }).pre with chain := rest }).returnReady c.plan).raise .preemptEnd := ⟨_, rfl⟩
      obtain ⟨entries, holds⟩ := returnThrough_returns rest u
      have stuck : (u.entry k.entry).stuck = true := by
        rw [hu, ht]
        change ((s.setEntry k.entry { s.entry k.entry with stuck := true }).entry k.entry).stuck = true
        rw [State.setEntry_entry, if_pos rfl]
      have heldStuck : u.holds .preemptStuck = true := by
        rw [hu]
        refine raise_keeps ?_
        change t.holds .preemptStuck = true
        rw [ht, raise_holds]
        simp
      have heldEnd : u.holds .preemptEnd = true := by
        rw [hu, raise_holds]
        simp
      have kept : ((returnThrough rest u).entry k.entry).stuck = true ∧ (returnThrough rest u).holds .preemptStuck = true
          ∧ (returnThrough rest u).holds .preemptEnd = true := by
        refine ⟨?_, holds _ heldStuck, holds _ heldEnd⟩
        unfold State.entry at stuck ⊢
        rw [entries]
        exact stuck
      rw [hu] at kept
      exact kept
  · refine ⟨fun w later k list above passes config => ?_, fun stands => return_stands chain data drops stands rfl⟩
    subst list
    exact return_serves chain drops above passes config rfl

end Sys2Proof.Machine
end


section
/-! The orders SHOW_RED and SHOW_FLASH, the changes of junction state, and O26 from them (R13, R14, R146, R166 to
R169). -/

namespace Sys2Proof.Machine

/-! ## SHOW_RED and SHOW_FLASH (R13, R14) -/

/-- The aspect after SHOW_RED. -/
def GroupConfig.shownRed (k : GroupConfig) : Aspect → Aspect
  | .dark => .red
  | .flashAmber => .red
  | a => k.lost a

theorem showRed_aspect (s : State) (g h : GroupIx) : ((s.showRed g).group h).aspect =
    match (s.group g).config with
    | none => (s.group h).aspect
    | some k => if h = g then k.shownRed (s.group g).aspect else (s.group h).aspect := by
  have held {a : Aspect} (ha : (s.group g).aspect = a) :
      (s.group h).aspect = if h = g then a else (s.group h).aspect := by
    split
    · rename_i e; subst e; exact ha
    · rfl
  have lost := lose_aspect s g h
  unfold State.showRed
  cases hk : (s.group g).config with
  | none => rfl
  | some k =>
    rw [hk] at lost
    cases ha : (s.group g).aspect with
    | green => rw [ha] at lost; exact lost
    | redAmber => exact (cancel_aspect ..).trans (by by_cases e : h = g <;> simp [e, hk, ha, GroupConfig.shownRed, GroupConfig.lost])
    | dark | flashAmber => exact setAspect_aspect ..
    | amber | red => exact held ha

/-- A group that is DARK or flashes shows RED after SHOW_RED, and keeps it. -/
theorem each_showRed_red (l : List GroupIx) (s : State) {h : GroupIx} (present : (s.group h).config ≠ none)
    (shows : (h ∈ l ∧ ((s.group h).aspect = .dark ∨ (s.group h).aspect = .flashAmber)) ∨ (s.group h).aspect = .red) :
    ((s.each State.showRed l).group h).aspect = .red := by
  induction l generalizing s with
  | nil => exact shows.resolve_left fun both => List.not_mem_nil both.1
  | cons g l ih =>
    have config : ((s.showRed g).group h).config = (s.group h).config := still_config (showRed_still s g) h
    refine ih (s.showRed g) (by rw [config]; exact present) ?_
    have aspect := showRed_aspect s g h
    by_cases e : h = g
    · subst e
      obtain ⟨k, hk⟩ := Option.ne_none_iff_exists'.1 present
      rw [hk] at aspect
      dsimp only at aspect
      rw [if_pos rfl] at aspect
      right
      rw [aspect]
      rcases shows with ⟨-, h | h⟩ | h <;> rw [h] <;> rfl
    · have same : ((s.showRed g).group h).aspect = (s.group h).aspect := by
        rw [aspect]
        split
        · rfl
        · exact if_neg e
      rw [same]
      rcases shows with ⟨mem, h⟩ | h
      · exact .inl ⟨(List.mem_cons.1 mem).resolve_left e, h⟩
      · exact .inr h

/-- The aspect after SHOW_FLASH. -/
def GroupConfig.flashes (k : GroupConfig) : Aspect := if k.vehicle.isSome then .flashAmber else .dark

theorem GroupConfig.flashes_takes (k : GroupConfig) :
    ¬(k.flashes = .red ∨ k.flashes = .redAmber ∨ k.flashes = .amber) := by
  unfold GroupConfig.flashes
  split <;> decide

/-- A group shows its flash aspect and awaits no green. -/
def State.Flashed (s : State) (h : GroupIx) (k : GroupConfig) : Prop :=
  (s.group h).config = some k ∧ (s.group h).aspect = k.flashes ∧ (s.group h).awaited = none

theorem setAspect_awaited {s : State} {g h : GroupIx} {a : Aspect} {k : GroupConfig} (hk : (s.group g).config = some k)
    (deaf : ¬((if h = g then a else (s.group h).aspect) = .red ∨ (if h = g then a else (s.group h).aspect) = .redAmber
      ∨ (if h = g then a else (s.group h).aspect) = .amber)) :
    ((s.setAspect g a).group h).awaited = (s.group h).awaited := by
  have moved := setAspect_aspect s g h a
  have base := aspectSet_frame s g a
  have same := orderDrives_spec (s.aspectSet g a) k a
  rw [setAspect_eq hk] at moved ⊢
  generalize (s.aspectSet g a).orderDrives k a = t at moved same ⊢
  have aspect : (t.group h).aspect = if h = g then a else (s.group h).aspect := by rw [← moved, (guardJudge_aspect t h).1]
  rw [guardJudge_awaited (.inl fun takes => deaf (by rw [← aspect]; exact takes.2))]
  have groups : t.groups = s.groups.set g ((s.group g).entering a s.now) := by rw [same, base]
  unfold State.group
  rw [groups, Table.get_set]
  split
  · rename_i e; rw [e]; rfl
  · rfl

theorem showFlash_eq {s : State} {g : GroupIx} {k : GroupConfig} (hk : (s.group g).config = some k) : s.showFlash g =
    if (s.group g).aspect = k.flashes then s.setGroup g { s.group g with awaited := none }
    else (s.setGroup g { s.group g with awaited := none }).setAspect g k.flashes := by
  unfold State.showFlash
  rw [hk]
  rfl

theorem showFlash_flashed {s : State} {g h : GroupIx} {k : GroupConfig} (hk : (s.group h).config = some k)
    (now : h = g ∨ s.Flashed h k) : (s.showFlash g).Flashed h k := by
  have config : ((s.showFlash g).group h).config = some k := (still_config (showFlash_still s g) h).trans hk
  refine ⟨config, ?_⟩
  obtain ⟨t, ht⟩ : ∃ t, t = s.setGroup g { s.group g with awaited := none } := ⟨_, rfl⟩
  have tgroup : t.group h = if h = g then { s.group g with awaited := none } else s.group h := by
    rw [ht, State.setGroup_group]
  by_cases e : h = g
  · subst e
    rw [if_pos rfl] at tgroup
    rw [showFlash_eq hk, ← ht]
    split
    · rename_i same
      rw [tgroup]
      exact ⟨same, rfl⟩
    · have tk : (t.group h).config = some k := by rw [tgroup]; exact hk
      rw [setAspect_awaited tk (by rw [if_pos rfl]; exact k.flashes_takes), setAspect_aspect, if_pos rfl, tgroup]
      exact ⟨rfl, rfl⟩
  · obtain ⟨-, aspect, awaited⟩ := now.resolve_left e
    rw [if_neg e] at tgroup
    cases hm : (s.group g).config with
    | none =>
      have same : s.showFlash g = s := by unfold State.showFlash; rw [hm]
      rw [same]
      exact ⟨aspect, awaited⟩
    | some m =>
      rw [showFlash_eq hm, ← ht]
      split
      · rw [tgroup]
        exact ⟨aspect, awaited⟩
      · have tm : (t.group g).config = some m := by rw [ht, State.setGroup_group, if_pos rfl]; exact hm
        have deaf := k.flashes_takes
        rw [← aspect, ← tgroup] at deaf
        rw [setAspect_awaited tm (by rw [if_neg e]; exact deaf), setAspect_aspect, if_neg e, tgroup]
        exact ⟨aspect, awaited⟩

theorem each_showFlash_flashed (l : List GroupIx) (s : State) {h : GroupIx} {k : GroupConfig} (hk : (s.group h).config = some k)
    (now : h ∈ l ∨ s.Flashed h k) : (s.each State.showFlash l).Flashed h k := by
  induction l generalizing s with
  | nil => exact now.resolve_left List.not_mem_nil
  | cons g l ih =>
    refine ih (s.showFlash g) ((still_config (showFlash_still s g) h).trans hk) ?_
    rcases now with mem | now
    · rcases List.mem_cons.1 mem with e | mem
      · exact .inr (showFlash_flashed hk (.inl e))
      · exact .inl mem
    · exact .inr (showFlash_flashed hk (.inr now))

/-! ## The entries to START_FLASH, START_RED and FLASH (R146, R166 to R169) -/

theorem clearReds_lamp (s : State) (c : CircuitIx) : (s.clearReds.circuit c).lamp =
    if s.isRed c then { (s.circuit c).lamp with state := .unmeasured, pendingResult := none, agreement := 0, cause := none }
    else (s.circuit c).lamp := by
  unfold State.clearReds State.circuit
  dsimp only
  rw [Table.get_ofFn]
  split <;> rfl

/-- The entry to START_RED (R146, R166, R168). -/
theorem enterStartRed_spec {s u : State} (hu : u = s.enterStartRed) :
    (∃ t : State, t = ({ s with
        junction := { s.junction with state := .startRed, entry := s.now, clearance := none }
        link := (s.raise .junctionState).link, circuits := t.circuits }) ∧ t.Aspects u)
      ∧ (∀ g : GroupIx, (s.group g).config ≠ none → (s.group g).aspect = .dark ∨ (s.group g).aspect = .flashAmber →
          (u.group g).aspect = .red)
      ∧ ∀ c : CircuitIx, (u.circuit c).lamp = if s.isRed c then { (s.circuit c).lamp with
          state := .unmeasured, pendingResult := none, agreement := 0, cause := none }
        else (s.circuit c).lamp := by
  obtain ⟨t, ht⟩ : ∃ t, t = (s.enterState .startRed).clearReds := ⟨_, rfl⟩
  have run : u = t.each State.showRed t.presentGroups := by rw [hu, ht]; rfl
  have group (g : GroupIx) : t.group g = s.group g := by rw [ht]; rfl
  refine ⟨⟨t, by rw [ht]; rfl, by rw [run]; exact each_aspects showRed_aspects _ _⟩, fun g present dark => ?_, fun c => ?_⟩
  · rw [run]
    refine each_showRed_red _ t (by rw [group]; exact present) (.inl ⟨?_, by rw [group]; exact dark⟩)
    rw [mem_presentGroups, group]
    exact present
  · have lamp : (u.circuit c).lamp = (t.circuit c).lamp := still_lamp (by rw [run]; exact each_showRed_still t _) c
    rw [lamp, ht]
    exact clearReds_lamp (s.enterState .startRed) c

/-- The entry to START_FLASH (R166). -/
theorem enterStartFlash_spec {s u : State} (hu : u = s.enterStartFlash) :
    (({ s with
        junction := { s.junction with state := .startFlash, entry := s.now, clearance := none }
        link := (s.raise .junctionState).link
        output := { s.output with safeEnable := true, safeSince := s.now } }) : State).Aspects u
      ∧ (∀ (g : GroupIx) k, (s.group g).config = some k → (u.group g).awaited = none
          ∧ (u.group g).aspect = if k.vehicle.isSome then .flashAmber else .dark)
      ∧ ∀ c : CircuitIx, (u.circuit c).lamp = (s.circuit c).lamp := by
  obtain ⟨t, ht⟩ : ∃ t, t = s.safeOn.enterState .startFlash := ⟨_, rfl⟩
  have run : u = t.each State.showFlash t.presentGroups := by rw [hu, ht]; rfl
  have group (g : GroupIx) : t.group g = s.group g := by rw [ht]; rfl
  refine ⟨?_, fun g k hk => ?_, fun c => still_lamp (by rw [hu]; exact enterStartFlash_still s) c⟩
  · have frame := each_aspects showFlash_aspects t.presentGroups t
    rw [← run] at frame
    rw [ht] at frame
    exact frame
  · have tk : (t.group g).config = some k := by rw [group]; exact hk
    obtain ⟨-, aspect, awaited⟩ := each_showFlash_flashed t.presentGroups t tk
      (.inl (by rw [mem_presentGroups, tk]; exact Option.some_ne_none k))
    rw [run]
    exact ⟨awaited, aspect⟩

/-! ## START (R166) -/

theorem presentGroups_isEmpty (s : State) : s.presentGroups.isEmpty = true ↔ ∀ g : GroupIx, (s.group g).config = none := by
  rw [List.isEmpty_iff, List.eq_nil_iff_forall_not_mem]
  exact forall_congr' fun g => by rw [mem_presentGroups, not_not]

theorem startablePlan_iff (s : State) : s.startablePlan = true ↔
    ∃ p, s.seq.current = some p ∧ (s.plan p).phase = some .ready ∧ (s.plan p).isBase = true := by
  simp only [State.startablePlan, Option.any_eq_true, Bool.and_eq_true, beq_iff_eq]

theorem exec_start {s : State} (listens : s.Listens) : exec .start s = .next (match s.startFailure with
    | some st => s.refuse st
    | none => s.settle (s.begin.accept .empty)) := exec_of_listens (i := .start) listens rfl

/-- Settles O26. -/
theorem startBeginsTheSequence : Obligations.StartBeginsTheSequence := by
  intro s listens planReady
  have run := exec_start listens
  refine ⟨fun fails => ?_, fun from_ ⟨g, present⟩ => ?_⟩
  · have failure : s.startFailure = some .state := by
      unfold State.startFailure
      exact if_pos (fails.imp_right (presentGroups_isEmpty s).2)
    rw [run, failure]
  · have state : ¬((s.junction.state ≠ .dark ∧ s.junction.state ≠ .flash) ∨ s.presentGroups.isEmpty = true) := by
      rw [presentGroups_isEmpty]
      rintro (⟨dark, flash⟩ | empty)
      · exact from_.elim dark flash
      · exact present (empty g)
    refine ⟨fun fault => ?_, fun sound none => ?_, fun sound ready => ?_⟩
    · have failure : s.startFailure = some .monitorFault := by
        unfold State.startFailure
        rw [if_neg state, if_pos fault]
      rw [run, failure]
    · have failure : s.startFailure = some .noPlan := by
        unfold State.startFailure
        rw [if_neg state, if_neg sound, if_neg (mt (startablePlan_iff s).1 none)]
      rw [run, failure]
    · have failure : s.startFailure = Option.none := by
        unfold State.startFailure
        rw [if_neg state, if_neg sound, if_pos ((startablePlan_iff s).2 ready)]
      obtain ⟨u, hu⟩ : ∃ u, u = s.begin := ⟨_, rfl⟩
      refine ⟨u.accept .empty, _, settle_ends s _, by rw [run, failure, hu], rfl, ?_⟩
      have heldState : (s.raise .junctionState).holds .junctionState = true := (raise_holds ..).trans (by simp)
      rcases from_ with dark | flash
      · rw [State.begin, if_pos dark] at hu
        obtain ⟨frame, groups, lamps⟩ := enterStartFlash_spec hu
        rw [State.Aspects] at frame
        have link := congrArg State.link frame
        refine ⟨?_, by rw [frame]; rfl, by rw [frame]; rfl, ?_, by rw [frame]; rfl, by rw [frame]; rfl, by rw [frame]; rfl,
          by rw [frame]; rfl, by rw [frame]; rfl, fun _ => ⟨by rw [frame]; rfl, by rw [frame]; rfl, groups, lamps⟩,
          fun flash => ?_⟩
        · rw [← heldState]
          exact holds_of_attention (congrArg Link.attention link) _
        · rw [dark, frame]
          simp
        · rw [dark] at flash; cases flash
      · have not : s.junction.state ≠ .dark := by rw [flash]; decide
        rw [State.begin, if_neg not] at hu
        obtain ⟨⟨t, ht, frame⟩, reds, lamps⟩ := enterStartRed_spec hu
        rw [State.Aspects] at frame
        generalize t.circuits = circuits at ht
        rw [ht] at frame
        have link := congrArg State.link frame
        refine ⟨?_, by rw [frame]; rfl, by rw [frame]; rfl, ?_, by rw [frame]; rfl, by rw [frame]; rfl, by rw [frame]; rfl,
          by rw [frame]; rfl, by rw [frame]; rfl, fun dark => absurd dark not,
          fun _ => ⟨by rw [frame]; rfl, reds, lamps⟩⟩
        · rw [← heldState]
          exact holds_of_attention (congrArg Link.attention link) _
        · rw [flash, frame]
          exact (Bool.or_false _).symm

end Sys2Proof.Machine
end


section
/-! The ends of START_FLASH, START_RED and the all-red before flash, and O43 from them (R62, R88, R113, R146, R167 to
R169). -/

namespace Sys2Proof.Machine

/-! ## What the judgement of an assertion can move -/

theorem beginTruncation_frame (s : State) : s.beginTruncation = { s with
    groups := s.beginTruncation.groups, guard := s.beginTruncation.guard, circuits := s.beginTruncation.circuits
    channel := s.beginTruncation.channel, output := { s.output with flash := s.beginTruncation.output.flash }
    seq := s.beginTruncation.seq, pre := { s.pre with chain := s.beginTruncation.pre.chain } } := by
  unfold State.beginTruncation
  split
  · rfl
  · exact truncate_frame s

theorem pushContext_frame (s : State) (e : EntryIx) (c : EntryConfig) : s.pushContext e c = { s with
    plans := (s.pushContext e c).plans, link := { s.link with attention := (s.pushContext e c).link.attention }
    seq := (s.pushContext e c).seq, pre := { s.pre with chain := (s.pushContext e c).pre.chain } } := by
  unfold State.pushContext
  dsimp only
  rw [resync_frame]
  unfold State.makeInvoked
  split <;> rfl

/-- The judgement of an assertion moves aspects, plans, the sequencer, the chain, the pending list and the attention
set. -/
theorem judgeEntry_frame (s : State) (e : EntryIx) : ∀ u, u = s.judgeEntry e → u = { s with
    groups := u.groups, guard := u.guard, circuits := u.circuits, channel := u.channel
    output := { s.output with flash := u.output.flash }, plans := u.plans, seq := u.seq
    link := { s.link with attention := u.link.attention }
    pre := { s.pre with lastRefusal := u.pre.lastRefusal, chain := u.pre.chain, waiting := u.pre.waiting } } := by
  intro u hu
  unfold State.judgeEntry at hu
  split at hu
  · rw [hu]; rfl
  · rw [hu]; rfl
  · split at hu
    · rename_i c _
      have saved := (saveTop_frame s).1
      have pushed := pushContext_frame s.saveTop e c
      have moved := beginTruncation_frame (s.saveTop.pushContext e c)
      change u = (s.saveTop.pushContext e c).beginTruncation at hu
      rw [← hu] at moved
      generalize s.saveTop.pushContext e c = t at pushed moved
      generalize s.saveTop = r at saved pushed
      rw [moved, pushed, saved]
      rfl
    · rw [hu]

/-! ## The asserted entries judged in turn (R88) -/

theorem engaged_false {s : State} {e : EntryIx} (h : e ∉ s.engaged) : (s.inChain e || s.isWaiting e) = false :=
  Bool.eq_false_iff.2 (mt (engaged_iff s e).1 h)

/-- A list of asserted entries judged one after another. -/
def State.judgeAll (s : State) (l : List EntryIx) : State :=
  l.foldl (fun t e => if t.inChain e || t.isWaiting e then t else t.judgeEntry e) s

theorem judgeAsserted_eq (s : State) : s.judgeAsserted = s.judgeAll s.assertedEntries := rfl

theorem judgeAll_inTurn (l : List EntryIx) (s : State) (asserted : ∀ e ∈ l, (s.entry e).asserted = true) :
    State.JudgedInTurn l s (s.judgeAll l) := by
  induction l generalizing s with
  | nil => rfl
  | cons e l ih =>
    refine ⟨fun mem => ?_, fun out => ⟨s.judgeEntry e, judgeEntry_judged (asserted e List.mem_cons_self),
      judgeEntry_transaction s e, ?_⟩⟩
    · rw [State.judgeAll, List.foldl_cons, if_pos ((engaged_iff s e).2 mem)]
      exact ih s fun f mem => asserted f (List.mem_cons_of_mem _ mem)
    · have entries (f : EntryIx) : (s.judgeEntry e).entry f = s.entry f := by
        have frame := judgeEntry_frame s e _ rfl
        unfold State.entry
        rw [frame]
      rw [State.judgeAll, List.foldl_cons, if_neg (by rw [engaged_false out]; exact Bool.false_ne_true)]
      exact ih _ fun f mem => by rw [entries]; exact asserted f (List.mem_cons_of_mem _ mem)

theorem judgeAll_sched (l : List EntryIx) (s : State) : (s.judgeAll l).sched = s.sched := by
  refine foldl_keeps State.sched _ (fun t e => ?_) l s
  split
  · rfl
  · rw [judgeEntry_frame t e _ rfl]

theorem mem_assertedEntries (s : State) (e : EntryIx) : e ∈ s.assertedEntries ↔ number e ≤ s.pre.length
    ∧ (s.entry e).asserted = true ∧ ∃ k, (s.entry e).config = some k ∧ 1 ≤ k.priority ∧ k.priority ≤ 4 := by
  have range (n : Nat) : n ∈ [4, 3, 2, 1] ↔ 1 ≤ n ∧ n ≤ 4 := by
    simp only [List.mem_cons, List.not_mem_nil, or_false]
    omega
  simp only [State.assertedEntries, List.mem_flatMap, mem_filter_finRange, Bool.and_eq_true, decide_eq_true_eq,
    Option.any_eq_true, beq_iff_eq, range]
  constructor
  · rintro ⟨n, bounds, ⟨within, asserted⟩, k, hk, rfl⟩
    exact ⟨within, asserted, k, hk, bounds⟩
  · rintro ⟨within, asserted, k, hk, bounds⟩
    exact ⟨k.priority, bounds, ⟨within, asserted⟩, k, hk, rfl⟩

/-- The asserted entries stand by descending priority and ascending number. -/
theorem assertedEntries_sorted (s : State) : s.assertedEntries.Pairwise fun e f => s.entryPriority f < s.entryPriority e
    ∨ (s.entryPriority f = s.entryPriority e ∧ e < f) := by
  have own {n : Nat} {e : EntryIx} (mem : e ∈ (List.finRange 8).filter fun e => decide (number e ≤ s.pre.length)
      && (s.entry e).asserted && (s.entry e).config.any fun c => c.priority == n) : s.entryPriority e = n := by
    simp only [mem_filter_finRange, Bool.and_eq_true, Option.any_eq_true, beq_iff_eq] at mem
    obtain ⟨-, k, hk, eq⟩ := mem
    rw [entryPriority_of hk, eq]
  unfold State.assertedEntries
  rw [List.pairwise_flatMap]
  constructor
  · intro n _
    refine List.Pairwise.imp_of_mem (fun ha hb lt => .inr ⟨?_, lt⟩) ((List.pairwise_lt_finRange 8).filter _)
    rw [own ha, own hb]
  · refine List.Pairwise.imp (R := fun a b => b < a) (fun lt e he f hf => .inl ?_) (by decide)
    rw [own he, own hf]
    exact lt

/-! ## The start of the sequencer (R62) -/

/-- An interstage opened with nothing to lose moves no aspect and no output. -/
theorem openInterstage_gains {s : State} {stage : Nat} {gaining : List GroupIx} {delayed : Bool}
    {resumed slackLength : Option Nat} {u : State} (hu : u = s.openInterstage stage [] gaining delayed resumed slackLength) :
    u = { s with groups := u.groups, guard := u.guard, seq := u.seq, pre := { s.pre with chain := u.pre.chain } }
      ∧ (∀ g : GroupIx, (u.group g).aspect = (s.group g).aspect) ∧ (u.seq.state = .interstage ∨ u.seq.state = .stage) := by
  have spec := openInterstage_spec s stage [] gaining delayed resumed slackLength
  dsimp only at spec
  have aspect := opened_aspect s stage [] gaining delayed resumed slackLength
  obtain ⟨t, ht⟩ : ∃ t, t = s.losesNow [] delayed := ⟨_, rfl⟩
  have nothing : s.losesNow [] delayed = s := by
    unfold State.losesNow
    split <;> rfl
  have one (now : Instant) (v : State) (g : GroupIx) : v.requestGreen g now = { v with
      groups := (v.requestGreen g now).groups, guard := (v.requestGreen g now).guard } := by
    unfold State.requestGreen
    split
    · rfl
    · split
      · rfl
      · rw [guardJudge_spec]; rfl
  have all (now : Instant) (l : List GroupIx) (v : State) : v.requestAll l now = { v with
      groups := (v.requestAll l now).groups, guard := (v.requestAll l now).guard } := by
    induction l generalizing v with
    | nil => rfl
    | cons g l ih =>
      have first := one now v g
      have rest := ih (v.requestGreen g now)
      change (v.requestGreen g now).requestAll l now = _
      generalize hw : v.requestGreen g now = w at first rest
      have whole : v.requestAll (g :: l) now = w.requestAll l now := by rw [← hw]; rfl
      rw [whole]
      generalize w.requestAll l now = x at rest ⊢
      rw [rest, first]
  have opened : s.opened stage [] gaining delayed resumed slackLength = { s with
      groups := (s.opened stage [] gaining delayed resumed slackLength).groups
      guard := (s.opened stage [] gaining delayed resumed slackLength).guard
      seq := (s.opened stage [] gaining delayed resumed slackLength).seq } := by
    unfold State.opened
    rw [nothing]
    have frame := all s.now gaining (s.setSeq (s.seq.opened s.now stage [] gaining
      (if s.loseInstant [] delayed ≤ s.now then none else some (s.loseInstant [] delayed)) resumed slackLength))
    generalize State.requestAll _ gaining s.now = x at frame ⊢
    rw [frame]
    rfl
  rw [← hu] at spec
  simp only [nothing] at aspect
  generalize s.opened stage [] gaining delayed resumed slackLength = v at spec aspect opened
  obtain ⟨begun, open_, groups, -, -, state, -⟩ := spec
  refine ⟨?_, fun g => ?_, ?_⟩
  · cases done : v.interstageDone with
    | false => rw [open_ done, opened]
    | true =>
      have e := beginStage_frame v
      rw [begun done]
      generalize v.beginStage = w at e ⊢
      rw [e, opened]
  · rw [← aspect g]
    unfold State.group
    rw [groups]
  · rw [state]
    split
    · exact .inr rfl
    · exact .inl rfl

/-- The base context of a plan as RUNNING is entered (R93). -/
def baseContextOf (p : PlanIx) : Context :=
  { plan := p, invoker := none, stage := 1, elapsed := 0, slackLength := none, position := none, excess := 0,
    inDwell := false, dwell := 0 }

/-- The sequencer started on a READY base plan (R62). -/
theorem startSequence_spec {s u : State} {p : PlanIx} {b : PlanBody} {d : Derived} {x : BaseDerived}
    (current : s.seq.current = some p) (plan : s.plan p = .valid .ready b d) (cls : b.cls = .base) (base : d.base = some x)
    (hu : u = s.startSequence) :
    u = { s with groups := u.groups, guard := u.guard, seq := u.seq, plans := u.plans, link := u.link
                 pre := { s.pre with chain := u.pre.chain } }
      ∧ u.plan p = .valid .active b d ∧ (∀ a, s.holds a = true → u.holds a = true)
      ∧ u.pre.chain.map Context.purpose = [(p, none)] ∧ u.seq.stage = some 1 ∧ u.seq.interStart = s.now
      ∧ u.seq.latch = false ∧ u.seq.remainder = none ∧ (u.seq.state = .interstage ∨ u.seq.state = .stage)
      ∧ u.seq.sync = (if s.junction.mode = .synced then if x.stretched then .notHeld else .held else .none)
      ∧ (s.junction.mode = .synced → u.seq.watchStart = some s.now)
      ∧ ∀ g : GroupIx, (u.group g).aspect = (s.group g).aspect := by
  have orders : ((s.plan p).phase = some .ready ∨ (s.plan p).phase = some .selected) ∧ (s.plan p).isBase = true := by
    rw [plan]
    exact ⟨.inl rfl, by simp [Plan.isBase, Plan.cls, cls]⟩
  have active := makeActive_frame orders.1 orders.2
  have activePlan := makeActive_plan orders.1 orders.2 p
  rw [State.promotePlan_plan_self, plan] at activePlan
  have keeps (a : Attention) (held : s.holds a = true) : (s.makeActive p).holds a = true := by
    unfold State.holds
    rw [active]
    dsimp only
    split
    · exact raise_keeps held
    · exact held
  obtain ⟨t, ht⟩ : ∃ t, t = (s.makeActive p).setPre { (s.makeActive p).pre with chain := [baseContextOf p] } := ⟨_, rfl⟩
  have frame : t = { s with plans := t.plans, link := t.link, pre := { s.pre with chain := [baseContextOf p] } } := by
    rw [ht, active]
    rfl
  have tplan : t.plan p = .valid .active b d := by rw [ht]; exact activePlan
  have tholds (a : Attention) (held : s.holds a = true) : t.holds a = true := by rw [ht]; exact keeps a held
  have tcurrent : t.seq.current = some p := by rw [frame]; exact current
  have baseData : t.baseData = some (b, d, x) := by simp [State.baseData, tcurrent, State.planData, tplan, base]
  have sync : t.syncWithin = if x.stretched then .notHeld else .held := by
    have alone : t.preempted = false := by rw [frame]; rfl
    unfold State.syncWithin
    rw [alone, tcurrent]
    simp [tplan, Plan.stretched, base]
  have run : u = (t.setSeq (t.runningSeq d x b.slackIndex)).openInterstage 1 [] (b.greens 1) false none none := by
    rw [hu]
    unfold State.startSequence
    rw [current]
    dsimp only
    generalize hy : State.setPre (s.makeActive p) _ = y
    obtain rfl : y = t := hy.symm.trans ht.symm
    rw [baseData]
  clear ht
  obtain ⟨uframe, aspects, running⟩ := openInterstage_gains run
  obtain ⟨seq, purposes, none_, -⟩ := openInterstage_seq run
  have stage := congrArg Sequencer.stage seq
  have start := congrArg Sequencer.interStart seq
  have latch := congrArg Sequencer.latch seq
  have usync := congrArg Sequencer.sync seq
  have watch := congrArg Sequencer.watchStart seq
  have plans := congrArg State.plans uframe
  have link := congrArg State.link uframe
  have mode : t.junction.mode = s.junction.mode := by rw [frame]
  refine ⟨?_, ?_, fun a held => ?_, purposes.trans (by change t.pre.chain.map _ = _; rw [frame]; rfl), stage,
    start.trans (by change t.now = _; rw [frame]), latch, none_ rfl, running, usync.trans ?_, fun synced => watch.trans ?_,
    fun g => (aspects g).trans (by rw [frame]; rfl)⟩
  · rw [uframe, frame]
    rfl
  · unfold State.plan at tplan ⊢
    rw [plans]
    exact tplan
  · have held' := tholds a held
    unfold State.holds at held' ⊢
    rw [link]
    exact held'
  · change (if t.junction.mode = .synced then t.syncWithin else .none) = _
    rw [mode, sync]
  · change (if t.junction.mode = .synced then some t.now else t.seq.watchStart) = _
    rw [mode, if_pos synced, frame]

/-! ## The entry to RUNNING (R88, R113, R168) -/

theorem startRedEndDue_of {s : State} (state : s.junction.state = .startRed) (clearance : s.junction.clearance = none)
    (time : s.junction.entry + 100 * s.junction.startRed ≤ s.now)
    (reds : ∀ g : GroupIx, (s.group g).config ≠ none → s.redStatus g = .lit ∨ s.redStatus g = .unsupervised) :
    s.startRedEndDue = true := by
  have ready : s.redsReady = true := by
    unfold State.redsReady
    rw [List.all_eq_true]
    intro g mem
    rcases reds g ((mem_presentGroups s g).1 mem) with h | h <;> rw [h] <;> rfl
  simp only [State.startRedEndDue, state, clearance, ready, Option.isNone_none, Bool.and_true, BEq.rfl, Bool.true_and,
    decide_eq_true_eq]
  exact time

theorem startFlashEndDue_of {s : State} (state : s.junction.state = .startFlash)
    (time : s.junction.entry + 100 * s.junction.startFlash ≤ s.now)
    (serves : s.channel.state = .ready ∨ s.channel.state = .measuring ∨ s.channel.state = .calShort)
    (greens : ∀ (g : GroupIx) k, (s.group g).config = some k → s.junction.entry ≤ (s.circuit k.green).cable.lastCheck) :
    s.startFlashEndDue = true := by
  have service : s.channel.inService = true := by
    rcases serves with h | h | h <;> rw [Channel.inService, h] <;> rfl
  have checked : s.greensChecked = true := by
    unfold State.greensChecked
    rw [List.all_eq_true]
    intro g _
    rw [Option.all_eq_true]
    exact fun k hk => decide_eq_true (greens g k hk)
  simp only [State.startFlashEndDue, state, service, checked, Bool.and_true, BEq.rfl, Bool.true_and, decide_eq_true_eq]
  exact time

/-- The states that RUNNING is entered through. -/
theorem enterRunning_spec {s : State} {p : PlanIx} {b : PlanBody} {d : Derived} {x : BaseDerived}
    (clearance : s.junction.clearance = none)
    (current : s.seq.current = some p) (plan : s.plan p = .valid .ready b d) (cls : b.cls = .base) (base : d.base = some x) :
    ∃ v w : State, s.enterRunning = w.payOwed ∧ v.still = s.still
        ∧ v.junction = { s.junction with state := .running, entry := s.now }
        ∧ v.holds .junctionState = true ∧ v.plan p = .valid .active b d
        ∧ v.pre = { s.pre with chain := v.pre.chain } ∧ v.sched = s.sched ∧ v.output = s.output
        ∧ v.pre.chain.map Context.purpose = [(p, none)]
        ∧ v.seq.stage = some 1 ∧ v.seq.interStart = s.now ∧ v.seq.latch = false ∧ v.seq.remainder = none
        ∧ (v.seq.state = .interstage ∨ v.seq.state = .stage)
        ∧ v.seq.sync = (if s.junction.mode = .synced then if x.stretched then .notHeld else .held else .none)
        ∧ (s.junction.mode = .synced → v.seq.watchStart = some s.now)
        ∧ (∀ g : GroupIx, (v.group g).aspect = (s.group g).aspect)
        ∧ State.JudgedInTurn s.assertedEntries v w ∧ w.sched = s.sched := by
  obtain ⟨t, ht⟩ : ∃ t, t = s.enterState .running := ⟨_, rfl⟩
  obtain ⟨v, hv⟩ : ∃ v, v = t.startSequence := ⟨_, rfl⟩
  have spec := startSequence_spec (s := t) (by rw [ht]; exact current) (by rw [ht]; exact plan) cls base hv
  obtain ⟨frame, active, keeps, purposes, stage, start, latch, remainder, state, sync, watch, aspects⟩ := spec
  have held : t.holds .junctionState = true := by
    rw [ht, enterState_holds]
    simp
  have still : v.still = s.still := by rw [hv, startSequence_still, ht, enterState_still]
  have list : v.assertedEntries = s.assertedEntries := by rw [frame, ht]; rfl
  have run : s.enterRunning = (v.judgeAll s.assertedEntries).payOwed := by
    rw [← list, ← judgeAsserted_eq, hv, ht]
    rfl
  have entries (e : EntryIx) : v.entry e = s.entry e := by rw [frame, ht]; rfl
  refine ⟨v, v.judgeAll s.assertedEntries, run, still, ?_, keeps _ held, active, ?_, ?_, ?_, purposes, stage, ?_, latch,
    remainder, state, ?_, ?_, ?_, judgeAll_inTurn _ _ fun e mem => ?_, ?_⟩
  · rw [frame, ht]
    change { s.junction with state := .running, entry := s.now, clearance := none } = _
    rw [← clearance]
  · rw [frame, ht]; rfl
  · rw [frame, ht]; rfl
  · rw [frame, ht]; rfl
  · rw [start, ht]; rfl
  · rw [sync, ht]; rfl
  · rw [ht] at watch; exact watch
  · intro g
    rw [aspects, ht]
    rfl
  · rw [entries]
    exact ((mem_assertedEntries s e).1 mem).2.1
  · rw [judgeAll_sched, frame, ht]
    rfl

/-! ## The entry to FLASH (R82, R113, R169) -/

/-- Leaving for a state outside RUNNING, read off the state before an owed selection is paid (R82, R113). -/
theorem payOwed_leftAndPaid {s w : State} (outside : w.junction.state ≠ .running) (sched : w.sched = s.sched)
    (current : w.seq.current = s.seq.current) (holds : w.holds .planChanged = s.holds .planChanged)
    (left : s.junction.state = .running → s.RunningLeft w)
    (not : s.junction.state ≠ .running → w.plans = s.plans ∧ w.seq = { s.seq with greenStarts := w.seq.greenStarts })
    {u : State} (hu : u = w.payOwed) : (s.junction.state = .running → s.RunningLeft u) ∧ s.LeftAndPaid u := by
  obtain ⟨plans, seq⟩ := payOwed_outside outside
  have frame := payOwed_frame w
  have paid := payOwed_paid w
  rw [← hu] at plans seq frame paid
  refine ⟨fun running => ?_, w, by rw [frame], sched, current, holds, left, not, paid, plans, seq⟩
  have plan (p : PlanIx) : u.plan p = w.plan p := by unfold State.plan; rw [plans]
  have pre : u.pre = w.pre := by rw [frame]
  have kept := left running
  unfold State.RunningLeft at kept ⊢
  rw [seq, pre]
  simp only [plan]
  exact kept

theorem setAspect_greenStarts {s : State} {a : Aspect} (ne : a ≠ .green) (g : GroupIx)
    (none_ : s.seq.greenStarts = Table.replicate 16 none) : (s.setAspect g a).seq.greenStarts = Table.replicate 16 none := by
  rw [setAspect_spec, if_neg ne]
  refine Table.ext_get fun h => ?_
  change (s.seq.greenStarts.set g none).get h = _
  rw [none_, Table.get_set, Table.get_replicate]
  split <;> rfl

theorem each_showFlash_greenStarts (l : List GroupIx) (s : State) (none_ : s.seq.greenStarts = Table.replicate 16 none) :
    (s.each State.showFlash l).seq.greenStarts = Table.replicate 16 none := by
  induction l generalizing s with
  | nil => exact none_
  | cons g l ih =>
    refine ih (s.showFlash g) ?_
    cases hk : (s.group g).config with
    | none =>
      have same : s.showFlash g = s := by unfold State.showFlash; rw [hk]
      rw [same]
      exact none_
    | some k =>
      rw [showFlash_eq hk]
      split
      · exact none_
      · refine setAspect_greenStarts ?_ g none_
        unfold GroupConfig.flashes
        split <;> decide

/-- The entry to FLASH. -/
theorem enterFlash_spec {s u : State} (hu : u = s.enterFlash) : u.still = s.still
    ∧ u.junction = { s.junction with state := .flash, entry := s.now, clearance := none }
    ∧ u.holds .junctionState = true ∧ u.output.safeEnable = s.output.safeEnable
    ∧ (∀ (g : GroupIx) k, (s.group g).config = some k → (u.group g).awaited = none
        ∧ (u.group g).aspect = if k.vehicle.isSome then .flashAmber else .dark)
    ∧ (s.junction.state = .running → s.RunningLeft u) ∧ s.LeftAndPaid u := by
  obtain ⟨t, ht⟩ : ∃ t, t = s.exitRunning.enterState .flash := ⟨_, rfl⟩
  obtain ⟨w, hw⟩ : ∃ w, w = t.each State.showFlash t.presentGroups := ⟨_, rfl⟩
  have run : u = w.payOwed := by rw [hu, hw, ht]; rfl
  have exited := exitRunning_frame s
  have frame := each_aspects showFlash_aspects t.presentGroups t
  rw [← hw, State.Aspects] at frame
  have config (g : GroupIx) : (t.group g).config = (s.group g).config := by rw [ht, exited]; rfl
  have heldState : w.holds .junctionState = true := by
    have : t.holds .junctionState = true := by rw [ht, enterState_holds]; simp
    rw [frame]
    exact this
  have heldPlan : w.holds .planChanged = s.holds .planChanged := by
    have : t.holds .planChanged = s.holds .planChanged := by
      rw [ht, enterState_holds, exitRunning_holds _ (by decide)]
      simp
    rw [frame]
    exact this
  have state : w.junction = { s.junction with state := .flash, entry := s.now, clearance := none } := by
    rw [frame, ht, exited]
    rfl
  have paidFrame := payOwed_frame w
  rw [← run] at paidFrame
  have groups (g : GroupIx) : u.group g = w.group g := by rw [paidFrame]; rfl
  refine ⟨by rw [hu]; exact enterFlash_still s, by rw [paidFrame]; exact state, by rw [run]; exact payOwed_keeps heldState, ?_,
    fun g k hk => ?_, ?_⟩
  · rw [paidFrame, frame, ht, exited]
    rfl
  · have tk : (t.group g).config = some k := by rw [config]; exact hk
    obtain ⟨-, aspect, awaited⟩ := each_showFlash_flashed t.presentGroups t tk
      (.inl (by rw [mem_presentGroups, tk]; exact Option.some_ne_none k))
    rw [groups, hw]
    exact ⟨awaited, aspect⟩
  · refine payOwed_leftAndPaid ?_ ?_ ?_ heldPlan (fun running => ?_) (fun away => ?_) run
    · rw [state]; exact (by decide : JunctionState.flash ≠ .running)
    · rw [frame, ht, exited]; rfl
    · rw [frame, ht]; exact exitRunning_current s
    · have left := exitRunning_left running
      have starts : w.seq.greenStarts = Table.replicate 16 none := by
        rw [hw]
        refine each_showFlash_greenStarts _ t ?_
        obtain ⟨-, -, -, -, -, -, -, -, -, starts, -⟩ := left
        rw [ht]
        exact starts
      have seq : w.seq = s.exitRunning.seq := by
        obtain ⟨-, -, -, -, -, -, -, -, -, starts', -⟩ := left
        have e : w.seq = { s.exitRunning.seq with greenStarts := w.seq.greenStarts } := by rw [frame, ht]; rfl
        rw [e, starts, ← starts']
      have pre : w.pre = s.exitRunning.pre := by rw [frame, ht]; rfl
      have plan (p : PlanIx) : w.plan p = s.exitRunning.plan p := by
        unfold State.plan
        rw [frame, ht]
        rfl
      unfold State.RunningLeft at left ⊢
      rw [seq, pre]
      simp only [plan]
      exact left
    · rw [frame, ht, exitRunning_outside away]
      exact ⟨rfl, rfl⟩

/-- Settles O43. -/
theorem junctionStatesEnd : Obligations.JunctionStatesEnd := by
  intro s live
  refine ⟨fun state time serves greens => ?_, fun p b d x state clearance time reds current plan cls base => ?_,
    fun a clearance time => ?_⟩
  · have run : exec .startFlashEnd s = .next (s.settle s.enterStartRed) := by
      rw [exec_of_live (i := .startFlashEnd) live rfl, State.whenDue, if_pos (startFlashEndDue_of state time serves greens)]
    obtain ⟨⟨t, ht, frame⟩, shown, lamps⟩ := enterStartRed_spec (s := s) rfl
    rw [State.Aspects] at frame
    generalize t.circuits = circuits at ht
    rw [ht] at frame
    have heldState : (s.raise .junctionState).holds .junctionState = true := (raise_holds ..).trans (by simp)
    have link := congrArg State.link frame
    refine ⟨s.enterStartRed, _, settle_ends s _, run, by rw [frame], ?_, shown, lamps, by rw [frame], by rw [frame],
      by rw [frame], by rw [frame]⟩
    rw [← heldState]
    exact holds_of_attention (congrArg Link.attention link) _
  · have run : exec .startRedEnd s = .next (s.settle s.enterRunning) := by
      rw [exec_of_live (i := .startRedEnd) live rfl, State.whenDue, if_pos (startRedEndDue_of state clearance time reds)]
    obtain ⟨v, w, entered, still, junction, held, active, pre, sched, output, purposes, stage, start, latch, remainder,
      running, sync, watch, aspects, inTurn, sched'⟩ := enterRunning_spec clearance current plan cls base
    refine ⟨v, w, w.payOwed, _, s.assertedEntries, settle_ends s _, by rw [run, entered], still, junction, held, active, pre,
      sched, output, purposes, stage, start, latch, remainder, running, sync, watch, aspects, mem_assertedEntries s,
      assertedEntries_sorted s, inTurn, sched', fun unowed => ?_, payOwed_paid w, ?_⟩
    · have none_ : w.sched.owed = false := by rw [sched']; exact unowed
      unfold State.payOwed
      rw [none_]
      rfl
    · have frame := payOwed_frame w
      generalize w.payOwed = u at frame ⊢
      rw [frame]
  · have due : s.allRedEndDue = true := by
      unfold State.allRedEndDue
      rw [clearance]
      exact decide_eq_true time
    have run : exec .allRedEnd s = .next (s.settle s.enterFlash) := by
      rw [exec_of_live (i := .allRedEnd) live rfl, State.whenDue, if_pos due]
    exact ⟨s.enterFlash, _, settle_ends s _, run, enterFlash_spec rfl⟩

end Sys2Proof.Machine
end


section
/-! FLASH and its clearance, and O27 from them (R81, R103, R169). -/

namespace Sys2Proof.Machine

/-! ## CANCEL and LOSE with no request open (R12, R13, R35) -/

theorem setAspect_awaited_unasked {s : State} {g : GroupIx} {k : GroupConfig} (hk : (s.group g).config = some k)
    (unasked : s.guard = []) (a : Aspect) (h : GroupIx) : ((s.setAspect g a).group h).awaited = (s.group h).awaited := by
  have base := aspectSet_frame s g a
  have same := orderDrives_spec (s.aspectSet g a) k a
  rw [setAspect_eq hk]
  generalize (s.aspectSet g a).orderDrives k a = t at same ⊢
  have guard : t.guard = [] := by rw [same, base]; exact unasked
  have groups : t.groups = s.groups.set g ((s.group g).entering a s.now) := by rw [same, base]
  rw [guardJudge_awaited (.inr fun r mem => by rw [guard] at mem; cases mem)]
  unfold State.group
  rw [groups, Table.get_set]
  split
  · rename_i e; rw [e]; rfl
  · rfl

theorem cancel_unasked {s : State} (unasked : s.guard = []) (g : GroupIx) : (s.cancel g).guard = []
    ∧ (∀ h : GroupIx, (s.group h).awaited = none → ((s.cancel g).group h).awaited = none)
    ∧ (s.Takes g → ((s.cancel g).group g).awaited = none) := by
  have guard : (s.cancel g).guard = [] := List.sublist_nil.1 (unasked ▸ cancel_sublist s g)
  have cleared (h : GroupIx) : ((s.setGroup g { s.group g with awaited := none }).group h).awaited =
      if h = g then none else (s.group h).awaited := by
    rw [State.setGroup_group]
    split <;> rfl
  have dropped (h : GroupIx) : ((s.dropAwaited g).group h).awaited = if h = g then none else (s.group h).awaited := by
    unfold State.dropAwaited
    rw [guardJudge_awaited (.inr fun r mem => by
      rw [show (s.setGroup g { s.group g with awaited := none }).guard = s.guard from rfl, unasked] at mem
      cases mem)]
    exact cleared h
  have off {v : State} (awaited : ∀ h, (v.group h).awaited = if h = g then none else (s.group h).awaited) :
      (∀ h : GroupIx, (s.group h).awaited = none → (v.group h).awaited = none)
        ∧ (s.Takes g → (v.group g).awaited = none) :=
    ⟨fun h none => by rw [awaited]; split <;> simp [none], fun _ => by rw [awaited, if_pos rfl]⟩
  have same (not : ¬s.Takes g) : (∀ h : GroupIx, (s.group h).awaited = none → (s.group h).awaited = none)
      ∧ (s.Takes g → (s.group g).awaited = none) := ⟨fun _ => id, fun takes => absurd takes not⟩
  refine ⟨guard, ?_⟩
  unfold State.cancel
  cases hk : (s.group g).config with
  | none => exact same fun takes => takes.1 hk
  | some k =>
    cases ha : (s.group g).aspect with
    | red | amber => exact off dropped
    | redAmber =>
      refine off fun h => ?_
      have tk : ((s.setGroup g { s.group g with awaited := none }).group g).config = some k := by
        rw [State.setGroup_group, if_pos rfl]
        exact hk
      exact (setAspect_awaited_unasked tk unasked .red h).trans (cleared h)
    | green | dark | flashAmber =>
      exact same fun takes => by rcases takes.2 with h | h | h <;> rw [ha] at h <;> cases h

theorem cancel_greenStarts {s : State} {g h : GroupIx} (green : (s.group h).aspect = .green) :
    (s.cancel g).seq.greenStarts.get h = s.seq.greenStarts.get h := by
  have judged (v : State) : v.guardJudge.seq = v.seq := by rw [guardJudge_spec]
  unfold State.cancel State.dropAwaited
  cases hk : (s.group g).config with
  | none => rfl
  | some k =>
    cases ha : (s.group g).aspect with
    | red | amber => dsimp only; rw [judged]; rfl
    | redAmber =>
      have ne : h ≠ g := fun e => by rw [e, ha] at green; cases green
      dsimp only
      rw [setAspect_spec, if_neg (by decide)]
      exact Table.get_set_ne _ _ ne
    | green | dark | flashAmber => rfl

/-- Groups given CANCEL one after another, with no request open. -/
theorem each_cancel_unasked (l : List GroupIx) (s : State) (unasked : s.guard = []) :
    (s.each State.cancel l).guard = []
      ∧ (∀ h : GroupIx, ((s.each State.cancel l).group h).aspect =
          if h ∈ l ∧ (s.group h).config ≠ none ∧ (s.group h).aspect = .redAmber then .red else (s.group h).aspect)
      ∧ (∀ h : GroupIx, (s.group h).awaited = none ∨ (h ∈ l ∧ s.Takes h) → ((s.each State.cancel l).group h).awaited = none)
      ∧ ∀ h : GroupIx, (s.group h).aspect = .green →
          (s.each State.cancel l).seq.greenStarts.get h = s.seq.greenStarts.get h := by
  induction l generalizing s with
  | nil =>
    exact ⟨unasked, fun h => (if_neg fun both => List.not_mem_nil both.1).symm,
      fun h none => none.resolve_right fun both => List.not_mem_nil both.1, fun h _ => rfl⟩
  | cons g l ih =>
    obtain ⟨guard, stays, own⟩ := cancel_unasked unasked g
    have aspect := cancel_aspect s g
    have config (h : GroupIx) : ((s.cancel g).group h).config = (s.group h).config := still_config (cancel_still s g) h
    have starts {h : GroupIx} := cancel_greenStarts (s := s) (g := g) (h := h)
    have run : s.each State.cancel (g :: l) = (s.cancel g).each State.cancel l := rfl
    obtain ⟨guard', aspect', awaited', starts'⟩ := ih (s.cancel g) guard
    rw [run]
    refine ⟨guard', fun h => ?_, fun h none => awaited' h ?_, fun h green => ?_⟩
    · rw [aspect', config, aspect]
      by_cases e : h = g
      · subst e
        by_cases amber : (s.group h).config ≠ none ∧ (s.group h).aspect = .redAmber
        · simp [amber]
        · by_cases present : (s.group h).config = none
          · simp [present]
          · have ne : (s.group h).aspect ≠ .redAmber := fun e => amber ⟨present, e⟩
            simp [ne]
      · simp [e]
    · rcases none with none | ⟨mem, takes⟩
      · exact .inl (stays h none)
      · by_cases e : h = g
        · subst e
          exact .inl (own takes)
        · refine .inr ⟨(List.mem_cons.1 mem).resolve_left e, ?_⟩
          unfold State.Takes
          rw [config, aspect, if_neg fun both => e both.1]
          exact takes
    · rw [starts' h (by rw [aspect, if_neg fun both => by rw [both.1] at green; rw [both.2.2] at green; cases green]; exact green),
        starts green]

theorem lose_unasked {s : State} (unasked : s.guard = []) (g : GroupIx) : (s.lose g).guard = []
    ∧ ∀ h : GroupIx, (s.group h).awaited = none → ((s.lose g).group h).awaited = none := by
  refine ⟨List.sublist_nil.1 (unasked ▸ lose_sublist s g), fun h none => ?_⟩
  unfold State.lose
  cases hk : (s.group g).config with
  | none => exact none
  | some k =>
    cases ha : (s.group g).aspect with
    | green => exact (setAspect_awaited_unasked hk unasked _ h).trans none
    | redAmber => exact (cancel_unasked unasked g).2.1 h none
    | amber | red | dark | flashAmber => exact none

theorem each_lose_unasked (l : List GroupIx) (s : State) (unasked : s.guard = []) : (s.each State.lose l).guard = []
    ∧ ∀ h : GroupIx, (s.group h).awaited = none → ((s.each State.lose l).group h).awaited = none := by
  induction l generalizing s with
  | nil => exact ⟨unasked, fun _ => id⟩
  | cons g l ih =>
    obtain ⟨guard, stays⟩ := lose_unasked unasked g
    obtain ⟨guard', stays'⟩ := ih (s.lose g) guard
    exact ⟨guard', fun h none => stays' h (stays h none)⟩

/-! ## The preemptions removed (R81, R103) -/

theorem removePreemptions_spec {s u : State} (hu : u = s.removePreemptions) :
    u = { s with
        plans := u.plans, link := { s.link with attention := u.link.attention }
        pre := { s.pre with chain := s.pre.chain.filter fun c => c.invoker.isNone, waiting := [] }
        seq := { s.seq with stage := u.seq.stage, position := u.seq.position } }
      ∧ (∀ q : PlanIx, ((∃ c ∈ s.pre.chain, c.invoker ≠ none ∧ c.plan = q) → u.plan q = (s.plan q).toPhase .ready)
        ∧ ((¬∃ c ∈ s.pre.chain, c.invoker ≠ none ∧ c.plan = q) → u.plan q = s.plan q))
      ∧ (s.preempted = true → u.holds .preemptEnd = true) := by
  obtain ⟨v, hv⟩ : ∃ v, v = (s.setPre { s.pre with chain := s.pre.chain.filter fun c => c.invoker.isNone, waiting := [] }).returnPlans
    s.pre.chain := ⟨_, rfl⟩
  have returned := returnPlans_spec s.pre.chain
    (s.setPre { s.pre with chain := s.pre.chain.filter fun c => c.invoker.isNone, waiting := [] })
  rw [← hv] at returned
  obtain ⟨frame, plans⟩ := returned
  obtain ⟨w, hw⟩ : ∃ w, w = v.raiseEnd s.pre.chain := ⟨_, rfl⟩
  have raised := raiseEnd_frame v s.pre.chain
  rw [← hw] at raised
  have moved : u = { w with seq := { w.seq with stage := u.seq.stage, position := u.seq.position } } := by
    rw [hu]
    unfold State.removePreemptions
    dsimp only
    rw [← hv, ← hw]
    split
    · split <;> rfl
    · rfl
  have uplans := congrArg State.plans moved
  have ulink := congrArg State.link moved
  dsimp only at uplans ulink
  refine ⟨?_, fun q => ?_, fun preempted => ?_⟩
  · rw [moved, raised, frame]
    rfl
  · have same : u.plan q = v.plan q := by
      unfold State.plan
      rw [uplans, raised]
    rw [same]
    exact plans q
  · unfold State.holds
    rw [ulink]
    change w.holds .preemptEnd = true
    rw [hw, raiseEnd_holds, show s.pre.chain.any (fun c => c.invoker.isSome) = true from preempted]
    simp

/-! ## The clearance (R81) -/

/-- A plan of a preemption, or the pending one. -/
def State.ReturnedByFlash (s : State) (p : PlanIx) : Prop :=
  s.seq.pendingPlan = some p ∨ ∃ c ∈ s.pre.chain, c.invoker ≠ none ∧ c.plan = p

/-- The state of a clearance before its greens are ended. -/
theorem quieted_spec {s t : State} (ht : t = ((s.removePreemptions.setGuard []).each State.cancel
    (s.removePreemptions.setGuard []).startingGroups).dropPending) :
    t.guard = [] ∧ t.pre.waiting = [] ∧ (∀ c ∈ t.pre.chain, c.invoker = none)
      ∧ t.seq.current = s.seq.current ∧ t.seq.pendingPlan = none ∧ t.junction = s.junction ∧ t.now = s.now
      ∧ t.output.safeEnable = s.output.safeEnable
      ∧ (∀ h : GroupIx, (t.group h).config = (s.group h).config)
      ∧ (∀ h : GroupIx, (t.group h).aspect = if (s.group h).config ≠ none ∧ (s.group h).aspect = .redAmber then .red
          else (s.group h).aspect)
      ∧ (∀ h : GroupIx, s.Takes h → (t.group h).awaited = none)
      ∧ (∀ h : GroupIx, (s.group h).aspect = .green → t.seq.greenStarts.get h = s.seq.greenStarts.get h)
      ∧ (s.preempted = true → t.holds .preemptEnd = true)
      ∧ (∀ p, s.ReturnedByFlash p → t.plan p = (s.plan p).toPhase .ready)
      ∧ (∀ p, ¬s.ReturnedByFlash p → t.plan p = s.plan p) := by
  obtain ⟨r, hr⟩ : ∃ r, r = s.removePreemptions.setGuard [] := ⟨_, rfl⟩
  obtain ⟨frame, plans, held⟩ := removePreemptions_spec (s := s) rfl
  have rplan (p : PlanIx) : r.plan p = s.removePreemptions.plan p := by rw [hr]; rfl
  have rholds : s.preempted = true → r.holds .preemptEnd = true := fun h => by rw [hr]; exact held h
  have rframe : r = { s with
      guard := [], plans := r.plans, link := { s.link with attention := r.link.attention }
      pre := { s.pre with chain := s.pre.chain.filter fun c => c.invoker.isNone, waiting := [] }
      seq := { s.seq with stage := r.seq.stage, position := r.seq.position } } := by
    rw [hr]
    generalize s.removePreemptions = y at frame ⊢
    rw [frame]
    rfl
  rw [← hr] at ht
  obtain ⟨v, hv⟩ : ∃ v, v = r.each State.cancel r.startingGroups := ⟨_, rfl⟩
  obtain ⟨guard, aspect, awaited, starts⟩ := each_cancel_unasked r.startingGroups r (by rw [rframe])
  have aspects := each_aspects cancel_aspects r.startingGroups r
  have still := each_cancel_still r r.startingGroups
  rw [← hv] at guard aspect awaited starts aspects still ht
  rw [State.Aspects] at aspects
  have rgroup (h : GroupIx) : r.group h = s.group h := by rw [rframe]; rfl
  have starting (h : GroupIx) : h ∈ r.startingGroups ↔ (s.group h).awaited.isSome = true ∨ (s.group h).aspect = .redAmber := by
    simp only [State.startingGroups, mem_filter_finRange, rgroup, Bool.or_eq_true, beq_iff_eq]
  obtain ⟨tframe, tplan⟩ := dropPending_spec v
  rw [← ht] at tframe tplan
  have tgroup (h : GroupIx) : t.group h = v.group h := by rw [tframe]; rfl
  have pending : v.seq.pendingPlan = s.seq.pendingPlan := by rw [aspects, rframe]
  have vplan (p : PlanIx) : v.plan p = s.removePreemptions.plan p := by
    rw [← rplan]
    unfold State.plan
    rw [aspects]
  have plan (p : PlanIx) : t.plan p = if s.seq.pendingPlan = some p then (s.removePreemptions.plan p).toPhase .ready
      else s.removePreemptions.plan p := by
    rw [tplan, pending, vplan]
  have chain : t.pre.chain = s.pre.chain.filter fun c => c.invoker.isNone := by rw [tframe, aspects, rframe]
  refine ⟨by rw [tframe]; exact guard, by rw [tframe, aspects, rframe], fun c mem => ?_, by rw [tframe, aspects, rframe],
    by rw [tframe], by rw [tframe, aspects, rframe], by rw [tframe, aspects, rframe], by rw [tframe, aspects, rframe],
    fun h => ?_, fun h => ?_, fun h takes => ?_, fun h green => ?_, fun preempted => ?_, fun p returned => ?_, fun p not => ?_⟩
  · rw [chain] at mem
    exact Option.isNone_iff_eq_none.1 (List.mem_filter.1 mem).2
  · rw [tgroup, still_config still h, rgroup]
  · rw [tgroup, aspect, rgroup]
    by_cases amber : (s.group h).aspect = .redAmber
    · simp [amber, (starting h).2 (.inr amber)]
    · simp [amber]
  · rw [tgroup]
    refine awaited h ?_
    unfold State.Takes
    rw [rgroup, starting]
    cases none_ : (s.group h).awaited with
    | none => exact .inl rfl
    | some a => exact .inr ⟨.inl rfl, takes⟩
  · rw [tframe]
    refine (starts h (by rw [rgroup]; exact green)).trans ?_
    rw [rframe]
  · have held := rholds preempted
    unfold State.holds at held ⊢
    rw [tframe, aspects]
    exact held
  · rw [plan]
    rcases returned with pend | chained
    · rw [if_pos pend]
      by_cases c : ∃ c ∈ s.pre.chain, c.invoker ≠ none ∧ c.plan = p
      · rw [(plans p).1 c, Plan.toPhase_toPhase]
      · rw [(plans p).2 c]
    · rw [(plans p).1 chained, Plan.toPhase_toPhase, ite_self]
  · rw [plan, if_neg fun h => not (.inl h), (plans p).2 fun h => not (.inr h)]

/-- FLASH taken in RUNNING (R81, R103). -/
theorem beginClearance_spec {s u : State} (hu : u = s.beginClearance) :
    u.junction.state = s.junction.state
      ∧ u.junction.clearance ≠ none ∧ u.output.safeEnable = s.output.safeEnable
      ∧ u.seq.state = .clearance ∧ u.seq.remainder = none ∧ u.seq.excess = 0 ∧ u.seq.latch = false
      ∧ u.seq.sync = .none ∧ u.seq.watchStart = none ∧ u.seq.pendingPlan = none
      ∧ u.seq.current = s.seq.current ∧ u.guard = [] ∧ u.pre.waiting = []
      ∧ (∀ c ∈ u.pre.chain, c.invoker = none)
      ∧ (∀ g : GroupIx, (s.group g).config ≠ none →
          (s.group g).aspect = .red ∨ (s.group g).aspect = .redAmber ∨ (s.group g).aspect = .amber →
          (u.group g).awaited = none ∧ (u.group g).aspect ≠ .redAmber ∧ (u.group g).aspect ≠ .green)
      ∧ (s.preempted = true → u.holds .preemptEnd = true)
      ∧ (∀ p, s.ReturnedByFlash p → u.plan p = (s.plan p).toPhase .ready)
      ∧ (∀ p, ¬s.ReturnedByFlash p → u.plan p = s.plan p)
      ∧ (s.ExpiredAt (fun g => (s.group g).aspect = .green) s.now → u.seq.loseAt = none ∧ ∀ (g : GroupIx) k,
          (s.group g).aspect = .green → (s.group g).config = some k →
          (u.group g).aspect = if k.vehicle.isSome then .amber else .red)
      ∧ (¬s.ExpiredAt (fun g => (s.group g).aspect = .green) s.now →
          (∀ g : GroupIx, (s.group g).aspect = .green → (u.group g).aspect = .green)
          ∧ ∃ a, u.seq.loseAt = some a ∧ s.ExpiredAt (fun g => (s.group g).aspect = .green) a
            ∧ ∀ b, b < a → ¬s.ExpiredAt (fun g => (s.group g).aspect = .green) b) := by
  obtain ⟨t, ht⟩ : ∃ t, t = ((s.removePreemptions.setGuard []).each State.cancel
    (s.removePreemptions.setGuard []).startingGroups).dropPending := ⟨_, rfl⟩
  obtain ⟨guard, waiting, chain, current, pending, junction, now, safe, config, aspect, awaited, starts, held, returned, kept⟩ :=
    quieted_spec ht
  have greens (g : GroupIx) : (s.group g).aspect = .green ↔ g ∈ t.greenGroups := by
    rw [mem_greenGroups, aspect]
    split
    · rename_i h; rw [h.2]; decide
    · rfl
  obtain ⟨a, ha⟩ : ∃ a, a = t.loseInstant t.greenGroups true := ⟨_, rfl⟩
  have expired (b : Instant) : t.ExpiredAt (fun g => (s.group g).aspect = .green) b ↔
      s.ExpiredAt (fun g => (s.group g).aspect = .green) b := by
    unfold State.ExpiredAt State.minGreen
    refine forall₂_congr fun g green => ?_
    rw [starts g green, config]
  obtain ⟨v, hv⟩ : ∃ v, v = (t.setSeq (t.seq.inClearance t.now (if a ≤ t.now then none else some a))).setClearance .awaitingRed :=
    ⟨_, rfl⟩
  obtain ⟨w, hw⟩ : ∃ w, w = if a ≤ t.now then v.each State.lose v.greenGroups else v := ⟨_, rfl⟩
  have run : u = w.clearanceCheck := by
    rw [hu, hw, hv, ha, ht]
    rfl
  have frame := clearanceCheck_frame w
  rw [← run] at frame
  have vgroup (g : GroupIx) : v.group g = t.group g := by rw [hv]; rfl
  have vgreens : v.greenGroups = t.greenGroups := by rw [hv]; rfl
  have vguard : v.guard = [] := by rw [hv]; exact guard
  have wframe : v.Aspects w := by
    rw [hw]
    split
    · exact each_aspects lose_aspects _ _
    · exact Aspects_refl v
  have wguard : w.guard = [] ∧ ∀ h : GroupIx, (v.group h).awaited = none → (w.group h).awaited = none := by
    rw [hw]
    split
    · exact each_lose_unasked _ v vguard
    · exact ⟨vguard, fun _ => id⟩
  have waspect (g : GroupIx) (not : (s.group g).aspect ≠ .green) : (w.group g).aspect = (t.group g).aspect := by
    rw [hw, ← vgroup]
    split
    · rw [each_lose_aspect]
      have out : g ∉ v.greenGroups := by rw [vgreens, ← greens]; exact not
      cases (v.group g).config with
      | none => rfl
      | some k => exact if_neg out
    · rfl
  have ugroup (g : GroupIx) : u.group g = w.group g := by rw [frame]; rfl
  rw [State.Aspects] at wframe
  have vseq : v.seq = t.seq.inClearance t.now (if a ≤ t.now then none else some a) := by rw [hv]; rfl
  have vjunction : v.junction = { t.junction with clearance := some .awaitingRed } := by rw [hv]; rfl
  have vpre : v.pre = t.pre := by rw [hv]; rfl
  have vsafe : v.output.safeEnable = t.output.safeEnable := by rw [hv]; rfl
  have vplans : v.plans = t.plans := by rw [hv]; rfl
  have vlink : v.link = t.link := by rw [hv]; rfl
  have uplan (p : PlanIx) : u.plan p = t.plan p := by
    unfold State.plan
    rw [frame, wframe, vplans]
  have instant := loseInstant_le_iff greens (le_refl t.now)
  rw [expired, now, ← ha] at instant
  refine ⟨by rw [frame, wframe, vjunction, junction], ?_, by rw [frame, wframe]; exact vsafe.trans safe,
    by rw [frame, wframe, vseq]; rfl, by rw [frame, wframe, vseq]; rfl, by rw [frame, wframe, vseq]; rfl,
    by rw [frame, wframe, vseq]; rfl, by rw [frame, wframe, vseq]; rfl, by rw [frame, wframe, vseq]; rfl,
    by rw [frame, wframe, vseq]; exact pending, by rw [frame, wframe, vseq]; exact current, by rw [frame]; exact wguard.1,
    by rw [frame, wframe, vpre]; exact waiting, fun c mem => ?_, fun g present takes => ?_, fun preempted => ?_,
    fun p h => by rw [uplan]; exact returned p h, fun p h => by rw [uplan]; exact kept p h, fun passed => ?_, fun runs => ?_⟩
  · rw [frame]
    dsimp only
    split
    · exact Option.some_ne_none _
    · rw [wframe, vjunction]
      exact Option.some_ne_none _
  · rw [frame, wframe, vpre] at mem
    exact chain c mem
  · have not : (s.group g).aspect ≠ .green := by rcases takes with h | h | h <;> rw [h] <;> decide
    rw [ugroup, waspect g not, aspect]
    refine ⟨wguard.2 g (by rw [vgroup]; exact awaited g ⟨present, takes⟩), ?_⟩
    rcases takes with h | h | h <;> simp [h, present]
  · unfold State.holds
    rw [frame, wframe, vlink]
    exact held preempted
  · have done := instant.2 passed
    rw [now] at hw vseq
    rw [if_pos done] at hw vseq
    refine ⟨by rw [frame, wframe, vseq]; rfl, fun g k green hk => ?_⟩
    rw [ugroup, hw, each_lose_aspect, vgroup, config, hk]
    dsimp only
    have not : ¬((s.group g).config ≠ none ∧ (s.group g).aspect = .redAmber) := by rw [green]; simp
    rw [vgreens, if_pos ((greens g).1 green), aspect, if_neg not, green]
    rfl
  · have not := mt instant.1 runs
    rw [now] at hw vseq
    rw [if_neg not] at hw vseq
    refine ⟨fun g green => ?_, a, by rw [frame, wframe, vseq]; rfl, ?_, fun b before => ?_⟩
    · rw [ugroup, hw, vgroup]
      exact (mem_greenGroups t g).1 ((greens g).1 green)
    · have late : t.now ≤ a := by rw [now]; exact Nat.le_of_not_le not
      have := (loseInstant_le_iff greens late).1 (by rw [ha])
      exact (expired a).1 this
    · have late : ¬t.loseInstant t.greenGroups true ≤ t.now := by rw [← ha, now]; exact not
      rw [ha] at before
      exact mt (expired b).2 (loseInstant_least greens late before)

/-- Settles O27. -/
theorem flashBeginsTheClearance : Obligations.FlashBeginsTheClearance := by
  intro s listens green returned
  have run : exec .flash s = .next (match s.junction.state with
    | .running =>
      if s.junction.clearance = none then s.settle (s.beginClearance.accept .empty) else s.accept .empty
    | .startRed =>
      if s.junction.clearance = none then (s.setClearance (.allRed s.now)).accept .empty else s.accept .empty
    | .flash => s.accept .empty
    | .dark => s.refuse .state
    | .startFlash => s.refuse .state
    | .lockout => s.refuse .state) := exec_of_listens (i := .flash) listens rfl
  refine ⟨fun running none_ => ?_, fun red none_ => ?_, fun quiet => ?_, fun refused => ?_⟩
  · rw [running] at run
    dsimp only at run
    rw [if_pos none_] at run
    obtain ⟨u, hu⟩ : ∃ u, u = s.beginClearance := ⟨_, rfl⟩
    obtain ⟨state, rest⟩ := beginClearance_spec hu
    rw [← hu] at run
    exact ⟨u.accept .empty, _, settle_ends s _, run, rfl, state.trans running, rest⟩
  · rw [red] at run
    dsimp only at run
    rw [if_pos none_] at run
    exact run
  · rcases quiet with flash | ⟨running | red, runs⟩
    · rw [flash] at run; exact run
    · rw [running] at run
      dsimp only at run
      rw [if_neg runs] at run
      exact run
    · rw [red] at run
      dsimp only at run
      rw [if_neg runs] at run
      exact run
  · rcases refused with h | h | h <;> rw [h] at run <;> exact run

end Sys2Proof.Machine
end


section
/-! The writes of a circuit and FORGET_CIRCUIT, with the judgement of the group of a red circuit, and O14 from them (R7,
R8, R143, R145). -/

namespace Sys2Proof.Machine

/-! ## The judgement of a red circuit's group (R145) -/

theorem judgeCircuit_still (s : State) (c : CircuitIx) (x : Option CircuitIx) : (s.judgeCircuit c x).still = s.still := by
  unfold State.judgeCircuit
  split
  · exact judgeReds_still s _ _
  · rfl

theorem judgeCircuit_of_none {s : State} (h : ∀ g : GroupIx, s.redLost g = false) (c : CircuitIx) (x : Option CircuitIx) :
    s.judgeCircuit c x = s := by
  unfold State.judgeCircuit
  split
  · exact judgeReds_of_none x fun g _ => h g
  · rfl

theorem answer_still (v : State) (r : Reply) : (v.answer r).still =
    { v.still with link := { v.still.link with transaction := .replying r } } := rfl

/-- The end of a step behind the judgement of a red circuit's group, which ends the step of the state judged. -/
theorem judgeCircuit_ends (before u : State) (c : CircuitIx) (x : Option CircuitIx) (r : Reply) :
    (u.answer r).Ends (before.settle ((u.judgeCircuit c x).answer r)) := by
  refine ⟨?_, fun none => ?_⟩
  · rw [settle_still, answer_still, answer_still, judgeCircuit_still]
  · rw [judgeCircuit_of_none (s := u) none]
    exact (settle_ends before (u.answer r)).2 none

theorem judgeReds_single {u : State} {g : GroupIx} (lost : u.redLost g = true) (x : Option CircuitIx) :
    u.judgeReds [g] x = u.handCauses [u.redCause g x] := by
  unfold State.judgeReds
  simp [lost, State.pick]

/-- The lockout that the judgement of a red circuit's group hands, through the end of its step (R145, R171). -/
theorem judgeCircuit_lost (before : State) {u : State} {c : CircuitIx} {g : GroupIx}
    (red : u.assignment c = some { group := g, aspect := .red }) (safe : u.output.safeEnable = true)
    (lost : u.redLost g = true) (x : Option CircuitIx) (r : Reply) :
    let t := before.settle ((u.judgeCircuit c x).answer r)
    u.AllOff t ∧ t.holds .lockout = true ∧ t.holds .junctionState = true ∧ t.reply = some r
      ∧ t.junction = { u.junction with
          state := .lockout, entry := u.now, clearance := none, lockout := some (u.lockoutRecord (u.redCause g x)) } := by
  intro t
  have run : u.judgeCircuit c x = u.handCauses [u.redCause g x] := by
    unfold State.judgeCircuit
    rw [red]
    exact judgeReds_single lost x
  have off := handCauses_lockedOut safe (u.redCause g x) []
  have junction := lockout_junction u (u.redCause g x)
  have handed : u.handCauses [u.redCause g x] = ((u.recordLockout (u.redCause g x)).left .lockout).payOwed := by
    rw [handCauses_supplied safe, List.isEmpty_nil, Bool.not_true, withFurther_false]
  rw [← handed] at junction
  rw [← run] at off junction
  have ht : t = before.settle ((u.judgeCircuit c x).answer r) := rfl
  clear_value t
  generalize u.judgeCircuit c x = v at off ht junction
  obtain ⟨-, off, held, heldState, -, -⟩ := off
  have state : v.junction.state = .lockout := by rw [junction]
  have after := settle_afterEnd before (u := v.answer r) (by change v.junction.state ≠ _; rw [state]; decide)
    (by change v.junction.state ≠ _; rw [state]; decide)
  have alloff := settle_keeps_allOff before (s := u) (u := v.answer r) (by change v.junction.state ≠ _; rw [state]; decide)
    (by change v.junction.state ≠ _; rw [state]; decide) off
  rw [← ht] at after alloff
  obtain ⟨-, -, -, -, same, attention, -⟩ := after
  refine ⟨alloff, ?_, ?_, by rw [ht]; exact settle_reply before v r, same.trans junction⟩
  · rw [holds_of_attention attention]; exact held
  · rw [holds_of_attention attention]; exact heldState

/-! ## A circuit written (R7) -/

theorem circuitOf_eq_some {t : Option Technology} {n r : Option Nat} {x : Technology} {y z : Nat} :
    circuitOf t n r = some (x, y, z) ↔ t = some x ∧ n = some y ∧ r = some z ∧ 1 ≤ y ∧ y ≤ 4 ∧ z ≤ 8
      ∧ (x = .incandescent → z = 0) := by
  have technologies (a : Technology) (m : Nat) : (a = .led ∨ m = 0) ↔ (a = .incandescent → m = 0) := by
    cases a <;> simp
  simp only [circuitOf, Option.bind_eq_bind, Option.bind_eq_some_iff, ranged_eq_some, Option.ite_none_right_eq_some,
    Option.pure_def, Option.some.injEq, Prod.mk.injEq, technologies]
  constructor
  · rintro ⟨a, ht, b, ⟨hn, lo, hi⟩, m, ⟨hr, -, bound⟩, fits, rfl, rfl, rfl⟩
    exact ⟨ht, hn, hr, lo, hi, bound, fits⟩
  · rintro ⟨ht, hn, hr, lo, hi, bound, fits⟩
    exact ⟨x, ht, y, ⟨hn, lo, hi⟩, z, ⟨hr, Nat.zero_le z, bound⟩, fits, rfl, rfl, rfl⟩

/-- A circuit record stored, before the group of a red one is judged. -/
def State.circuitStored (s : State) (c : CircuitIx) (x : Technology) (y z : Nat) : State :=
  let u := s.setCircuit c { s.circuit c with
    technology := x, heads := y, residual := z
    lamp := (s.circuit c).lamp.rewritten (decide (x ≠ (s.circuit c).technology)) }
  if x = (s.circuit c).technology then u else u.demotePlans

theorem storeCircuit_same (s : State) (c : CircuitIx) :
    s.storeCircuit c (s.circuit c).technology (s.circuit c).heads (s.circuit c).residual = s := by
  unfold State.storeCircuit
  simp

theorem storeCircuit_changed {s : State} {c : CircuitIx} {x : Technology} {y z : Nat}
    (changed : y ≠ (s.circuit c).heads ∨ z ≠ (s.circuit c).residual ∨ x ≠ (s.circuit c).technology) :
    s.storeCircuit c x y z = if (s.circuit c).lamp.state = .unmeasured then s.circuitStored c x y z
      else (s.circuitStored c x y z).judgeCircuit c (some c) := by
  have not : ¬(x = (s.circuit c).technology ∧ y = (s.circuit c).heads ∧ z = (s.circuit c).residual) := by
    rintro ⟨hx, hy, hz⟩
    rcases changed with h | h | h
    · exact h hy
    · exact h hz
    · exact h hx
  unfold State.storeCircuit State.circuitStored
  dsimp only
  rw [if_neg not]
  by_cases same : x = (s.circuit c).technology
  · simp [same]
  · simp [same]

theorem circuitStored_spec (s : State) (c : CircuitIx) (x : Technology) (y z : Nat) :
    let u := s.circuitStored c x y z
    u.circuit c = { s.circuit c with
      technology := x, heads := y, residual := z,
      lamp := { (s.circuit c).lamp with
        state := .unmeasured, pendingResult := none, agreement := 0, lit := 0, cause := none,
        training := if x = (s.circuit c).technology then (s.circuit c).lamp.training else none } }
    ∧ (∀ d : CircuitIx, d ≠ c → u.circuit d = s.circuit d)
    ∧ (if x = (s.circuit c).technology then u.plans = s.plans ∧ u.seq = s.seq else s.Demotes u)
    ∧ u = { s with circuits := u.circuits, plans := u.plans, seq := u.seq } := by
  intro u
  have circuits : u.circuits = s.circuits.set c { s.circuit c with
      technology := x, heads := y, residual := z
      lamp := (s.circuit c).lamp.rewritten (decide (x ≠ (s.circuit c).technology)) } := by
    change (s.circuitStored c x y z).circuits = _
    unfold State.circuitStored
    dsimp only
    split <;> rfl
  have circuit (d : CircuitIx) : u.circuit d = if d = c then { s.circuit c with
      technology := x, heads := y, residual := z
      lamp := (s.circuit c).lamp.rewritten (decide (x ≠ (s.circuit c).technology)) } else s.circuit d := by
    unfold State.circuit
    rw [circuits, Table.get_set]
    rfl
  have hu : u = s.circuitStored c x y z := rfl
  unfold State.circuitStored at hu
  dsimp only at hu
  refine ⟨?_, fun d ne => by rw [circuit, if_neg ne], ?_, ?_⟩
  · rw [circuit, if_pos rfl]
    by_cases same : x = (s.circuit c).technology
    · simp [LampPart.rewritten, same]
    · simp [LampPart.rewritten, same]
  · by_cases same : x = (s.circuit c).technology
    · rw [if_pos same]
      rw [if_pos same] at hu
      rw [hu]
      exact ⟨rfl, rfl⟩
    · rw [if_neg same]
      rw [if_neg same] at hu
      exact demotes_of (by rw [hu]; rfl) (by rw [hu]; rfl)
  · rw [hu]
    split <;> rfl

/-- Either form of a circuit write places the record that would result. -/
theorem exec_circuitWrite {s : State} {c : CircuitIx} {i : Instr} {tech : Option Technology} {n r : Option Nat}
    (listens : s.Listens) (lock : s.link.lock ≠ .all)
    (form : i = .writeRecordCircuit (number c) (match tech with | some x => .named x | none => .other)
          (n.getD 0) (r.getD 0) ∧ n ≠ none ∧ r ≠ none
      ∨ ∃ ut un ur, i = .updateFieldsCircuit (number c) ut un ur
        ∧ tech = (match ut with
            | .keep => some (s.circuit c).technology
            | .to (.named x) => some x
            | .to .other => none
            | .absent => none)
        ∧ n = un.apply (some (s.circuit c).heads) ∧ r = ur.apply (some (s.circuit c).residual)) :
    exec i s = .next (s.placeCircuit c tech n r) := by
  have open_ : s.locked = false := locked_eq_false lock
  rcases form with ⟨rfl, hn, hr⟩ | ⟨ut, un, ur, rfl, rfl, rfl, rfl⟩
  · obtain ⟨y, rfl⟩ := Option.ne_none_iff_exists'.1 hn
    obtain ⟨z, rfl⟩ := Option.ne_none_iff_exists'.1 hr
    have value : Arg.value (match tech with | some x => .named x | none => .other) = tech := by cases tech <;> rfl
    rw [exec_of_listens (i := .writeRecordCircuit (number c) _ _ _) listens rfl, open_, if_neg Bool.false_ne_true, indexOf_number]
    dsimp only
    rw [value]
    rfl
  · rw [exec_of_listens (i := .updateFieldsCircuit (number c) ut un ur) listens rfl, open_, if_neg Bool.false_ne_true,
      indexOf_number]
    match ut with
    | .keep => rfl
    | .absent => rfl
    | .to (.named _) => rfl
    | .to .other => rfl

theorem placeCircuit_locked {s : State} {c : CircuitIx} {tech : Option Technology} {n r : Option Nat}
    (changes : tech ≠ some (s.circuit c).technology) (lock : s.link.lock = .safety) :
    s.placeCircuit c tech n r = s.refuse .locked := by
  unfold State.placeCircuit State.safetyLocked
  simp [changes, lock]

theorem placeCircuit_state {s : State} {c : CircuitIx} {tech : Option Technology} {n r : Option Nat}
    (changes : tech ≠ some (s.circuit c).technology) (lock : s.link.lock = .openLevel) (safe : s.output.safeEnable = true) :
    s.placeCircuit c tech n r = s.refuse .state := by
  unfold State.placeCircuit State.safetyLocked
  simp [changes, lock, safe]

theorem placeCircuit_checked {s : State} {c : CircuitIx} {tech : Option Technology} {n r : Option Nat}
    (permitted : tech ≠ some (s.circuit c).technology → s.link.lock = .openLevel ∧ s.output.safeEnable = false) :
    s.placeCircuit c tech n r = match circuitOf tech n r with
      | none => s.refuse .range
      | some (t, n, r) => s.settle ((s.storeCircuit c t n r).accept .empty) := by
  unfold State.placeCircuit State.safetyLocked
  by_cases changes : tech = some (s.circuit c).technology
  · simp [changes] <;> rfl
  · obtain ⟨lock, safe⟩ := permitted changes
    simp [changes, lock, safe] <;> rfl

/-! ## FORGET_CIRCUIT (R8) -/

/-- A circuit forgotten, before the group of a red one is judged. -/
def State.circuitForgotten (s : State) (c : CircuitIx) : State :=
  let t := s.setCircuit c { s.circuit c with
    lamp := (s.circuit c).lamp.forgotten, cable := (s.circuit c).cable.forgotten }
  if (s.circuit c).cable.state.isAlarm then t.raise .cableAlarm else t

theorem forget_eq (s : State) (c : CircuitIx) : s.forget c =
    if (s.circuit c).lamp.state = .unmeasured ∧ (s.circuit c).lamp.fullRef = none ∧ (s.circuit c).lamp.dimRef = none then
      s.circuitForgotten c
    else (s.circuitForgotten c).judgeCircuit c none := rfl

theorem circuitForgotten_spec (s : State) (c : CircuitIx) :
    let u := s.circuitForgotten c
    u.circuit c = { s.circuit c with
        lamp := { (s.circuit c).lamp with
          fullRef := none, dimRef := none, state := .unmeasured, pendingResult := none, agreement := 0,
          lit := 0, cause := none, training := none },
        cable := { (s.circuit c).cable with
          baseline := none, state := .noBaseline, count := 0, counted := none, acknowledged := false,
          learning := none } }
      ∧ (∀ d : CircuitIx, d ≠ c → u.circuit d = s.circuit d)
      ∧ (∀ k : Attention, u.holds k = (s.holds k || (k == .cableAlarm && (s.circuit c).cable.state.isAlarm)))
      ∧ u = { s with circuits := u.circuits, link := { s.link with attention := u.link.attention } } := by
  intro u
  have hu : u = s.circuitForgotten c := rfl
  unfold State.circuitForgotten at hu
  dsimp only at hu
  obtain ⟨t, ht⟩ : ∃ t, t = s.setCircuit c { s.circuit c with
    lamp := (s.circuit c).lamp.forgotten, cable := (s.circuit c).cable.forgotten } := ⟨_, rfl⟩
  rw [← ht] at hu
  have circuits : u.circuits = t.circuits := by
    rw [hu]
    split <;> rfl
  have circuit (d : CircuitIx) : u.circuit d = if d = c then { s.circuit c with
      lamp := (s.circuit c).lamp.forgotten, cable := (s.circuit c).cable.forgotten } else s.circuit d := by
    unfold State.circuit
    rw [circuits, ht]
    exact Table.get_set ..
  refine ⟨by rw [circuit, if_pos rfl]; rfl, fun d ne => by rw [circuit, if_neg ne], fun k => ?_, ?_⟩
  · rw [hu]
    cases (s.circuit c).cable.state.isAlarm with
    | false => rw [if_neg Bool.false_ne_true, Bool.and_false, Bool.or_false, ht]; rfl
    | true => rw [if_pos rfl, raise_holds, Bool.and_true, ht]; rfl
  · rw [hu, ht]
    split <;> rfl

theorem exec_forget {s : State} (listens : s.Listens) (lock : s.link.lock ≠ .all) (c : CircuitIx) :
    exec (.forgetCircuit (number c)) s = .next (s.settle ((s.forget c).accept .empty)) := by
  rw [exec_of_listens (i := .forgetCircuit (number c)) listens rfl, locked_eq_false lock, if_neg Bool.false_ne_true,
    indexOf_number]

/-- Settles O14. -/
theorem circuitWritesStore : Obligations.CircuitWritesStore := by
  refine ⟨fun s c i tech n r listens lock form => ?_, fun s n listens lock outside => ?_, fun s c listens lock => ?_⟩
  · have run := exec_circuitWrite listens lock form
    refine ⟨fun changes safety => by rw [run, placeCircuit_locked changes safety],
      fun changes open_ safe => by rw [run, placeCircuit_state changes open_ safe], fun permitted => ?_⟩
    rw [placeCircuit_checked permitted] at run
    refine ⟨fun none_ => ?_, fun x y z fits => ?_⟩
    · have out : circuitOf tech n r = none := by
        rw [Option.eq_none_iff_forall_ne_some]
        rintro ⟨x, y, z⟩ h
        exact none_ x y z (circuitOf_eq_some.1 h)
      rw [run, out]
    · rw [circuitOf_eq_some.2 fits] at run
      dsimp only at run
      by_cases changed : y ≠ (s.circuit c).heads ∨ z ≠ (s.circuit c).residual ∨ x ≠ (s.circuit c).technology
      · obtain ⟨own, others, plans, frame⟩ := circuitStored_spec s c x y z
        rw [storeCircuit_changed changed] at run
        obtain ⟨u, hu⟩ : ∃ u, u = s.circuitStored c x y z := ⟨_, rfl⟩
        rw [← hu] at own others plans frame run
        have ends : ∃ t, (u.accept .empty).Ends t ∧ exec i s = .next t := by
          split at run
          · exact ⟨_, settle_ends s _, run⟩
          · exact ⟨_, judgeCircuit_ends s u c (some c) _, run⟩
        obtain ⟨t, ends, run⟩ := ends
        refine ⟨u.accept .empty, t, ends, run, fun hy hz hx => ?_, fun _ => ⟨own, others, plans, ?_, ?_⟩⟩
        · rcases changed with h | h | h
          · exact absurd hy h
          · exact absurd hz h
          · exact absurd hx h
        · rw [frame]; rfl
        · generalize u.circuits = cs at frame
          generalize u.plans = ps at frame
          generalize u.seq = q at frame
          rw [frame]
          rfl
      · rw [not_or, not_or, not_not, not_not, not_not] at changed
        obtain ⟨rfl, rfl, rfl⟩ := changed
        rw [storeCircuit_same] at run
        refine ⟨s.accept .empty, _, settle_ends s _, run, fun _ _ _ => rfl, fun h => ?_⟩
        rcases h with h | h | h <;> exact absurd rfl h
  · have out := indexOf_outside outside
    have open_ : s.locked = false := locked_eq_false lock
    refine ⟨fun a x y => ?_, fun a x y => ?_, ?_⟩
    · rw [exec_of_listens (i := .writeRecordCircuit n a x y) listens rfl, open_, if_neg Bool.false_ne_true, out]
    · rw [exec_of_listens (i := .updateFieldsCircuit n a x y) listens rfl, open_, if_neg Bool.false_ne_true, out]
    · rw [exec_of_listens (i := .forgetCircuit n) listens rfl, open_, if_neg Bool.false_ne_true, out]
  · have run := exec_forget listens lock c
    rw [forget_eq] at run
    obtain ⟨own, others, holds, frame⟩ := circuitForgotten_spec s c
    obtain ⟨u, hu⟩ : ∃ u, u = s.circuitForgotten c := ⟨_, rfl⟩
    rw [← hu] at own others holds frame run
    have ends : ∃ t, (u.accept .empty).Ends t ∧ exec (.forgetCircuit (number c)) s = .next t
        ∧ (¬((s.circuit c).lamp.state = .unmeasured ∧ (s.circuit c).lamp.fullRef = none ∧ (s.circuit c).lamp.dimRef = none) →
          t = s.settle ((u.judgeCircuit c none).accept .empty)) := by
      split at run
      · rename_i blank
        exact ⟨_, settle_ends s _, run, fun h => absurd blank h⟩
      · exact ⟨_, judgeCircuit_ends s u c none _, run, fun _ => rfl⟩
    obtain ⟨t, ends, run, judged⟩ := ends
    refine ⟨u.accept .empty, t, ends, run, own, others, holds, rfl, ?_, fun g k red hk learnt safe lost => ?_⟩
    · generalize u.circuits = cs at frame
      generalize u.link.attention = a at frame
      rw [frame]
      rfl
    · have red' : u.assignment c = some { group := g, aspect := .red } := by rw [frame]; exact red
      have safe' : u.output.safeEnable = true := by rw [frame]; exact safe
      have hk' : (u.group g).config = some k := by rw [frame]; exact hk
      have spec := judgeCircuit_lost s red' safe' lost none okReply
      have ht := judged (by
        rintro ⟨h1, h2, h3⟩
        rcases learnt with h | h | h
        · exact h h1
        · exact h h2
        · exact h h3)
      change t = s.settle ((u.judgeCircuit c none).answer okReply) at ht
      dsimp only at spec
      rw [← ht] at spec
      obtain ⟨off, held, heldState, reply, junction⟩ := spec
      refine ⟨off, held, heldState, reply, ?_⟩
      have reds : u.referencedReds g = (List.finRange 48).filter fun d => k.reds.contains d && u.referenced d := by
        unfold State.referencedReds
        rw [hk']
      have stands : u.junction = s.junction := by rw [frame]
      have sched : u.sched = s.sched := by rw [frame]
      have now : u.now = s.now := by rw [frame]
      rw [junction, State.lockoutRecord, stands, sched, now]
      have circuit : (u.redCause g none).circuit = (u.referencedReds g).head? := rfl
      rw [circuit, reds]
      rfl

end Sys2Proof.Machine
end


section
/-! The end of a calibration (R126 to R128), and O48 from it; a lockout through the end of its step. -/

namespace Sys2Proof.Machine

/-! ## A lockout through the end of its step (R145, R171) -/

theorem handCauses_junction {s : State} (safe : s.output.safeEnable = true) (x : Cause) (l : List Cause) :
    (s.handCauses (x :: l)).junction = { s.junction with
      state := .lockout, entry := s.now, clearance := none
      lockout := some { s.lockoutRecord x with further := !l.isEmpty } } := by
  rw [handCauses_supplied safe, State.withFurther, State.setJunction_junction, lockout_junction]
  rfl

theorem handCauses_single {s : State} (safe : s.output.safeEnable = true) (x : Cause) :
    (s.handCause x).junction = { s.junction with
      state := .lockout, entry := s.now, clearance := none, lockout := some (s.lockoutRecord x) } :=
  handCauses_junction safe x []

/-- The end of the step behind a lockout keeps it, and arbitrates. -/
theorem State.LockedOut.settled {s v : State} {x : Cause} (h : s.LockedOut v x) (before : State) :
    before.settle v = v.renewOffer.arbitrate ∧ s.AllOff (before.settle v) ∧ v.AfterEnd (before.settle v) := by
  obtain ⟨-, off, -, -, -, r, -, junction⟩ := h
  have state : v.junction.state = .lockout := by rw [junction]
  have red : v.junction.state ≠ .startRed := by rw [state]; decide
  have running : v.junction.state ≠ .running := by rw [state]; decide
  exact ⟨settle_of_none before (redLost_outside red running), settle_keeps_allOff before red running off,
    settle_afterEnd before red running⟩

/-! ## The end of a calibration (R126 to R128) -/

theorem calAccepted_iff (zero span : List Int) : calAccepted zero span = true ↔
    -64 ≤ meanOf zero ∧ meanOf zero ≤ 64 ∧ ∃ g, gainOf zero span = some g ∧ 922 ≤ g ∧ g ≤ 1126 := by
  unfold calAccepted
  cases gainOf zero span <;> simp [and_assoc]

/-- Outside READY the end of a step leaves the channel as it is. -/
theorem renewOffer_arbitrate_channel {u : State} (h : u.channel.state ≠ .ready) :
    u.renewOffer.arbitrate = u.renewOffer := by
  unfold State.arbitrate
  exact if_neg h

theorem failCalibration_spec (s : State) (r : CalRecord) (idle : s.channel.inFlight = none) :
    (s.failCalibration r).channel = s.channel.failed r ∧ (s.failCalibration r).holds .calFail = true
    ∧ (s.output.safeEnable = true → s.AllOff (s.settle (s.failCalibration r))
        ∧ (s.failCalibration r).junction = { s.junction with
            state := .lockout, entry := s.now, clearance := none, lockout := some (s.lockoutRecord channelCause) }
        ∧ s.settle (s.failCalibration r) = (s.failCalibration r).renewOffer.arbitrate)
    ∧ (s.output.safeEnable = false → (s.failCalibration r).junction = s.junction
        ∧ s.settle (s.failCalibration r) = (s.failCalibration r).renewOffer.arbitrate) := by
  obtain ⟨t, ht⟩ : ∃ t, t = (s.setChannel (s.channel.failed r)).raise .calFail := ⟨_, rfl⟩
  have held : t.holds .calFail = true := by rw [ht, raise_holds]; simp
  have run : s.failCalibration r = if t.output.safeEnable then t.handCause channelCause else t := by rw [ht]; rfl
  have output : t.output = s.output := by rw [ht]; rfl
  have channel : t.channel = s.channel.failed r := by rw [ht]; rfl
  rw [output] at run
  cases safe : s.output.safeEnable with
  | true =>
    rw [safe, if_pos rfl] at run
    have safe' : t.output.safeEnable = true := by rw [output]; exact safe
    have off : t.LockedOut (t.handCause channelCause) channelCause := handCauses_lockedOut safe' channelCause []
    have junction := handCauses_single safe' channelCause
    obtain ⟨ends, allOff, -⟩ := off.settled s
    obtain ⟨⟨-, -, -, stands⟩, -, -, -, keeps, -⟩ := off
    rw [run]
    refine ⟨(stands (by rw [channel]; exact idle)).trans channel, keeps _ held (by decide),
      fun _ => ⟨?_, ?_, ends⟩, fun h => absurd h (by decide)⟩
    · rw [ht] at allOff ⊢
      exact allOff
    · rw [junction, ht]
      rfl
  | false =>
    rw [safe, if_neg Bool.false_ne_true] at run
    rw [run]
    have junction : t.junction = s.junction := by rw [ht]; rfl
    exact ⟨channel, held, fun h => absurd h (by decide), fun _ => ⟨junction,
      settle_of_unmoved (by rw [ht]; rfl) (by rw [output]) (by rw [junction])⟩⟩

/-- What an attempt's end makes of the channel, by its kind and its number (R127, R128). -/
def State.endAttempt (s : State) (a : Calibration) (r : CalRecord) : State :=
  if r.pass then s.setChannel (s.channel.calibrated r)
  else if a.kind = .short ∧ a.attempt = 1 then s.setChannel (s.channel.secondAttempt r)
  else s.failCalibration r

theorem exec_calibrationEnd {s : State} {a : Calibration} (held : s.resetHeld = false)
    (h : s.channel.calibration = some a) (zero span : List Int)
    (ends : match a.kind with | .long => a.start + 2000 ≤ s.now | .short => a.start + 100 ≤ s.now) :
    exec (match a.kind with
      | .long => .longCalibrationEnd zero span
      | .short => .shortCalibrationAttemptEnd zero span) s =
        .next (s.settle (s.endAttempt a (calRecord a.kind zero span s.now))) := by
  obtain ⟨kind, start, attempt⟩ := a
  cases kind with
  | long =>
    have due : s.attemptEnding .long 2000 = some ⟨.long, start, attempt⟩ := by
      rw [State.attemptEnding, h, Option.filter_some_pos]
      simpa using ends
    rw [exec_of_live (i := .longCalibrationEnd zero span) held rfl, due]
    dsimp only
    unfold State.endLong State.endAttempt
    simp
  | short =>
    have due : s.attemptEnding .short 100 = some ⟨.short, start, attempt⟩ := by
      rw [State.attemptEnding, h, Option.filter_some_pos]
      simpa using ends
    rw [exec_of_live (i := .shortCalibrationAttemptEnd zero span) held rfl, due]
    dsimp only
    unfold State.endShort State.endAttempt
    simp

/-- Settles O48. -/
theorem calibrationsEnd : Obligations.CalibrationsEnd := by
  intro s zero span a held law calibrating n offset h gain passes ends command record due
  have run : exec command s = .next (s.settle (s.endAttempt a (calRecord a.kind zero span s.now))) :=
    exec_calibrationEnd held calibrating zero span due
  have idle : s.channel.inFlight = none ∧ s.channel.state ≠ .ready := by
    unfold State.ChannelLaw at law
    split at law
    · rename_i state; exact ⟨law.1, by rw [state]; decide⟩
    · rw [law.2] at calibrating; cases calibrating
    · rw [law.2] at calibrating; cases calibrating
    · rename_i state; exact ⟨law.1, by rw [state]; decide⟩
    · rw [law.2] at calibrating; cases calibrating
  have recorded (ok : Bool) (hok : calAccepted zero span = ok) : calRecord a.kind zero span s.now = record ok := by
    rw [calRecord, hok]
    rfl
  have accepted : calAccepted zero span = true ↔ passes := calAccepted_iff zero span
  clear_value command
  refine ⟨fun g pass hg => ?_, fun fails second => ?_, fun fails last => ?_⟩
  · rw [run, recorded true (accepted.2 pass)]
    have made : s.endAttempt a (record true) = s.setChannel (s.channel.calibrated (record true)) := if_pos rfl
    rw [made, settle_of_unmoved (by rfl) (by rfl) (by rfl)]
    have taken : s.channel.calibrated (record true) = { s.channel with
      state := .ready, offset := offset, gain := g, shortDue := some (s.now + 60000),
      shortPresented := false, failFlag := false, calibration := none, lastRecord := some (record true) } := by
      unfold Channel.calibrated
      have : (record true).gain = some g := hg
      rw [this]
      rfl
    rw [taken]
  all_goals
    have out : calAccepted zero span = false := by
      rw [← Bool.not_eq_true]
      exact fun h => fails (accepted.1 h)
    rw [recorded false out] at run
  · intro next
    have made : s.endAttempt a (record false) = s.setChannel next := by
      unfold State.endAttempt
      rw [if_neg (by exact Bool.false_ne_true), if_pos second]
      rfl
    rw [made, settle_of_unmoved (by rfl) (by rfl) (by rfl)] at run
    refine ⟨_, run, rfl, ?_⟩
    rw [renewOffer_arbitrate_channel (by exact idle.2)]
    rfl
  · have made : s.endAttempt a (record false) = s.failCalibration (record false) := by
      unfold State.endAttempt
      rw [if_neg (by exact Bool.false_ne_true), if_neg last]
    rw [made] at run
    obtain ⟨channel, failed, supplied, unsupplied⟩ := failCalibration_spec s (record false) idle.1
    obtain ⟨u, hu⟩ : ∃ u, u = s.failCalibration (record false) := ⟨_, rfl⟩
    rw [← hu] at run channel failed supplied unsupplied
    have fault : u.channel.state = .fault := by rw [channel]; rfl
    have ended : s.settle u = u.renewOffer := by
      have arbitrated : s.settle u = u.renewOffer.arbitrate := by
        cases safe : s.output.safeEnable with
        | true => exact (supplied safe).2.2
        | false => exact (unsupplied safe).2
      rw [arbitrated, renewOffer_arbitrate_channel (by rw [fault]; decide)]
    rw [ended] at run supplied
    have stands : u.renewOffer.channel = s.channel.failed (record false) := channel
    refine ⟨u.renewOffer, run, ?_⟩
    rw [stands]
    exact ⟨rfl, rfl, rfl, rfl, rfl, rfl, failed, fun safe => ⟨(supplied safe).1, (supplied safe).2.1⟩,
      fun safe => (unsupplied safe).1⟩

end Sys2Proof.Machine
end


section
/-! The end of a dark window (R120, R152, R154), the learning of a cable (R163), and O46 from them. -/

namespace Sys2Proof.Machine

/-! ## What a lockout leaves of the attention set -/

theorem selectPlan_holds {s : State} {p : PlanIx} {k : Attention} (ne : k ≠ .planChanged) :
    (s.selectPlan p).holds k = s.holds k := by
  unfold State.selectPlan State.selectRunning State.makeCurrent State.makeSelected
  split
  · split
    · dsimp only
      split <;> rfl
    · rw [(dropPending_spec s).1]; rfl
    · rfl
  · dsimp only
    split
    · rfl
    · rw [raise_holds, beq_eq_false_iff_ne.2 ne, Bool.or_false]
      rfl

theorem payOwed_holds {s : State} {k : Attention} (changed : k ≠ .planChanged) (invalid : k ≠ .schedulePlanInvalid) :
    s.payOwed.holds k = s.holds k := by
  unfold State.payOwed
  split
  · split
    · unfold State.scheduleSelect
      split
      · rfl
      · rfl
      · exact selectPlan_holds changed
      · change (s.raise .schedulePlanInvalid).holds k = _
        rw [raise_holds, beq_eq_false_iff_ne.2 invalid, Bool.or_false]
    · rfl
  · rfl

theorem handCauses_holds {s : State} (safe : s.output.safeEnable = true) (x : Cause) (l : List Cause) {k : Attention}
    (ended : k ≠ .preemptEnd) (changed : k ≠ .planChanged) (invalid : k ≠ .schedulePlanInvalid) :
    (s.handCauses (x :: l)).holds k = (s.holds k || k == .lockout || k == .junctionState) := by
  rw [handCauses_supplied safe]
  change ((s.recordLockout x).left .lockout).payOwed.holds k = _
  rw [payOwed_holds changed invalid, left_holds _ _ ended, recordLockout_holds]

theorem still_circuit {t u : State} (h : t.still = u.still) (c : CircuitIx) : (t.circuit c).still = (u.circuit c).still := by
  have : t.still.circuit c = u.still.circuit c := by rw [h]
  simpa [State.still, State.circuit] using this

/-! ## The judgement of a cable and its learning (R158 to R163) -/

theorem clearing_state (k : CablePart) (full : Bool) (x : DarkValues) : (k.clearing full x).state = k.state
    ∧ (k.clearing full x).learning = k.learning := by
  unfold CablePart.clearing
  split
  · exact ⟨rfl, rfl⟩
  · split <;> exact ⟨rfl, rfl⟩

theorem counting_calm (k : CablePart) (redOrAmber full : Bool) (x : DarkValues) :
    (k.counting redOrAmber full x).1.learning = k.learning
      ∧ ((k.counting redOrAmber full x).2 = false → (k.counting redOrAmber full x).1.state = k.state) := by
  unfold CablePart.counting
  split
  · rename_i y _
    dsimp only
    generalize (if k.counted = some y then k.count + 1 else 1) = n
    split
    · exact ⟨rfl, fun h => absurd h (by simp)⟩
    · exact ⟨rfl, fun _ => rfl⟩
  · split <;> exact ⟨rfl, fun _ => rfl⟩

theorem suspecting_calm (k : CablePart) (full : Bool) (x : DarkValues) : (k.suspecting full x).learning = k.learning
    ∧ (k.state.isAlarm = false → (k.suspecting full x).state.isAlarm = false) := by
  unfold CablePart.suspecting
  split
  · split
    · exact ⟨rfl, fun _ => rfl⟩
    · exact ⟨rfl, id⟩
  · split
    · exact ⟨rfl, fun _ => rfl⟩
    · exact ⟨rfl, id⟩
  · exact ⟨rfl, id⟩

theorem judged_learning (k : CablePart) (redOrAmber full : Bool) (x : DarkValues) :
    (k.judged redOrAmber full x).1.learning = k.learning := by
  unfold CablePart.judged
  split
  · dsimp only
    split
    · exact (clearing_state k full x).2
    · exact (clearing_state k full x).2
  · dsimp only
    split
    · exact (counting_calm k redOrAmber full x).1
    · exact (suspecting_calm _ full x).1.trans (counting_calm k redOrAmber full x).1

/-- Two states of a record that are the same ALARM, or neither an ALARM. -/
def CableState.SameAlarm (x y : CableState) : Prop := x = y ∨ (x.isAlarm = false ∧ y.isAlarm = false)

theorem CableState.SameAlarm.iff {x y : CableState} (h : x.SameAlarm y) (k : AlarmKind) :
    x = .alarm k ↔ y = .alarm k := by
  rcases h with rfl | ⟨hx, hy⟩
  · rfl
  · constructor
    · rintro rfl; cases hx
    · rintro rfl; cases hy

theorem CableState.SameAlarm.trans {x y z : CableState} (h : x.SameAlarm y) (h' : y.SameAlarm z) : x.SameAlarm z := by
  rcases h with rfl | ⟨hx, hy⟩
  · exact h'
  · rcases h' with rfl | ⟨-, hz⟩
    · exact .inr ⟨hx, hy⟩
    · exact .inr ⟨hx, hz⟩

/-- A judgement that neither enters nor leaves ALARM keeps the alarm of the record. -/
theorem judged_unchanged {k : CablePart} {redOrAmber full : Bool} {x : DarkValues}
    (h : (k.judged redOrAmber full x).2 = .unchanged) :
    (k.judged redOrAmber full x).1.state.SameAlarm k.state := by
  unfold CablePart.judged at h ⊢
  split at h
  · rename_i alarm
    rw [if_pos alarm]
    dsimp only at h ⊢
    split at h
    · cases h
    · rename_i stays
      rw [if_neg stays]
      exact .inl (clearing_state k full x).1
  · rename_i calm
    rw [if_neg calm]
    dsimp only at h ⊢
    split at h
    · cases h
    · rename_i stays
      rw [if_neg stays]
      have same := (counting_calm k redOrAmber full x).2 (by simpa using stays)
      refine .inr ⟨(suspecting_calm _ full x).2 (by rw [same]; simpa using calm), by simpa using calm⟩

theorem sampled_sameAlarm (k : CablePart) (change : AlarmChange) (x : DarkValues) :
    (k.sampled change x).1.state.SameAlarm k.state := by
  unfold CablePart.sampled
  split
  · exact .inl rfl
  · split
    · exact .inl rfl
    · dsimp only
      split
      · exact .inl rfl
      · cases h : k.state.isAlarm with
        | true => exact .inl (by simp [CablePart.learnt, h])
        | false => exact .inr ⟨by simp [CablePart.learnt, h]; rfl, h⟩

/-- The record after the judgement of a measurement and its sample, and whether it has learnt. -/
def CablePart.judgedSampled (k : CablePart) (redOrAmber full : Bool) (x : DarkValues) : CablePart × Bool :=
  let r := k.judged redOrAmber full x
  if full then r.1.sampled r.2 x else (r.1, false)

theorem judgedSampled_sameAlarm {k : CablePart} {redOrAmber full : Bool} {x : DarkValues}
    (h : (k.judged redOrAmber full x).2 = .unchanged) :
    (k.judgedSampled redOrAmber full x).1.state.SameAlarm k.state := by
  unfold CablePart.judgedSampled
  dsimp only
  split
  · exact (sampled_sameAlarm _ _ x).trans (judged_unchanged h)
  · exact judged_unchanged h

/-- What a measurement makes of the record (R163). -/
theorem judgedSampled_spec (k : CablePart) (redOrAmber full : Bool) (x : DarkValues) :
    let judged := k.judged redOrAmber full x
    let m := (k.judgedSampled redOrAmber full x).1
    (full = false ∨ k.learning = none → m = judged.1)
    ∧ (∀ r, full = true → k.learning = some r →
      (judged.2 = .entered → m = { judged.1 with learning := none })
      ∧ (judged.2 ≠ .entered → r.samples + 1 < 4 → m = { judged.1 with learning := some {
          samples := r.samples + 1, leakageSum := r.leakageSum + x.leakage,
          chargeSum := r.chargeSum + x.charge } })
      ∧ (judged.2 ≠ .entered → 4 ≤ r.samples + 1 → m = { judged.1 with
          baseline := some {
            leakage := (r.leakageSum + x.leakage + 2) / 4, charge := (r.chargeSum + x.charge + 2) / 4 }
          learning := none, count := 0, counted := none
          state := if judged.1.state.isAlarm then judged.1.state else .normal }))
    ∧ (k.judgedSampled redOrAmber full x).2 = (full && judged.2 != .entered
          && k.learning.any fun r => decide (4 ≤ r.samples + 1)) := by
  intro judged m
  have learning : judged.1.learning = k.learning := judged_learning k redOrAmber full x
  have run : k.judgedSampled redOrAmber full x = if full then judged.1.sampled judged.2 x else (judged.1, false) := rfl
  have hm : m = (k.judgedSampled redOrAmber full x).1 := rfl
  rw [run] at hm ⊢
  clear_value judged m
  subst hm
  cases full with
  | false => exact ⟨fun _ => rfl, fun _ h => absurd h (by decide), rfl⟩
  | true =>
    rw [if_pos rfl]
    unfold CablePart.sampled
    rw [learning]
    cases h : k.learning with
    | none => exact ⟨fun _ => rfl, fun r _ h' => absurd h' (by simp), by simp⟩
    | some r =>
      refine ⟨fun h' => absurd h' (by simp), fun r' _ h' => ?_, ?_⟩
      · cases h'
        refine ⟨fun entered => ?_, fun not few => ?_, fun not four => ?_⟩
        · dsimp only; rw [if_pos entered]
        · dsimp only; rw [if_neg not, if_pos few]
        · dsimp only; rw [if_neg not, if_neg (not_lt.2 four)]; rfl
      · dsimp only
        by_cases entered : judged.2 = .entered
        · rw [if_pos entered]
          simp [entered]
        · rw [if_neg entered]
          by_cases few : r.samples + 1 < 4
          · rw [if_pos few]
            simp
            omega
          · rw [if_neg few]
            simp [entered]
            omega

theorem judgeCable_spec (w : State) (c : CircuitIx) (redOrAmber full : Bool) (x : DarkValues) :
    let old := (w.circuit c).cable
    let u := w.judgeCable c redOrAmber full x
    u.circuit c = { w.circuit c with cable := (old.judgedSampled redOrAmber full x).1 }
    ∧ (∀ d : CircuitIx, d ≠ c → u.circuit d = w.circuit d)
    ∧ u.holds .cableAlarm = (w.holds .cableAlarm || (old.judged redOrAmber full x).2 != .unchanged)
    ∧ u.holds .cableLearned = (w.holds .cableLearned || (old.judgedSampled redOrAmber full x).2)
    ∧ u = { w with circuits := u.circuits, link := { w.link with attention := u.link.attention } } := by
  intro old u
  obtain ⟨t, ht⟩ : ∃ t, t = w.setCable c (old.judgedSampled redOrAmber full x).1 := ⟨_, rfl⟩
  obtain ⟨v, hv⟩ : ∃ v, v = if (old.judged redOrAmber full x).2 = .unchanged then t else t.raise .cableAlarm := ⟨_, rfl⟩
  have hu : u = if (old.judgedSampled redOrAmber full x).2 then v.raise .cableLearned else v := by
    rw [hv, ht]
    rfl
  have circuits : u.circuits = t.circuits := by
    rw [hu, hv]
    split <;> split <;> rfl
  have circuit (d : CircuitIx) : u.circuit d = t.circuit d := by unfold State.circuit; rw [circuits]
  have holdsT (k : Attention) : t.holds k = w.holds k := by rw [ht]; rfl
  have holdsV (k : Attention) : v.holds k = (w.holds k || (k == .cableAlarm && (old.judged redOrAmber full x).2 != .unchanged)) := by
    rw [hv]
    by_cases same : (old.judged redOrAmber full x).2 = .unchanged
    · rw [if_pos same, holdsT]; simp [same]
    · rw [if_neg same, raise_holds, holdsT, bne_iff_ne.2 same, Bool.and_true]
  have holds (k : Attention) : u.holds k = (w.holds k || (k == .cableAlarm && (old.judged redOrAmber full x).2 != .unchanged)
      || (k == .cableLearned && (old.judgedSampled redOrAmber full x).2)) := by
    rw [hu]
    cases learnt : (old.judgedSampled redOrAmber full x).2 with
    | false => rw [if_neg Bool.false_ne_true, holdsV]; simp
    | true => rw [if_pos rfl, raise_holds, holdsV]; simp
  refine ⟨?_, fun d ne => ?_, ?_, ?_, ?_⟩
  · rw [circuit, ht, State.setCable_circuit, if_pos rfl]
  · rw [circuit, ht, State.setCable_circuit, if_neg ne]
  · rw [holds]; simp
  · rw [holds, show (Attention.cableLearned == .cableAlarm) = false from rfl]; simp
  · rw [hu, hv, ht]
    split <;> split <;> rfl

/-! ## The end of a dark window (R120, R152, R154) -/

/-- The circuit is a green one on which the measurement finds voltage (R154). -/
def State.foreignGreen (s : State) (c : CircuitIx) (x : DarkValues) (g : GroupIx) : Prop :=
  s.assignment c = some { group := g, aspect := .green } ∧ 50 ≤ x.voltage

theorem judgeDark_foreign {s : State} {c : CircuitIx} {x : DarkValues} {g : GroupIx} (h : s.foreignGreen c x g)
    (full : Bool) : s.judgeDark c full x =
      (s.judgeCable c ((s.assignment c).any fun a => a.aspect != .green) full x).foreignAlarm c := by
  obtain ⟨assigned, voltage⟩ := h
  unfold State.judgeDark
  rw [assigned]
  simp [voltage]

theorem judgeDark_calm {s : State} {c : CircuitIx} {x : DarkValues} (h : ∀ g, ¬s.foreignGreen c x g)
    (full : Bool) : s.judgeDark c full x =
      s.judgeCable c ((s.assignment c).any fun a => a.aspect != .green) full x := by
  unfold State.judgeDark
  cases assigned : s.assignment c with
  | none => rfl
  | some a =>
    obtain ⟨g, aspect⟩ := a
    cases aspect with
    | green =>
      have low : ¬50 ≤ x.voltage := fun high => h g ⟨assigned, high⟩
      simp [low]
    | red => rfl
    | amber => rfl

theorem foreignCauses_foreign {s : State} {c : CircuitIx} {x : DarkValues} {g : GroupIx} (h : s.foreignGreen c x g) :
    s.foreignCauses c x = [{ cause := .foreignGreen, group := some g, circuit := some c }] := by
  obtain ⟨assigned, voltage⟩ := h
  unfold State.foreignCauses
  rw [assigned]
  simp [voltage]

theorem foreignCauses_calm {s : State} {c : CircuitIx} {x : DarkValues} (h : ∀ g, ¬s.foreignGreen c x g) :
    s.foreignCauses c x = [] := by
  unfold State.foreignCauses
  cases assigned : s.assignment c with
  | none => rfl
  | some a =>
    obtain ⟨g, aspect⟩ := a
    cases aspect with
    | green =>
      have low : ¬50 ≤ x.voltage := fun high => h g ⟨assigned, high⟩
      simp [low]
    | red => rfl
    | amber => rfl

theorem foreignAlarm_spec (u : State) (c : CircuitIx) :
    let v := u.foreignAlarm c
    v.circuit c = { u.circuit c with cable := (u.circuit c).cable.intoAlarm .foreignVoltage }
    ∧ (∀ d : CircuitIx, d ≠ c → v.circuit d = u.circuit d)
    ∧ (∀ k, v.holds k = (u.holds k || (k == .cableAlarm && (u.circuit c).cable.state != .alarm .foreignVoltage)))
    ∧ v = { u with circuits := v.circuits, link := { u.link with attention := v.link.attention } } := by
  intro v
  obtain ⟨t, ht⟩ : ∃ t, t = u.setCable c ((u.circuit c).cable.intoAlarm .foreignVoltage) := ⟨_, rfl⟩
  have hv : v = if (u.circuit c).cable.state = .alarm .foreignVoltage then t else t.raise .cableAlarm := by
    rw [ht]; rfl
  have circuit (d : CircuitIx) : v.circuit d = t.circuit d := by
    rw [hv]
    split <;> rfl
  refine ⟨?_, fun d ne => ?_, fun k => ?_, ?_⟩
  · rw [circuit, ht, State.setCable_circuit, if_pos rfl]
  · rw [circuit, ht, State.setCable_circuit, if_neg ne]
  · have holds : t.holds k = u.holds k := by rw [ht]; rfl
    rw [hv]
    by_cases same : (u.circuit c).cable.state = .alarm .foreignVoltage
    · rw [if_pos same, holds]; simp [same]
    · rw [if_neg same, raise_holds, holds, bne_iff_ne.2 same, Bool.and_true]
  · rw [hv, ht]
    split <;> rfl

/-- The record with the values of a measurement whose voltage is valid (R152). -/
def CablePart.taken (k : CablePart) (dark : Nat) (now : Instant) (x : DarkValues) : CablePart :=
  { k with
    lastVoltage := x.voltage, lastCheck := now
    lastLeakage := if 1000 ≤ dark then x.leakage else k.lastLeakage
    lastCharge := if 1000 ≤ dark then x.charge else k.lastCharge }

theorem withValues_invalid (k : CablePart) (now : Instant) (x : DarkValues) : k.withValues false false now x = k := rfl

theorem withValues_valid (k : CablePart) (dark : Nat) (now : Instant) (x : DarkValues) :
    k.withValues true (decide (1000 ≤ dark)) now x = k.taken dark now x := by
  unfold CablePart.withValues CablePart.taken
  simp

/-- The state with a dark window's values judged, before the alarm of a foreign green. -/
def State.darkJudged (s : State) (c : CircuitIx) (dark : Nat) (x : DarkValues) : State :=
  ((s.setChannel s.freedChannel).setCable c ((s.circuit c).cable.taken dark s.now x)).judgeCable c
    ((s.assignment c).any fun a => a.aspect != .green) (decide (1000 ≤ dark)) x

theorem recordDark_invalid {s : State} {dark : Nat} (h : dark < 200) (c : CircuitIx) (x : DarkValues) :
    s.recordDark c dark x = s.setChannel s.freedChannel := by
  unfold State.recordDark
  have invalid : decide (200 ≤ dark) = false := decide_eq_false (by omega)
  have partly : decide (1000 ≤ dark) = false := decide_eq_false (by omega)
  dsimp only
  rw [invalid, partly, if_neg Bool.false_ne_true, withValues_invalid]
  unfold State.setCable State.setCircuit
  rw [show ({ (s.setChannel (s.channel.endWindow s.now)).circuit c with
    cable := ((s.setChannel (s.channel.endWindow s.now)).circuit c).cable } : Circuit) = s.circuits.get c from rfl]
  change { s.setChannel s.freedChannel with circuits := s.circuits.set c (s.circuits.get c) } = _
  rw [Table.set_get]
  rfl

theorem recordDark_calm {s : State} {c : CircuitIx} {x : DarkValues} {dark : Nat} (valid : 200 ≤ dark)
    (h : ∀ g, ¬s.foreignGreen c x g) : s.recordDark c dark x = s.darkJudged c dark x := by
  unfold State.recordDark State.darkJudged
  rw [decide_eq_true valid]
  dsimp only
  rw [if_pos rfl, withValues_valid, judgeDark_calm]
  · rfl
  · exact h

theorem recordDark_foreign {s : State} {c : CircuitIx} {x : DarkValues} {dark : Nat} {g : GroupIx} (valid : 200 ≤ dark)
    (h : s.foreignGreen c x g) : s.recordDark c dark x = (s.darkJudged c dark x).foreignAlarm c := by
  unfold State.recordDark State.darkJudged
  rw [decide_eq_true valid]
  dsimp only
  rw [if_pos rfl, withValues_valid, judgeDark_foreign (g := g)]
  · rfl
  · exact h

theorem exec_darkWindow {s : State} {c : CircuitIx} {rq : DarkRequester} {dark : Nat} {start : Instant}
    (held : s.resetHeld = false) (flight : s.channel.inFlight = some { circuit := c, kind := .dark rq dark, start := start })
    (ended : start + 20 ≤ s.now) (v l q : Int) :
    exec (.darkWindowEnd v l q) s = .next (s.settle (s.endDark v l q c dark)) := by
  have due : s.darkWindow = some (c, dark) := by
    unfold State.darkWindow
    rw [flight]
    exact if_pos ended
  rw [exec_of_live (i := .darkWindowEnd v l q) held rfl, due]

/-- A cause handed where nothing has been judged, through the end of its step (R154, R155, R171). -/
theorem handCause_settled (s : State) {v : State} (x : Cause) (groups : v.groups = s.groups)
    (output : v.output = s.output) (junction : v.junction = s.junction) (now : v.now = s.now) (sched : v.sched = s.sched)
    (idle : v.channel.inFlight = none) :
    let t := s.settle (v.handCauses [x])
    (∃ y : State, y.channel = v.channel ∧ t = y.renewOffer.arbitrate)
    ∧ (∀ k : Attention, k ≠ .preemptEnd → k ≠ .planChanged → k ≠ .schedulePlanInvalid → k ≠ .lockout →
        k ≠ .junctionState → t.holds k = v.holds k)
    ∧ (s.output.safeEnable = true → s.AllOff t
          ∧ t.junction = { s.junction with
              state := .lockout, entry := s.now, clearance := none, lockout := some (s.lockoutRecord x) }
          ∧ t.holds .lockout = true ∧ t.holds .junctionState = true) := by
  intro t
  cases safe : s.output.safeEnable with
  | true =>
    have safe' : v.output.safeEnable = true := by rw [output]; exact safe
    have off : v.LockedOut (v.handCauses [x]) x := handCauses_lockedOut safe' x []
    have junction' := handCauses_single safe' x
    have holds' {k : Attention} := handCauses_holds (k := k) safe' x []
    obtain ⟨ends, allOff, -, -, -, -, same, attention, -⟩ := off.settled s
    obtain ⟨⟨-, -, -, stands⟩, -, locked, entered, -⟩ := off
    have holds := holds_of_attention attention
    refine ⟨⟨_, stands idle, ends⟩, fun k h1 h2 h3 h4 h5 => ?_, fun _ => ⟨?_, ?_, ?_, ?_⟩⟩
    · change (s.settle (v.handCauses [x])).holds k = _
      rw [holds, holds' h1 h2 h3, beq_eq_false_iff_ne.2 h4, beq_eq_false_iff_ne.2 h5, Bool.or_false, Bool.or_false]
    · have config (g : GroupIx) : v.group g = s.group g := by unfold State.group; rw [groups]
      unfold State.AllOff at allOff ⊢
      simp only [config, now] at allOff
      exact allOff
    · refine same.trans (junction'.trans ?_)
      rw [junction, now, State.lockoutRecord, sched]
      rfl
    · exact (holds _).trans locked
    · exact (holds _).trans entered
  | false =>
    have safe' : v.output.safeEnable = false := by rw [output]; exact safe
    have frame := handCauses_unsupplied [x] safe'
    have ends : t = (v.handCauses [x]).renewOffer.arbitrate :=
      settle_of_unmoved (by rw [frame, groups]) (by rw [frame, output]) (by
        have : (v.handCauses [x]).junction.state = v.junction.state := by rw [frame]
        rw [this, junction])
    refine ⟨⟨_, by rw [frame], ends⟩, fun k _ _ _ _ _ => ?_, fun h => absurd h (by decide)⟩
    obtain ⟨-, -, -, -, -, attention, -⟩ := arbitrate_afterEnd (v.handCauses [x])
    rw [ends, holds_of_attention attention]
    exact holds_of_attention (by rw [frame]) k

/-- Settles O46. -/
theorem darkWindowsCheckCables : Obligations.DarkWindowsCheckCables := by
  intro s v l q c rq dark start held flight ended freed x old full judged foreign
  have run := exec_darkWindow held flight ended v l q
  have freed_eq : freed = s.setChannel s.freedChannel := rfl
  have ends : s.endDark v l q c dark = (s.recordDark c dark x).handCauses (s.darkCauses c dark x) := rfl
  rw [ends] at run
  refine ⟨fun short => ?_, fun valid => ?_⟩
  · have none_ : s.darkCauses c dark x = [] := if_neg (not_le.2 short)
    rw [run, none_, recordDark_invalid short]
    change Host.Outcome.next (s.settle freed) = _
    rw [settle_of_unmoved (by rfl) (by rfl) (by rfl)]
  · have causes : s.darkCauses c dark x = s.foreignCauses c x := if_pos valid
    rw [causes] at run
    obtain ⟨u, hu⟩ : ∃ u, u = s.darkJudged c dark x := ⟨_, rfl⟩
    obtain ⟨w, hw⟩ : ∃ w, w = freed.setCable c (old.taken dark s.now x) := ⟨_, rfl⟩
    have cable : (w.circuit c).cable = old.taken dark s.now x := by rw [hw, State.setCable_circuit, if_pos rfl]
    have ownW : w.circuit c = { s.circuit c with cable := old.taken dark s.now x } := by
      rw [hw, State.setCable_circuit, if_pos rfl]; rfl
    have othersW (d : CircuitIx) (ne : d ≠ c) : w.circuit d = s.circuit d := by
      rw [hw, State.setCable_circuit, if_neg ne]; rfl
    have uw : u = w.judgeCable c ((s.assignment c).any fun a => a.aspect != .green) full x := by rw [hu, hw]; rfl
    obtain ⟨own, others, alarm, learned, frame⟩ :=
      judgeCable_spec w c ((s.assignment c).any fun a => a.aspect != .green) full x
    rw [← uw, cable] at own alarm learned
    rw [← uw] at others frame
    have judgement : (old.taken dark s.now x).judged ((s.assignment c).any fun a => a.aspect != .green) full x = judged := rfl
    obtain ⟨partly, samples, learns⟩ :=
      judgedSampled_spec (old.taken dark s.now x) ((s.assignment c).any fun a => a.aspect != .green) full x
    have stays := judgedSampled_sameAlarm (k := old.taken dark s.now x)
      (redOrAmber := (s.assignment c).any fun a => a.aspect != .green) (full := full) (x := x)
    rw [judgement] at alarm partly samples learns stays
    clear_value judged
    obtain ⟨k, hk⟩ : ∃ k, k = ((old.taken dark s.now x).judgedSampled
      ((s.assignment c).any fun a => a.aspect != .green) full x).1 := ⟨_, rfl⟩
    rw [← hk] at own partly samples stays
    rw [learns] at learned
    have ownCable : (u.circuit c).cable = k := by rw [own]
    have frameU : u = { freed with circuits := u.circuits, link := { s.link with attention := u.link.attention } } := by
      generalize u.circuits = cs at frame
      generalize u.link.attention = a at frame
      rw [frame, hw]
      rfl
    have record : (∀ g, ¬foreign g) → s.recordDark c dark x = u := fun calm => by rw [hu]; exact recordDark_calm valid calm
    have recordForeign (g : GroupIx) (h : foreign g) : s.recordDark c dark x = u.foreignAlarm c := by
      rw [hu]; exact recordDark_foreign valid h
    refine ⟨u, _, run, ⟨?_, ?_, ?_⟩, fun d ne => (others d ne).trans (othersW d ne), ?_, ?_, frameU, fun calm => ?_,
      fun g green => ?_⟩
    · rw [ownCable]; exact partly
    · rw [ownCable]; exact samples
    · rw [ownCable, own, ownW]
    · rw [alarm, hw]; rfl
    · rw [learned, hw]; rfl
    · rw [record calm, foreignCauses_calm calm]
      exact settle_of_unmoved (by rw [frameU]; rfl) (by rw [frameU]; rfl) (by rw [frameU]; rfl)
    · rw [recordForeign g green, foreignCauses_foreign green]
      obtain ⟨ownF, othersF, holdsF, frameF⟩ := foreignAlarm_spec u c
      obtain ⟨y, hy⟩ : ∃ y, y = u.foreignAlarm c := ⟨_, rfl⟩
      rw [← hy] at ownF othersF holdsF frameF ⊢
      have channel : y.channel = s.freedChannel := by rw [frameF]; rw [frameU]; rfl
      have idle : s.freedChannel.inFlight = none := by
        unfold State.freedChannel
        split <;> rfl
      obtain ⟨arbitrated, holds, supplied⟩ := handCause_settled s (v := y)
        { cause := .foreignGreen, group := some g, circuit := some c } (by rw [frameF]; rw [frameU]; rfl)
        (by rw [frameF]; rw [frameU]; rfl) (by rw [frameF]; rw [frameU]; rfl) (by rw [frameF]; rw [frameU]; rfl)
        (by rw [frameF]; rw [frameU]; rfl) (by rw [channel]; exact idle)
      refine ⟨by rw [channel] at arbitrated; exact arbitrated, fun d => ?_, ?_, supplied⟩
      · rw [still_circuit (settle_still s _), still_circuit (handCauses_still y _)]
        by_cases here : d = c
        · rw [here, if_pos rfl, ownF]; rfl
        · rw [if_neg here, othersF d here]
      · rw [holds _ (by decide) (by decide) (by decide) (by decide) (by decide), holdsF, ownCable, alarm]
        by_cases same : judged.2 = .unchanged
        · have iff := (stays same).iff .foreignVoltage
          rw [show (k.state != .alarm .foreignVoltage) = (old.state != .alarm .foreignVoltage) from
            Bool.eq_iff_iff.2 (by rw [bne_iff_ne, bne_iff_ne]; exact not_congr iff)]
          rfl
        · rw [bne_iff_ne.2 same]
          simp

end Sys2Proof.Machine
end


section
/-! The end of a lit window (R119, R135 to R142), the training of a reference (R148, R149), and O45 from them. -/

namespace Sys2Proof.Machine

/-! ## Assignments (R2) -/

theorem aspectOf_red (k : GroupConfig) (c : CircuitIx) : k.aspectOf c = some .red ↔ k.reds.contains c = true := by
  unfold GroupConfig.aspectOf
  cases k.reds.contains c with
  | true => simp
  | false =>
    rw [if_neg Bool.false_ne_true]
    split
    · simp
    · split <;> simp

theorem aspectOf_isSome (k : GroupConfig) (c : CircuitIx) : (∃ a, k.aspectOf c = some a) ↔ c ∈ k.circuits := by
  unfold GroupConfig.aspectOf GroupConfig.circuits
  cases hv : k.vehicle with
  | none =>
    by_cases red : c ∈ k.reds
    · simp [red]
    · by_cases green : k.green = c
      · simp [red, green]
      · simp [red, green, Ne.symm green]
  | some v =>
    by_cases red : c ∈ k.reds
    · simp [red]
    · by_cases amber : v.amber = c
      · simp [red, amber]
      · by_cases green : k.green = c
        · simp [red, amber, green]
        · simp [red, amber, green, Ne.symm amber, Ne.symm green]

theorem assignment_of_eq {s : State} {c : CircuitIx} {x : Assignment} (h : s.assignment c = some x) :
    ∃ k, (s.group x.group).config = some k ∧ k.aspectOf c = some x.aspect := by
  obtain ⟨g, -, e⟩ := List.exists_of_findSome?_eq_some h
  obtain ⟨k, hk, e⟩ := Option.bind_eq_some_iff.1 e
  obtain ⟨a, ha, rfl⟩ := Option.map_eq_some_iff.1 e
  exact ⟨k, hk, ha⟩

/-- With no circuit shared, a circuit's assignment is what its group's record says. -/
theorem assignment_eq {s : State} (unique : s.UniqueLaw) {c : CircuitIx} {g : GroupIx} {a : CircuitAspect}
    {k : GroupConfig} (hk : (s.group g).config = some k) (ha : k.aspectOf c = some a) :
    s.assignment c = some { group := g, aspect := a } := by
  have some_ : (s.assignment c).isSome = true := by
    unfold State.assignment
    rw [List.findSome?_isSome_iff]
    exact ⟨g, List.mem_finRange g, by rw [hk]; simp [ha]⟩
  obtain ⟨x, hx⟩ := Option.isSome_iff_exists.1 some_
  obtain ⟨m, hm, hx'⟩ := assignment_of_eq hx
  have same : x.group = g := by
    by_contra ne
    exact (unique g k hk).2 x.group m hm ne c ((aspectOf_isSome k c).1 ⟨a, ha⟩) ((aspectOf_isSome m c).1 ⟨_, hx'⟩)
  rw [same, hk] at hm
  cases hm
  rw [ha] at hx'
  cases hx'
  rw [hx, ← same]

theorem isRed_iff {s : State} {c : CircuitIx} :
    s.isRed c = true ↔ ∃ g, s.assignment c = some { group := g, aspect := .red } := by
  unfold State.isRed
  cases s.assignment c with
  | none => simp
  | some x =>
    obtain ⟨g, a⟩ := x
    simp

/-- The red circuits of a group are those assigned to it as red (R2). -/
theorem reds_contains_iff {s : State} (unique : s.UniqueLaw) {g : GroupIx} {k : GroupConfig}
    (hk : (s.group g).config = some k) (c : CircuitIx) :
    k.reds.contains c = true ↔ s.isRed c = true ∧ (s.assignment c).map (·.group) = some g := by
  rw [← aspectOf_red, isRed_iff]
  constructor
  · intro red
    rw [assignment_eq unique hk red]
    exact ⟨⟨g, rfl⟩, rfl⟩
  · rintro ⟨⟨h, e⟩, same⟩
    rw [e] at same
    cases same
    obtain ⟨m, hm, red⟩ := assignment_of_eq e
    rw [hk] at hm
    cases hm
    exact red

/-! ## Changes of lamp records alone -/

/-- `z` is `y` with lamp records changed and kinds of attention raised. -/
def State.LampsMoved (y z : State) : Prop :=
  z = { y with circuits := z.circuits, link := { y.link with attention := z.link.attention } }
    ∧ (∀ d : CircuitIx, z.circuit d = { y.circuit d with lamp := (z.circuit d).lamp })
    ∧ ∀ k : Attention, y.holds k = true → z.holds k = true

theorem State.LampsMoved.refl (y : State) : y.LampsMoved y := ⟨rfl, fun _ => rfl, fun _ => id⟩

theorem setLamp_lampsMoved (y : State) (c : CircuitIx) (l : LampPart) : y.LampsMoved (y.setLamp c l) := by
  refine ⟨rfl, fun d => ?_, fun _ => id⟩
  rw [State.setLamp_circuit]
  split
  · rename_i here; rw [here]
  · rfl

theorem State.LampsMoved.raised {y z : State} (h : y.LampsMoved z) (k : Attention) : y.LampsMoved (z.raise k) := by
  obtain ⟨frame, circuit, holds⟩ := h
  refine ⟨?_, circuit, fun a h => raise_keeps (holds a h)⟩
  have circuits : (z.raise k).circuits = z.circuits := rfl
  have raised : z.raise k = { z with link := { z.link with attention := (z.raise k).link.attention } } := rfl
  generalize (z.raise k).link.attention = a at raised ⊢
  rw [circuits, raised]
  generalize z.circuits = cs at frame
  generalize z.link.attention = b at frame
  rw [frame]

/-- A lockout with lamp records changed after it, through the end of its step. -/
theorem State.LockedOut.movedLamps {s v z : State} {x : Cause} (h : s.LockedOut v x) (moved : v.LampsMoved z)
    (before : State) :
    before.settle z = z.renewOffer.arbitrate ∧ s.AllOff (before.settle z)
      ∧ (before.settle z).junction = v.junction ∧ (before.settle z).holds .lockout = true
      ∧ (before.settle z).holds .junctionState = true := by
  obtain ⟨-, off, locked, entered, -, r, -, junction⟩ := h
  obtain ⟨frame, circuit, holds⟩ := moved
  have same : z.junction = v.junction := by rw [frame]
  have state : z.junction.state = .lockout := by rw [same, junction]
  have red : z.junction.state ≠ .startRed := by rw [state]; decide
  have running : z.junction.state ≠ .running := by rw [state]; decide
  have off' : s.AllOff z := by
    obtain ⟨safe, drive, greenOff, dark, guard, offer, watch⟩ := off
    have group (g : GroupIx) : z.group g = v.group g := by rw [frame]; rfl
    refine ⟨by rw [frame]; exact safe, fun c => by rw [circuit]; exact drive c, fun g => by rw [group]; exact greenOff g,
      fun g h => by rw [group]; exact dark g h, by rw [frame]; exact guard, by rw [frame]; exact offer,
      fun c => by rw [circuit]; exact watch c⟩
  obtain ⟨-, -, -, -, kept, attention, -⟩ := settle_afterEnd before red running
  refine ⟨settle_of_none before (redLost_outside red running), settle_keeps_allOff before red running off',
    kept.trans same, ?_, ?_⟩
  · exact (holds_of_attention attention _).trans (holds _ locked)
  · exact (holds_of_attention attention _).trans (holds _ entered)

/-! ## The sample of a training (R148, R149) -/

/-- A sample taken by a circuit's training, before a new reference has its group judged. -/
def State.sampleTaken (s : State) (c : CircuitIx) (level : DimLevel) (i : Nat) : State :=
  match (s.circuit c).lamp.training with
  | none => s
  | some t =>
    if t.level = level then
      let u := t.sample i
      let l := (s.circuit c).lamp
      if u.samples < 4 then s.setLamp c { l with training := some u }
      else if u.passes then (s.setLamp c (l.withReference u.level u.mean)).raise .trainDone
      else if u.attempt < 3 then s.setLamp c { l with training := some u.nextAttempt }
      else (s.setLamp c { l with training := none }).raise .trainFail
    else s

theorem sampleTaken_lampsMoved (s : State) (c : CircuitIx) (level : DimLevel) (i : Nat) :
    s.LampsMoved (s.sampleTaken c level i) := by
  unfold State.sampleTaken
  split
  · exact .refl s
  · split
    · dsimp only
      split
      · exact setLamp_lampsMoved ..
      · split
        · exact (setLamp_lampsMoved ..).raised _
        · split
          · exact setLamp_lampsMoved ..
          · exact (setLamp_lampsMoved ..).raised _
    · exact .refl s

/-- A sample offered is taken, and a new reference has the circuit's group judged. -/
theorem offerSample_eq (s : State) (c : CircuitIx) (level : DimLevel) (i : Nat) :
    s.offerSample c level i = if ∃ t, (s.circuit c).lamp.training = some t ∧ t.level = level ∧ 4 ≤ t.samples + 1
        ∧ (t.sample i).passes = true then (s.sampleTaken c level i).judgeCircuit c none
      else s.sampleTaken c level i := by
  unfold State.offerSample State.sampleTaken State.judgeAttempt
  cases training : (s.circuit c).lamp.training with
  | none => simp
  | some t =>
    dsimp only
    by_cases same : t.level = level
    · rw [if_pos same, if_pos same]
      by_cases few : (t.sample i).samples < 4
      · have not : ¬4 ≤ t.samples + 1 := not_le.2 few
        rw [if_pos few, if_pos few, if_neg (by rintro ⟨x, h, -, four, -⟩; cases h; exact not four)]
      · have four : 4 ≤ t.samples + 1 := not_lt.1 few
        rw [if_neg few, if_neg few]
        cases passes : (t.sample i).passes with
        | true => rw [if_pos rfl, if_pos ⟨t, rfl, same, four, passes⟩, if_pos rfl]
        | false =>
          have fails : ¬∃ x, some t = some x ∧ x.level = level ∧ 4 ≤ x.samples + 1 ∧ (x.sample i).passes = true := by
            rintro ⟨x, h, -, -, p⟩
            cases h
            exact absurd (passes.symm.trans p) Bool.false_ne_true
          rw [if_neg Bool.false_ne_true, if_neg Bool.false_ne_true, if_neg fails]
    · rw [if_neg same, if_neg same, if_neg (by rintro ⟨x, h, e, -⟩; cases h; exact same e)]

theorem offerSample_of_lockout {s : State} (h : s.junction.state = .lockout) (c : CircuitIx) (level : DimLevel)
    (i : Nat) : s.offerSample c level i = s.sampleTaken c level i := by
  have state : (s.sampleTaken c level i).junction.state = .lockout := by
    rw [(sampleTaken_lampsMoved s c level i).1]
    exact h
  rw [offerSample_eq, judgeCircuit_of_none (redLost_outside (by rw [state]; decide) (by rw [state]; decide)), ite_self]

/-! ## A lit measurement recorded (R135, R139 to R142) -/

theorem confirm_keeps (l : LampPart) (res : LampState) : l.confirm res = { l with
    state := (l.confirm res).state, pendingResult := (l.confirm res).pendingResult
    agreement := (l.confirm res).agreement } := by
  unfold LampPart.confirm
  split
  · split <;> rfl
  · split
    · rfl
    · split <;> rfl

theorem confirm_taken {l : LampPart} {res : LampState}
    (h : l.state = .unmeasured ∨ l.state = .unproven ∨ res = .unproven ∨ l.pendingResult = some res ∨ res = l.state) :
    (l.confirm res).state = res := by
  unfold LampPart.confirm
  by_cases unproven : res = .unproven
  · rw [if_pos unproven]
    split
    · rename_i same; rw [same, unproven]
    · exact unproven.symm
  · rw [if_neg unproven]
    by_cases taken : l.state = .unmeasured ∨ l.state = .unproven ∨ l.pendingResult = some res
    · rw [if_pos taken]
    · rw [if_neg taken]
      have same : res = l.state := by
        rcases h with h | h | h | h | h
        · exact absurd (.inl h) taken
        · exact absurd (.inr (.inl h)) taken
        · exact absurd h unproven
        · exact absurd (.inr (.inr h)) taken
        · exact h
      rw [if_pos same, same]

theorem confirm_pending {l : LampPart} {res : LampState} (h1 : l.state ≠ .unmeasured) (h2 : l.state ≠ .unproven)
    (h3 : res ≠ .unproven) (h4 : res ≠ l.state) (h5 : l.pendingResult ≠ some res) :
    l.confirm res = { l with pendingResult := some res, agreement := 1 } := by
  unfold LampPart.confirm
  rw [if_neg h3, if_neg (by simp [h1, h2, h5]), if_neg h4]

/-- The lamp part after a valid measurement. -/
theorem measured_spec (l : LampPart) (cable : CableState) (i : Nat) (res : LampState × Option Nat) :
    let m := l.measured cable i res
    m.lastCurrent = i ∧ m.state = (l.confirm res.1).state ∧ m.pendingResult = (l.confirm res.1).pendingResult
      ∧ m.agreement = (l.confirm res.1).agreement
      ∧ (m.state ≠ l.state → m.cause = causeAfter cable m.state)
      ∧ m.fullRef = l.fullRef ∧ m.dimRef = l.dimRef ∧ m.training = l.training := by
  intro m
  have keeps := confirm_keeps l res.1
  have hm : m = l.measured cable i res := rfl
  unfold LampPart.measured at hm
  dsimp only at hm
  clear_value m
  generalize l.confirm res.1 = n at keeps hm ⊢
  split at hm
  · rename_i same
    rw [hm]
    refine ⟨rfl, rfl, rfl, rfl, fun ne => absurd same ne, ?_⟩
    rw [keeps]
    exact ⟨rfl, rfl, rfl⟩
  · rw [hm]
    refine ⟨rfl, rfl, rfl, rfl, fun _ => rfl, ?_⟩
    rw [keeps]
    exact ⟨rfl, rfl, rfl⟩

/-- A valid lit measurement recorded, before red supervision and the training's sample. -/
def State.litRecorded (s : State) (c : CircuitIx) (level : DimLevel) (i : Nat) : State :=
  let k := s.circuit c
  let l := k.lamp.measured k.cable.state i (classify k.heads k.residual (k.lamp.refFor level) i)
  let t := s.setLamp c l
  if raisesLampAlarm k.lamp.state l.state then t.raise .lampAlarm else t

theorem litRecorded_spec (s : State) (c : CircuitIx) (level : DimLevel) (i : Nat) :
    let k := s.circuit c
    let l := k.lamp.measured k.cable.state i (classify k.heads k.residual (k.lamp.refFor level) i)
    let m := s.litRecorded c level i
    m.circuit c = { k with lamp := l } ∧ (∀ d : CircuitIx, d ≠ c → m.circuit d = s.circuit d)
    ∧ m.holds .lampAlarm = (s.holds .lampAlarm || raisesLampAlarm k.lamp.state l.state)
    ∧ m = { s with circuits := m.circuits, link := { s.link with attention := m.link.attention } }
    ∧ s.recordLit c level i =
        (if l.state = k.lamp.state then m else m.judgeCircuit c (some c)).offerSample c level i := by
  intro k l m
  obtain ⟨t, ht⟩ : ∃ t, t = s.setLamp c l := ⟨_, rfl⟩
  have hm : m = if raisesLampAlarm k.lamp.state l.state then t.raise .lampAlarm else t := by rw [ht]; rfl
  have circuit (d : CircuitIx) : m.circuit d = t.circuit d := by rw [hm]; split <;> rfl
  refine ⟨?_, fun d ne => ?_, ?_, ?_, rfl⟩
  · rw [circuit, ht, State.setLamp_circuit, if_pos rfl]
  · rw [circuit, ht, State.setLamp_circuit, if_neg ne]
  · have holds : t.holds .lampAlarm = s.holds .lampAlarm := by rw [ht]; rfl
    rw [hm]
    cases raises : raisesLampAlarm k.lamp.state l.state with
    | true => rw [if_pos rfl, raise_holds, holds]; simp
    | false => rw [if_neg Bool.false_ne_true, holds]; simp
  · rw [hm, ht]
    split <;> rfl

theorem judgeCircuit_of_calm {s : State} {c : CircuitIx}
    (h : ∀ g, s.assignment c = some { group := g, aspect := .red } → s.redLost g = false) (x : Option CircuitIx) :
    s.judgeCircuit c x = s := by
  unfold State.judgeCircuit
  split
  · rename_i g assigned
    exact judgeReds_of_none x fun h' mem => by rw [List.mem_singleton.1 mem]; exact h g assigned
  · rfl

theorem judgeCircuit_hands {v : State} {c : CircuitIx} {g : GroupIx}
    (assigned : v.assignment c = some { group := g, aspect := .red }) (lost : v.redLost g = true)
    (x : Option CircuitIx) : v.judgeCircuit c x = v.handCauses [v.redCause g x] := by
  unfold State.judgeCircuit
  rw [assigned]
  exact judgeReds_single lost x

theorem judgeCircuit_lockedOut {v : State} {c : CircuitIx} {g : GroupIx} (safe : v.output.safeEnable = true)
    (assigned : v.assignment c = some { group := g, aspect := .red }) (lost : v.redLost g = true)
    (x : Option CircuitIx) : v.LockedOut (v.judgeCircuit c x) (v.redCause g x)
      ∧ (v.judgeCircuit c x).junction = { v.junction with
        state := .lockout, entry := v.now, clearance := none, lockout := some (v.lockoutRecord (v.redCause g x)) } := by
  rw [judgeCircuit_hands assigned lost]
  exact ⟨handCauses_lockedOut safe _ [], handCauses_single safe _⟩

/-- A red circuit's group found LOST locks the junction out, and lamp records that change after it change nothing of
that (R145, R171). -/
theorem judgeCircuit_locks {s v z : State} {c : CircuitIx} {g : GroupIx} {x : Option CircuitIx}
    (groups : v.groups = s.groups) (output : v.output = s.output) (junction : v.junction = s.junction)
    (now : v.now = s.now) (sched : v.sched = s.sched) (idle : v.channel.inFlight = none)
    (safe : s.output.safeEnable = true) (assigned : s.assignment c = some { group := g, aspect := .red })
    (lost : v.redLost g = true) (moved : (v.judgeCircuit c x).LampsMoved z) :
    let t := s.settle z
    (v.AllOff t ∧ t.holds .lockout = true ∧ t.holds .junctionState = true
      ∧ (∃ y : State, y.channel = v.channel ∧ t = y.renewOffer.arbitrate)
      ∧ t.junction = { s.junction with
          state := .lockout, entry := s.now, clearance := none, lockout := some {
            cause := .redLost, group := some g, circuit := (v.redCause g x).circuit
            time := if s.sched.clockSet then some s.sched.clock else none, further := false, cleared := false } })
    ∧ ∀ k : Attention, k ≠ .preemptEnd → v.holds k = true → t.holds k = true := by
  intro t
  have same : v.assignment c = s.assignment c := by unfold State.assignment State.group; rw [groups]
  obtain ⟨off, junction'⟩ := judgeCircuit_lockedOut (v := v) (by rw [output]; exact safe) (same.trans assigned) lost x
  obtain ⟨ends, allOff, kept, locked, entered⟩ := off.movedLamps moved s
  obtain ⟨⟨-, -, -, stands⟩, -, -, -, keeps, -⟩ := off
  have channel : z.channel = v.channel := by rw [moved.1]; exact stands idle
  refine ⟨⟨allOff, locked, entered, ⟨z, channel, ends⟩, ?_⟩, fun k ne h => ?_⟩
  · rw [show t.junction = _ from kept, junction', junction, now, State.lockoutRecord, sched]
    rfl
  · obtain ⟨-, -, -, -, -, attention, -⟩ := arbitrate_afterEnd z
    rw [show t = z.renewOffer.arbitrate from ends, holds_of_attention attention]
    exact moved.2.2 k (keeps k h ne)

theorem sample_passes_iff (r : Training) (i : Nat) : (r.sample i).passes = true ↔
    ((match r.max with | some a => Nat.max a i | none => i) - (match r.min with | some a => Nat.min a i | none => i)) * 32
      ≤ r.sum + i ∧ 20 ≤ (r.sum + i + 2) / 4 ∧ (r.sum + i + 2) / 4 ≤ 4000 := by
  obtain ⟨_, _, _, low, high, _⟩ := r
  unfold Training.passes Training.sample Training.mean within
  cases low <;> cases high <;> simp

theorem withReference_eq (l : LampPart) (level : DimLevel) (iref : Nat) : l.withReference level iref = { l with
    fullRef := if level = .full then some iref else l.fullRef
    dimRef := if level = .dim then some iref else l.dimRef
    pendingResult := none, agreement := 0, training := none } := by
  cases level <;> rfl

theorem exec_litWindow {s : State} {c : CircuitIx} {level : DimLevel} {start : Instant}
    (held : s.resetHeld = false) (flight : s.channel.inFlight = some { circuit := c, kind := .lit level, start := start })
    (ended : start + 20 ≤ s.now) (raw : Int) :
    exec (.litWindowEnd raw) s = .next (s.settle (s.endLit raw c level start)) := by
  have due : s.litWindow = some (c, level, start) := by
    unfold State.litWindow
    rw [flight]
    exact if_pos ended
  rw [exec_of_live (i := .litWindowEnd raw) held rfl, due]

/-- Settles O45. -/
theorem litWindowsProveLamps : Obligations.LitWindowsProveLamps := by
  intro s raw c level start held unique flight ended freed
  have run := exec_litWindow held flight ended raw
  have freed_eq : s.endLit raw c level start = if s.discards start then freed
    else freed.recordLit c level (s.channel.corrected raw) := rfl
  rw [freed_eq] at run
  refine ⟨fun ⟨e, settling, after⟩ => ?_, fun settled => ?_⟩
  · have discards : s.discards start = true := by
      unfold State.discards
      rw [settling]
      simpa using after
    rw [run, discards, if_pos rfl, settle_of_unmoved (by rfl) (by rfl) (by rfl)]
  · intro i old res
    have keeps : s.discards start = false := by
      unfold State.discards
      cases settling : s.sup.settlingEnd with
      | none => rfl
      | some e => simpa using settled e settling
    rw [keeps, if_neg Bool.false_ne_true] at run
    obtain ⟨own, others, alarm, frame, recorded⟩ := litRecorded_spec freed c level i
    obtain ⟨current, state, pending, agreement, cause, fullRef, dimRef, training⟩ :=
      measured_spec old (s.circuit c).cable.state i
        (classify (s.circuit c).heads (s.circuit c).residual (old.refFor level) i)
    obtain ⟨l, hl⟩ : ∃ l, l = old.measured (s.circuit c).cable.state i
      (classify (s.circuit c).heads (s.circuit c).residual (old.refFor level) i) := ⟨_, rfl⟩
    obtain ⟨m, hm⟩ : ∃ m, m = freed.litRecorded c level i := ⟨_, rfl⟩
    rw [← hl] at current state pending agreement cause fullRef dimRef training
    rw [← hm] at own others alarm frame recorded
    replace own : m.circuit c = { s.circuit c with lamp := l } := by rw [hl]; exact own
    replace alarm : m.holds .lampAlarm = (s.holds .lampAlarm || raisesLampAlarm old.state l.state) := by
      rw [hl]; exact alarm
    replace recorded : freed.recordLit c level i =
        (if l.state = old.state then m else m.judgeCircuit c (some c)).offerSample c level i := by
      rw [hl]; exact recorded
    rw [show freed.recordLit c level (s.channel.corrected raw) = _ from recorded] at run
    have lamp : (m.circuit c).lamp = l := by rw [own]
    have groups : m.groups = s.groups := by rw [frame]; rfl
    have output : m.output = s.output := by rw [frame]; rfl
    have junction : m.junction = s.junction := by rw [frame]; rfl
    have now : m.now = s.now := by rw [frame]; rfl
    have sched : m.sched = s.sched := by rw [frame]; rfl
    have channel : m.channel = freed.channel := by rw [frame]
    have idle : freed.channel.inFlight = none := by
      change (if s.channel.owed then s.channel.beginLong s.now
        else { s.channel with state := .ready, inFlight := none }).inFlight = none
      split <;> rfl
    have moved := sampleTaken_lampsMoved m c level i
    obtain ⟨u, hu⟩ : ∃ u, u = m.sampleTaken c level i := ⟨_, rfl⟩
    rw [← hu] at moved
    refine ⟨m, u, _, run, by rw [lamp]; exact current, fun h => by rw [lamp, state]; exact confirm_taken h,
      fun h1 h2 h3 h4 h5 => ?_, fun out not => ?_, ?_, fun d ne => (others d ne).trans rfl, by rw [alarm, lamp], ?_,
      fun lost changed safe => ?_, fun calm => ?_⟩
    · have waits := confirm_pending h1 h2 h3 h4 h5
      rw [lamp, state, pending, agreement, waits]
      exact ⟨rfl, rfl, rfl⟩
    · rw [lamp] at out ⊢
      rw [cause (by rw [out]; exact Ne.symm not), out]
      simp [causeAfter]
    · rw [lamp, own, ← fullRef, ← dimRef, ← training]
    · generalize m.circuits = cs at frame ⊢
      generalize m.link.attention = a at frame ⊢
      rw [frame]
      rfl
    · obtain ⟨g, assigned, lost⟩ := lost
      rw [lamp] at changed
      rw [if_neg changed]
      have same : m.assignment c = s.assignment c := by unfold State.assignment State.group; rw [groups]
      obtain ⟨-, locked⟩ := judgeCircuit_lockedOut (by rw [output]; exact safe) (same.trans assigned) lost (some c)
      have taken : (m.judgeCircuit c (some c)).offerSample c level i
          = (m.judgeCircuit c (some c)).sampleTaken c level i := by
        refine offerSample_of_lockout ?_ c level i
        rw [locked]
      rw [taken, ← channel]
      obtain ⟨⟨off, lockout, entered, ends, record⟩, -⟩ := judgeCircuit_locks groups output junction now sched
        (by rw [channel]; exact idle) safe assigned lost (sampleTaken_lampsMoved (m.judgeCircuit c (some c)) c level i)
      exact ⟨off, lockout, entered, ends, g, assigned, record⟩
    · have judged : (if l.state = old.state then m else m.judgeCircuit c (some c)) = m := by
        split
        · rfl
        · rename_i changed
          refine judgeCircuit_of_calm (fun g assigned => ?_) _
          have same : m.assignment c = s.assignment c := by unfold State.assignment State.group; rw [groups]
          rw [← Bool.not_eq_true]
          exact fun lost => calm ⟨⟨g, same.symm.trans assigned, lost⟩, by rw [lamp]; exact changed⟩
      rw [judged, offerSample_eq, lamp, training, ← hu]
      have settled {v : State} (moved : m.LampsMoved v) : s.settle v = v.renewOffer.arbitrate := by
        refine settle_of_unmoved ?_ ?_ ?_
        · rw [moved.1]; exact groups
        · rw [moved.1]; exact congrArg Output.dim output
        · rw [moved.1]; exact congrArg Junction.state junction
      have sampled : u = m.sampleTaken c level i := hu
      unfold State.sampleTaken at sampled
      rw [lamp, training] at sampled
      refine ⟨fun other => ?_, fun r hr level_eq => ?_⟩
      · have stays : u = m := by
          rw [sampled]
          cases t : old.training with
          | none => rfl
          | some r => exact if_neg (other r t)
        rw [if_neg (by rintro ⟨r, hr, same, -⟩; exact other r hr same)]
        exact ⟨stays, settled moved⟩
      · rw [hr] at sampled
        replace sampled := sampled.trans (if_pos level_eq)
        have learns : (∃ t, old.training = some t ∧ t.level = level ∧ 4 ≤ t.samples + 1 ∧ (t.sample i).passes = true) ↔
            4 ≤ r.samples + 1 ∧ (r.sample i).passes = true := by
          rw [hr]
          exact ⟨fun ⟨t, e, h⟩ => by cases e; exact h.2, fun h => ⟨r, rfl, level_eq, h⟩⟩
        have unlearnt (h : ¬(4 ≤ r.samples + 1 ∧ (r.sample i).passes = true)) :
            s.settle (if ∃ t, old.training = some t ∧ t.level = level ∧ 4 ≤ t.samples + 1 ∧ (t.sample i).passes = true
              then u.judgeCircuit c none else u) = u.renewOffer.arbitrate := by
          rw [if_neg (learns.not.2 h)]
          exact settled moved
        have learnt (h : 4 ≤ r.samples + 1 ∧ (r.sample i).passes = true) :
            s.settle (if ∃ t, old.training = some t ∧ t.level = level ∧ 4 ≤ t.samples + 1 ∧ (t.sample i).passes = true
              then u.judgeCircuit c none else u) = s.settle (u.judgeCircuit c none) := by
          rw [if_pos (learns.2 h)]
        generalize s.settle (if ∃ t, old.training = some t ∧ t.level = level ∧ 4 ≤ t.samples + 1
          ∧ (t.sample i).passes = true then u.judgeCircuit c none else u) = t at unlearnt learnt ⊢
        have passes_iff := sample_passes_iff r i
        refine ⟨fun few => ⟨?_, unlearnt fun h => absurd h.1 (not_le.2 few)⟩, fun four pass => ?_,
          fun four fails again => ⟨?_, unlearnt fun h => fails (passes_iff.1 h.2)⟩,
          fun four fails last => ⟨?_, unlearnt fun h => fails (passes_iff.1 h.2)⟩⟩
        · rw [sampled, if_pos (by exact few)]
          rfl
        · have passes : (r.sample i).passes = true := passes_iff.2 pass
          replace sampled := sampled.trans ((if_neg (by exact not_lt.2 four)).trans (if_pos passes))
          have groupsU : u.groups = s.groups := by rw [moved.1]; exact groups
          have same : u.assignment c = s.assignment c := by unfold State.assignment State.group; rw [groupsU]
          rw [learnt ⟨four, passes⟩]
          refine ⟨?_, fun ⟨g, assigned, lost⟩ => ?_, fun calm => ?_⟩
          · rw [sampled, withReference_eq, show (r.sample i).level = level from level_eq]
            rfl
          · have trained : u.holds .trainDone = true := by rw [sampled, raise_holds]; simp
            have locks (safe : s.output.safeEnable = true) := judgeCircuit_locks (s := s) (v := u) (x := none) groupsU
              (by rw [moved.1]; exact output) (by rw [moved.1]; exact junction) (by rw [moved.1]; exact now)
              (by rw [moved.1]; exact sched) (by rw [moved.1, channel]; exact idle) safe assigned lost (.refl _)
            have lowest : (u.redCause g none).circuit = ((List.finRange 48).filter fun d => s.isRed d
                && (s.assignment d).map (·.group) == (s.assignment c).map (·.group) && u.referenced d).head? := by
              obtain ⟨k, hk, -⟩ := assignment_of_eq assigned
              have hk' : (u.group g).config = some k := by unfold State.group; rw [groupsU]; exact hk
              change (u.referencedReds g).head? = _
              rw [referencedReds_eq, hk']
              refine congrArg List.head? (List.filter_congr fun d _ => congrArg (· && u.referenced d) ?_)
              rw [Bool.eq_iff_iff, reds_contains_iff unique hk, assigned]
              simp
            rw [show u.channel = freed.channel by rw [moved.1]; exact channel] at locks
            have holds := (handCause_settled s (v := u) (u.redCause g none) groupsU (by rw [moved.1]; exact output)
              (by rw [moved.1]; exact junction) (by rw [moved.1]; exact now) (by rw [moved.1]; exact sched)
              (by rw [moved.1, channel]; exact idle)).2.1 .trainDone (by decide) (by decide) (by decide) (by decide)
              (by decide)
            rw [← judgeCircuit_hands (same.trans assigned) lost] at holds
            generalize s.settle (u.judgeCircuit c none) = t' at locks holds ⊢
            refine ⟨fun safe => ?_, holds.trans trained⟩
            obtain ⟨⟨off, lockout, entered, ends, record⟩, -⟩ := locks safe
            rw [lowest] at record
            exact ⟨off, lockout, entered, ends, g, assigned, record⟩
          · rw [judgeCircuit_of_calm]
            · exact settled moved
            · intro g assigned
              rw [← Bool.not_eq_true]
              exact fun lost => calm ⟨g, same.symm.trans assigned, lost⟩
        · rw [sampled, if_neg (by exact not_lt.2 four), if_neg (by rw [passes_iff]; exact fails), if_pos (by exact again)]
          rw [← level_eq]
          rfl
        · rw [sampled, if_neg (by exact not_lt.2 four), if_neg (by rw [passes_iff]; exact fails),
            if_neg (by exact not_lt.2 last)]
          rfl

end Sys2Proof.Machine
end


section
/-! The requests for measurement, the cable round and the age limit of the green watch (R121, R134, R136, R153, R155,
R157), and O49 from them. -/

namespace Sys2Proof.Machine

theorem exec_provingRequestDue {s : State} (held : s.resetHeld = false) (c : CircuitIx) :
    exec (.provingRequestDue (number c)) s = .next (s.whenDue (s.requestDue c) fun u => u.presentRequest c) := by
  rw [exec_of_live (i := .provingRequestDue (number c)) held rfl, indexOf_number]

theorem exec_provingRequestDrop {s : State} (held : s.resetHeld = false) (c : CircuitIx) :
    exec (.provingRequestDrop (number c)) s = .next
      (if s.dropDue c then s.setSchedule c { (s.circuit c).schedule with presented := none } else s) := by
  rw [exec_of_live (i := .provingRequestDrop (number c)) held rfl, indexOf_number]

theorem exec_watchCheckDue {s : State} (held : s.resetHeld = false) (c : CircuitIx) :
    exec (.watchCheckDue (number c)) s = .next (s.whenDue (s.checkDue c) fun u => u.setPresented c true) := by
  rw [exec_of_live (i := .watchCheckDue (number c)) held rfl, indexOf_number]

theorem exec_roundEligible {s : State} (held : s.resetHeld = false) (c : CircuitIx) :
    exec (.roundEligible (number c)) s = .next (s.whenDue (s.eligible c) fun u => u.ripen c) := by
  rw [exec_of_live (i := .roundEligible (number c)) held rfl, indexOf_number]

theorem exec_monitorLate {s : State} (held : s.resetHeld = false) (c : CircuitIx) :
    exec (.monitorLate (number c)) s = .next (if s.lateDue c then s.reportLate c else s) := by
  rw [exec_of_live (i := .monitorLate (number c)) held rfl, indexOf_number]

theorem exec_watchAgeLimit {s : State} (held : s.resetHeld = false) (c : CircuitIx) :
    exec (.watchAgeLimit (number c)) s = .next (s.whenDue (s.ageReached c 4000) fun u => u.reachLimit c) := by
  rw [exec_of_live (i := .watchAgeLimit (number c)) held rfl, indexOf_number]

/-- A due event that moves no aspect, level or junction state is followed by the arbitration alone (R122). -/
theorem whenDue_arbitrated {s : State} {due : Bool} (h : due = true) {f : State → State}
    (groups : (f s).groups = s.groups) (dim : (f s).output.dim = s.output.dim)
    (state : (f s).junction.state = s.junction.state) : s.whenDue due f = (f s).renewOffer.arbitrate := by
  unfold State.whenDue
  rw [if_pos h, settle_of_unmoved groups dim state]

/-! ## The green watch (R153) -/

theorem watched_iff (s : State) (c : CircuitIx) : s.watched c = true ↔ s.output.safeEnable = true
    ∧ ∃ g, s.assignment c = some { group := g, aspect := .green } ∧ (s.group g).aspect ≠ .green := by
  unfold State.watched
  rw [Bool.and_eq_true]
  cases s.assignment c with
  | none => simp
  | some x =>
    obtain ⟨g, a⟩ := x
    cases a <;> simp

/-! ## The cable round (R157) -/

theorem inRound_iff (s : State) (c : CircuitIx) : s.inRound c = true ↔ s.output.safeEnable = true
    ∧ s.assigned c = true ∧ (s.circuit c).drive.on = false ∧ (s.circuit c).drive.lastSwitch + 1000 ≤ s.now
    ∧ ((s.circuit c).drive.lastSwitch + 1000 = s.now →
        (s.circuit c).cable.ripeFor = some (s.circuit c).drive.lastSwitch) := by
  unfold State.inRound State.eligible
  simp only [Bool.and_eq_true, Bool.or_eq_true, Bool.not_eq_true', decide_eq_true_eq, beq_iff_eq]
  constructor
  · rintro ⟨⟨⟨⟨safe, assigned⟩, off⟩, dark⟩, counted⟩
    refine ⟨safe, assigned, off, dark, fun now => ?_⟩
    rcases counted with lt | ripe
    · exact absurd now (Nat.ne_of_lt lt)
    · exact ripe
  · rintro ⟨safe, assigned, off, dark, ripe⟩
    refine ⟨⟨⟨⟨safe, assigned⟩, off⟩, dark⟩, ?_⟩
    rcases Nat.lt_or_ge ((s.circuit c).drive.lastSwitch + 1000) s.now with lt | ge
    · exact .inl lt
    · exact .inr (ripe (Nat.le_antisymm dark ge))

/-- Circuit `c` comes before `d`, or is it, in the round's order behind a pointer. -/
def roundBefore (pointer : Nat) (c d : CircuitIx) : Prop :=
  (decide (c.val < pointer) = false ∧ decide (d.val < pointer) = true)
    ∨ (decide (c.val < pointer) = decide (d.val < pointer) ∧ c ≤ d)

theorem roundBefore_antisymm {p : Nat} {c d : CircuitIx} (h : roundBefore p c d) (h' : roundBefore p d c) : c = d := by
  rcases h with ⟨h1, h2⟩ | ⟨h1, h2⟩
  · rcases h' with ⟨h3, h4⟩ | ⟨h3, h4⟩
    · rw [h1] at h4; cases h4
    · rw [h1, h2] at h3; cases h3
  · rcases h' with ⟨h3, h4⟩ | ⟨h3, h4⟩
    · rw [h3, h4] at h1; cases h1
    · exact le_antisymm h2 h4

theorem mem_roundOrder (s : State) (c : CircuitIx) : c ∈ s.roundOrder := by
  unfold State.roundOrder
  simp only [List.mem_append, List.mem_filter, List.mem_finRange, true_and, decide_eq_true_eq]
  omega

theorem roundOrder_pairwise (s : State) : s.roundOrder.Pairwise (roundBefore s.sup.roundPointer) := by
  have ordered (p : CircuitIx → Bool) : ((List.finRange 48).filter p).Pairwise (· ≤ ·) :=
    (List.pairwise_le_finRange 48).filter p
  unfold State.roundOrder
  rw [List.pairwise_append]
  refine ⟨(ordered _).imp_of_mem fun {c d} hc hd le => ?_, (ordered _).imp_of_mem fun {c d} hc hd le => ?_,
    fun c hc d hd => ?_⟩
  all_goals
    simp only [List.mem_filter, decide_eq_true_eq] at hc hd
    unfold roundBefore
  · have h1 := hc.2
    have h2 := hd.2
    refine .inr ⟨?_, le⟩
    rw [decide_eq_false (by omega), decide_eq_false (by omega)]
  · refine .inr ⟨?_, le⟩
    rw [decide_eq_true hc.2, decide_eq_true hd.2]
  · have h1 := hc.2
    exact .inl ⟨decide_eq_false (by omega), decide_eq_true hd.2⟩

/-- The first of a sorted list that a predicate holds of is the least such element. -/
theorem find?_eq_some_iff_least {α : Type} {R : α → α → Prop} {l : List α} (sorted : l.Pairwise R)
    (refl : ∀ a, R a a) (antisymm : ∀ a b, R a b → R b a → a = b) (p : α → Bool) (a : α) (mem : a ∈ l) :
    l.find? p = some a ↔ p a = true ∧ ∀ b ∈ l, p b = true → R a b := by
  have least {x : α} (h : l.find? p = some x) : p x = true ∧ ∀ b ∈ l, p b = true → R x b := by
    obtain ⟨px, as, bs, rfl, before⟩ := List.find?_eq_some_iff_append.1 h
    refine ⟨px, fun b mem pb => ?_⟩
    rcases List.mem_append.1 mem with hb | hb
    · have := before b hb
      rw [pb] at this
      cases this
    · rcases List.mem_cons.1 hb with rfl | hb
      · exact refl b
      · exact (List.pairwise_cons.1 (List.pairwise_append.1 sorted).2.1).1 b hb
  refine ⟨least, fun ⟨pa, before⟩ => ?_⟩
  have found : (l.find? p).isSome = true := List.find?_isSome.2 ⟨a, mem, pa⟩
  obtain ⟨x, hx⟩ := Option.isSome_iff_exists.1 found
  obtain ⟨px, first⟩ := least hx
  have xmem := List.mem_of_find?_eq_some hx
  rw [hx, antisymm x a (first a mem pa) (before x xmem px)]

theorem roundNext_iff (s : State) (c : CircuitIx) : s.roundNext = some c ↔
    s.inRound c = true ∧ ∀ d, s.inRound d = true → roundBefore s.sup.roundPointer c d := by
  unfold State.roundNext
  rw [find?_eq_some_iff_least (roundOrder_pairwise s) (fun a => .inr ⟨rfl, le_refl a⟩)
    (fun a b => roundBefore_antisymm) _ c (mem_roundOrder s c)]
  exact and_congr_right fun _ => ⟨fun h d => h d (mem_roundOrder s d), fun h d _ => h d⟩

/-! ## A dark window recorded, beside a lockout (R125, R155) -/

theorem judgeCable_circuits (w : State) (c : CircuitIx) (redOrAmber full : Bool) (x : DarkValues) :
    (w.judgeCable c redOrAmber full x).circuits = w.circuits.set c { w.circuit c with
      cable := ((w.circuit c).cable.judgedSampled redOrAmber full x).1 } := by
  obtain ⟨own, others, -⟩ := judgeCable_spec w c redOrAmber full x
  refine Table.ext_get fun d => ?_
  rw [Table.get_set]
  by_cases here : d = c
  · rw [if_pos here, here]; exact own
  · rw [if_neg here]; exact others d here

theorem darkJudged_frame (s : State) (c : CircuitIx) (dark : Nat) (x : DarkValues) :
    s.darkJudged c dark x = { s with
      circuits := (s.darkJudged c dark x).circuits, channel := s.freedChannel
      link := { s.link with attention := (s.darkJudged c dark x).link.attention } } := by
  obtain ⟨w, hw⟩ : ∃ w, w = (s.setChannel s.freedChannel).setCable c ((s.circuit c).cable.taken dark s.now x) := ⟨_, rfl⟩
  have run : s.darkJudged c dark x = w.judgeCable c ((s.assignment c).any fun a => a.aspect != .green)
    (decide (1000 ≤ dark)) x := by rw [hw]; rfl
  have frame := (judgeCable_spec w c ((s.assignment c).any fun a => a.aspect != .green) (decide (1000 ≤ dark)) x).2.2.2.2
  dsimp only at frame
  rw [← run] at frame
  generalize s.darkJudged c dark x = v at frame ⊢
  generalize v.circuits = cs at frame ⊢
  generalize v.link.attention = a at frame ⊢
  rw [frame, hw]
  rfl

theorem recordDark_frame (s : State) (c : CircuitIx) (dark : Nat) (x : DarkValues) :
    s.recordDark c dark x = { s with
      circuits := (s.recordDark c dark x).circuits, channel := s.freedChannel
      link := { s.link with attention := (s.recordDark c dark x).link.attention } } := by
  rcases Nat.lt_or_ge dark 200 with short | valid
  · rw [recordDark_invalid short]
    rfl
  · have frame := darkJudged_frame s c dark x
    by_cases foreign : ∃ g, s.foreignGreen c x g
    · obtain ⟨g, foreign⟩ := foreign
      rw [recordDark_foreign valid foreign]
      generalize s.darkJudged c dark x = j at frame ⊢
      have frameF := (foreignAlarm_spec j c).2.2.2
      dsimp only at frameF
      generalize j.foreignAlarm c = v at frameF ⊢
      generalize v.circuits = cs at frameF ⊢
      generalize v.link.attention = a at frameF ⊢
      rw [frameF]
      generalize j.circuits = cs' at frame
      generalize j.link.attention = a' at frame
      rw [frame]
    · rw [recordDark_calm valid fun g h => foreign ⟨g, h⟩]
      exact frame

theorem recordDark_drawn (s : State) (c : CircuitIx) (dark : Nat) (x : DarkValues) (d : CircuitIx) :
    (s.drawn.recordDark c dark x).circuit d = (s.recordDark c dark x).circuit d := by
  rcases Nat.lt_or_ge dark 200 with short | valid
  · rw [recordDark_invalid short, recordDark_invalid short]
    rfl
  · have judged (e : CircuitIx) : (s.drawn.darkJudged c dark x).circuit e = (s.darkJudged c dark x).circuit e := by
      unfold State.circuit State.darkJudged
      rw [judgeCable_circuits, judgeCable_circuits]
      rfl
    by_cases foreign : ∃ g, s.foreignGreen c x g
    · obtain ⟨g, foreign⟩ := foreign
      have drawn : s.drawn.foreignGreen c x g := foreign
      rw [recordDark_foreign valid foreign, recordDark_foreign valid drawn]
      obtain ⟨own, others, -⟩ := foreignAlarm_spec (s.drawn.darkJudged c dark x) c
      obtain ⟨own', others', -⟩ := foreignAlarm_spec (s.darkJudged c dark x) c
      by_cases here : d = c
      · rw [here, own, own', judged]
      · rw [others d here, others' d here, judged]
    · have drawn : ¬∃ g, s.drawn.foreignGreen c x g := foreign
      rw [recordDark_calm valid fun g h => foreign ⟨g, h⟩, recordDark_calm valid fun g h => drawn ⟨g, h⟩, judged]

/-- The records of the cables, but for the watch's candidates. -/
def State.SameCables (t v : State) : Prop := ∀ d : CircuitIx,
  { (t.circuit d).cable with watchPresented := false } = { (v.circuit d).cable with watchPresented := false }

theorem sameCables_of_still {t v : State} (h : ∀ d : CircuitIx, (t.circuit d).still = (v.circuit d).still) :
    t.SameCables v := fun d => by
  have := congrArg Circuit.cable (h d)
  exact this

/-- The age limit locks the junction out, naming the circuit first (R155). -/
theorem reachLimit_lockedOut (s : State) (c : CircuitIx) (safe : s.output.safeEnable = true) :
    ∃ v : State, v.groups = s.groups ∧ v.junction = s.junction ∧ v.now = s.now
      ∧ v.LockedOut (s.reachLimit c) (s.lateCause c)
      ∧ (v.circuits = s.circuits ∧ (s.reachLimit c).still = v.still
        ∨ ∃ d dark, s.darkWindow = some (d, dark) ∧ ∃ a l q : Int, (∀ x ∈ [a, l, q], -512 ≤ x ∧ x ≤ 4095)
          ∧ v = s.drawn.drawn.recordDark d dark (s.channel.darkValues a l q)
          ∧ (s.reachLimit c).still = v.still) := by
  have causes : ∃ l, s.lateCauses c = s.lateCause c :: l := ⟨_, rfl⟩
  obtain ⟨others, causes⟩ := causes
  rcases reachLimit_cases s c with ⟨-, e⟩ | ⟨d, dark, window, e | ⟨a, l, q, range, e⟩⟩
  · rw [e, causes]
    exact ⟨s, rfl, rfl, rfl, handCauses_lockedOut safe _ _, .inl ⟨rfl, handCauses_still ..⟩⟩
  · rw [e, causes]
    exact ⟨s.drawn, rfl, rfl, rfl, handCauses_lockedOut (s := s.drawn) safe _ _, .inl ⟨rfl, handCauses_still ..⟩⟩
  · rw [e, causes, List.cons_append]
    have frame := recordDark_frame s.drawn.drawn d dark (s.channel.darkValues a l q)
    refine ⟨_, ?_, ?_, ?_, handCauses_lockedOut ?_ _ _,
      .inr ⟨d, dark, window, a, l, q, range, rfl, handCauses_still ..⟩⟩
    · rw [frame]; rfl
    · rw [frame]; rfl
    · rw [frame]; rfl
    · rw [frame]; exact safe

/-- Settles O49. -/
theorem requestsAndLateness : Obligations.RequestsAndLateness := by
  intro s c held
  refine ⟨fun a d schedule due settled => ?_, fun d presented => ?_, fun e settling due => ?_, fun d short due unpresented idle => ?_,
    fun watched unpresented idle due => ?_, fun eligible => ?_, inRound_iff s c, roundNext_iff s c,
    fun watched late => ⟨fun unreported => ?_, fun limit => ?_⟩⟩
  · have requested : s.requestDue c = true := by
      unfold State.requestDue
      rw [schedule, settled]
      simpa using due
    rw [exec_provingRequestDue held, whenDue_arbitrated requested (by rfl) (by rfl) (by rfl)]
    unfold State.presentRequest
    rw [schedule]
    rfl
  · rw [exec_provingRequestDrop held]
    unfold State.dropDue
    rw [presented]
    refine ⟨fun due => by simp [due], fun early => ?_⟩
    have not : ¬d + 200 ≤ s.now := Nat.not_le.2 early
    simp [not]
  · have ends : s.settlingDue = true := by
      unfold State.settlingDue
      rw [settling]
      simpa using due
    refine ⟨s.endSettling, ?_, ?_, fun d => ?_, ?_⟩
    · rw [exec_of_live (i := .settlingEnd) held rfl]
      refine congrArg Host.Outcome.next (whenDue_arbitrated ends ?_ ?_ ?_)
      all_goals unfold State.endSettling; rw [settling]; rfl
    · unfold State.endSettling; rw [settling]; rfl
    · unfold State.endSettling
      rw [settling]
      exact (Table.get_map ..).trans rfl
    · unfold State.endSettling; rw [settling]; rfl
  · have presents : s.shortDueNow = true := by
      unfold State.shortDueNow
      rw [short, unpresented]
      simp [due, idle]
    rw [exec_of_live (i := .shortCalibrationDue) held rfl,
      whenDue_arbitrated presents (by rfl) (by rfl) (by rfl)]
    rfl
  · have checks : s.checkDue c = true := by
      unfold State.checkDue State.watchDue
      rw [watched, unpresented, idle]
      rcases due with ⟨before, due⟩ | ⟨after, due⟩
      · simp [before, due]
      · simp [Nat.not_le.2 after, due]
    rw [exec_watchCheckDue held, whenDue_arbitrated checks (by rfl) (by rfl) (by rfl)]
    rfl
  · have ripe : (s.ripen c).inRound c = true := by
      have eligible' : (s.ripen c).eligible c = true := by
        unfold State.ripen State.eligible at *
        rw [State.setCable_circuit, if_pos rfl]
        exact eligible
      unfold State.inRound
      rw [eligible']
      unfold State.ripen
      rw [State.setCable_circuit, if_pos rfl]
      simp
    refine ⟨s.ripen c, _, ?_, rfl, rfl, ripe, fun busy => ?_⟩
    · rw [exec_roundEligible held, whenDue_arbitrated eligible (by rfl) (by rfl) (by rfl)]
    · rw [renewOffer_arbitrate_channel (by exact busy)]
      exact ⟨rfl, rfl⟩
  · have due : s.lateDue c = true := by
      unfold State.lateDue State.ageReached
      rw [watched]
      simp [late, unreported]
    refine ⟨s.reportLate c, ?_, ?_, ?_, rfl⟩
    · rw [exec_monitorLate held, if_pos due]
    · rw [State.reportLate, raise_holds]
      simp
    · have reported : (s.reportLate c).lateDue c = false := by
        have own : (s.reportLate c).circuit c = { s.circuit c with
            cable := { (s.circuit c).cable with lateFor := some (s.watchReference c) } } := by
          change (s.setCable c _).circuit c = _
          rw [State.setCable_circuit, if_pos rfl]
        have reference : (s.reportLate c).watchReference c = s.watchReference c := by
          unfold State.watchReference State.watchStart
          rw [own]
          rfl
        unfold State.lateDue
        rw [reference, own]
        simp
      rw [exec_monitorLate (by exact held), reported, if_neg Bool.false_ne_true]
  · have due : s.ageReached c 4000 = true := by
      unfold State.ageReached
      rw [watched]
      simpa using limit
    obtain ⟨safe, g, assigned, -⟩ := (watched_iff s c).1 watched
    obtain ⟨v, groups, junction, now, off, records⟩ := reachLimit_lockedOut s c safe
    have run : exec (.watchAgeLimit (number c)) s = .next (s.settle (s.reachLimit c)) := by
      rw [exec_watchAgeLimit held, State.whenDue, if_pos due]
    obtain ⟨-, allOff, -, -, -, -, same, attention, -⟩ := off.settled s
    obtain ⟨-, -, locked, -, -, r, ⟨cause, group, circuit, cleared⟩, record⟩ := off
    have still := settle_still s (s.reachLimit c)
    refine ⟨_, g, run, assigned, ?_, ?_, ?_, ?_, r, ?_, cause, ?_, circuit, cleared, ?_⟩
    · unfold State.AllOff at allOff ⊢
      have config (h : GroupIx) : v.group h = s.group h := by unfold State.group; rw [groups]
      simp only [config, now] at allOff
      exact allOff
    · rw [same, record]
    · rw [same, record, now]
    · exact (holds_of_attention attention _).trans locked
    · rw [same, record]
    · rw [group, State.lateCause, assigned]
      rfl
    · have kept : (s.settle (s.reachLimit c)).SameCables v :=
        sameCables_of_still fun d => (still_circuit still d).trans (by
          rcases records with ⟨-, h⟩ | ⟨_, _, _, _, _, _, _, _, h⟩ <;> exact still_circuit h d)
      rcases records with ⟨circuits, -⟩ | ⟨d, dark, window, a, l, q, range, hv, -⟩
      · refine .inl fun e => (kept e).trans ?_
        unfold State.circuit
        rw [circuits]
      · refine .inr ⟨by rw [window]; simp, a, l, q, s.settle (s.endDark a l q d dark), ?_, range, fun e => (kept e).trans ?_⟩
        · rw [exec_of_live (i := .darkWindowEnd a l q) held rfl, window]
        · have recorded : (s.settle (s.endDark a l q d dark)).SameCables
              (s.recordDark d dark (s.channel.darkValues a l q)) :=
            sameCables_of_still fun f => (still_circuit (settle_still s _) f).trans
              (still_circuit (handCauses_still _ _) f)
          rw [recorded e, hv, recordDark_drawn, recordDark_drawn]

end Sys2Proof.Machine
end


section
/-! The moves a step is made of: changes of one item of the state, each as the model's functions make it; and that the
functions of the groups, the sequencer and the preemption unit are made of them. -/

namespace Sys2Proof.Machine

/-! ## Moves -/

/-- A circuit's record rewritten with its drive and its lit period as they were: a proving request stands only where
one stood or the circuit is lit, a watch candidate only where one stood or the circuit is watched, and the record's law
is kept. -/
def Circuit.Keeps (watched : Bool) (k m : Circuit) : Prop :=
  m.drive = k.drive ∧ m.schedule.litSince = k.schedule.litSince
    ∧ (m.schedule.presented ≠ none → k.schedule.presented ≠ none ∨ k.schedule.litSince.isSome = true)
    ∧ (m.cable.watchPresented = true → k.cable.watchPresented = true ∨ watched = true)
    ∧ (k.Law → m.Law)

/-- The sequencer may run: it does, or the junction is in RUNNING. -/
def State.Runs (s : State) : Prop := s.seq.state ≠ .idle ∨ s.junction.state = .running

/-- One change of one item, as the model's functions make it. -/
inductive State.Move (s : State) : State → Prop
  | link (l : Link) : Move s (s.setLink l)
  | drawn : Move s s.drawn
  | guard (q : List GuardRequest) : Move s (s.setGuard q)
  | awaited (g : GroupIx) (a : Option Instant) : Move s (s.setGroup g { s.group g with awaited := a })
  | aspect (g : GroupIx) (a : Aspect) (k : GroupConfig) (config : (s.group g).config = some k) (green : a ≠ .green)
      (amber : a = .amber → (s.group g).aspect = .green) : Move s (s.setAspect g a)
  | seq (q : Sequencer) (runs : q.state ≠ .idle → s.Runs) : Move s (s.setSeq q)
  | pre (p : Preemption) (law : s.PreemptLaw → (s.setPre p).PreemptLaw) : Move s (s.setPre p)
  | plans (ps : Table 16 Plan) (law : s.OneActive → ({ s with plans := ps } : State).OneActive) :
      Move s { s with plans := ps }
  | sched (d : Schedule) (law : s.PointsLaw → (s.setSched d).PointsLaw) : Move s (s.setSched d)
  | records (cs : Table 48 Circuit) (keeps : ∀ c, (s.circuit c).Keeps (s.watched c) (cs.get c)) :
      Move s { s with circuits := cs }
  | dim (on : Bool) : Move s (s.setOutput { s.output with dim := on })
  | sup (u : Supervision) : Move s (s.setSup u)
  | channel (ch : Channel) (law : s.ChannelLaw → (s.setChannel ch).ChannelLaw)
      (flight : ch.inFlight = none ∨ ch.inFlight = s.channel.inFlight) : Move s (s.setChannel ch)
  | arbitrate : Move s s.renewOffer.arbitrate
  | junction (j : Junction) (state : j.state = s.junction.state)
      (clearance : j.clearance ≠ none → s.junction.clearance ≠ none ∨ s.junction.state = .startRed
        ∨ s.junction.state = .running) : Move s (s.setJunction j)
  | conflicts (cs : Table 256 (Option Intergreens)) : Move s { s with conflicts := cs }
  | leave (j : JunctionState) (unsupplied : j.supplied = false)
      (idle : s.seq.state = .idle ∨ s.junction.state ≠ .running) : Move s (s.allOff.enterState j)
  | enter (j : JunctionState) (supplied : j.supplied = true)
      (before : s.junction.state.supplied = true ∨ s.junction.clearance ≠ none)
      (idle : j = .running ∨ s.seq.state = .idle ∨ s.junction.state ≠ .running) : Move s (s.enterState j)
  | swap (j : JunctionState) (unsupplied : j.supplied = false) (before : s.junction.state.supplied = false) :
      Move s (s.enterState j)

/-- `t` is reached from `s` by moves. -/
abbrev State.Moves : State → State → Prop := Relation.ReflTransGen State.Move

theorem State.Move.moves {s t : State} (h : s.Move t) : s.Moves t := .single h

theorem each_moves {order : State → GroupIx → State} (h : ∀ (s : State) (g : GroupIx), s.Moves (order s g))
    (gs : List GroupIx) (s : State) : s.Moves (s.each order gs) := by
  unfold State.each
  induction gs generalizing s with
  | nil => exact .refl
  | cons g gs ih => exact (h s g).trans (ih (order s g))

section Links

variable (s : State)

theorem raise_moves (k : Attention) : s.Moves (s.raise k) := (State.Move.link _).moves

theorem answer_moves (r : Reply) : s.Moves (s.answer r) := (State.Move.link _).moves

theorem accept_moves (p : Payload) : s.Moves (s.accept p) := answer_moves s _

end Links

/-! ## Records of circuits -/

theorem Circuit.Keeps.refl (watched : Bool) (k : Circuit) : k.Keeps watched k := ⟨rfl, rfl, .inl, .inl, id⟩

/-- A rewriting of lamp and cable values alone. -/
theorem Circuit.Keeps.of_values {watched : Bool} {k m : Circuit} (drive : m.drive = k.drive)
    (schedule : m.schedule = k.schedule) (watch : m.cable.watchPresented = k.cable.watchPresented)
    (law : k.Law → m.Law) : k.Keeps watched m :=
  ⟨drive, by rw [schedule], by rw [schedule]; exact .inl, by rw [watch]; exact .inl, law⟩

theorem setCircuit_moves (s : State) {c : CircuitIx} {k : Circuit} (h : (s.circuit c).Keeps (s.watched c) k) :
    s.Moves (s.setCircuit c k) := by
  refine (State.Move.records _ fun d => ?_).moves
  rw [Table.get_set]
  by_cases here : d = c
  · rw [if_pos here, here]
    exact h
  · rw [if_neg here]
    exact .refl ..

theorem setLamp_moves (s : State) {c : CircuitIx} {l : LampPart}
    (law : (s.circuit c).Law → ({ s.circuit c with lamp := l } : Circuit).Law) : s.Moves (s.setLamp c l) :=
  setCircuit_moves s (.of_values rfl rfl rfl law)

theorem setCable_moves (s : State) {c : CircuitIx} {k : CablePart}
    (watch : k.watchPresented = (s.circuit c).cable.watchPresented)
    (law : (s.circuit c).Law → ({ s.circuit c with cable := k } : Circuit).Law) : s.Moves (s.setCable c k) :=
  setCircuit_moves s (.of_values rfl rfl watch law)

/-! ## Plans (R44 to R47) -/

/-- No plan becomes ACTIVE that was not. -/
theorem OneActive_of_fewer {s t : State}
    (h : ∀ p : PlanIx, (t.plan p).phase = some .active → (s.plan p).phase = some .active) :
    s.OneActive → t.OneActive := fun law p q hp hq => law p q (h p hp) (h q hq)

theorem phase_toPhase_active {ph : PlanPhase} (ne : ph ≠ .active) (p : Plan) :
    (p.toPhase ph).phase ≠ some .active := by
  cases p with
  | free => simp [Plan.toPhase, Plan.phase]
  | draft b => simp [Plan.toPhase, Plan.phase]
  | valid _ b d => simp [Plan.toPhase, Plan.phase, ne]

theorem phase_unless_active {ph : PlanPhase} {p : Plan} (h : (p.unless ph).phase = some .active) :
    p.phase = some .active ∧ ph ≠ .active := by
  unfold Plan.unless at h
  split at h
  · exact absurd h (phase_toPhase_active (by decide) p)
  · rename_i ne
    exact ⟨h, fun e => ne (by rw [h, e])⟩

theorem setPlan_moves (s : State) {p : PlanIx} {r : Plan} (h : r.phase ≠ some .active) : s.Moves (s.setPlan p r) := by
  refine (State.Move.plans _ (OneActive_of_fewer fun q active => ?_)).moves
  change ((s.setPlan p r).plan q).phase = _ at active
  rw [State.setPlan_plan] at active
  split at active
  · exact absurd active h
  · exact active

theorem returnReady_moves (s : State) (p : PlanIx) : s.Moves (s.returnReady p) :=
  setPlan_moves s (phase_toPhase_active (by decide) _)

theorem makeSelected_moves (s : State) (p : PlanIx) : s.Moves (s.makeSelected p) := by
  unfold State.makeSelected
  split
  · refine (State.Move.plans _ (OneActive_of_fewer fun q active => ?_)).moves
    change (((s.plans.map (Plan.unless .selected)).set p ((s.plan p).toPhase .selected)).get q).phase = _ at active
    rw [Table.get_set] at active
    split at active
    · exact absurd active (phase_toPhase_active (by decide) _)
    · rw [Table.get_map] at active
      exact (phase_unless_active active).1
  · exact .refl

theorem makeActive_moves (s : State) (p : PlanIx) : s.Moves (s.makeActive p) := by
  unfold State.makeActive
  split
  · have first : s.Moves { s with plans := (s.plans.map (Plan.unless .active)).set p ((s.plan p).toPhase .active) } := by
      refine (State.Move.plans _ fun _ q r hq hr => ?_).moves
      have only (x : PlanIx) (active : ((({ s with
          plans := (s.plans.map (Plan.unless .active)).set p ((s.plan p).toPhase .active) } : State).plan x).phase
            = some .active)) : x = p := by
        by_contra ne
        change (((s.plans.map (Plan.unless .active)).set p ((s.plan p).toPhase .active)).get x).phase = _ at active
        rw [Table.get_set, if_neg ne, Table.get_map] at active
        exact (phase_unless_active active).2 rfl
      rw [only q hq, only r hr]
    dsimp only
    split
    · exact first.trans (raise_moves _ _)
    · exact first
  · exact .refl

theorem makeInvoked_moves (s : State) (p : PlanIx) : s.Moves (s.makeInvoked p) := by
  unfold State.makeInvoked
  split
  · exact setPlan_moves s (phase_toPhase_active (by decide) _)
  · exact .refl

theorem demotePlans_moves (s : State) : s.Moves s.demotePlans := by
  have first : s.Moves { s with plans := s.plans.map Plan.demote } := by
    refine (State.Move.plans _ (OneActive_of_fewer fun q active => ?_)).moves
    change ((s.plans.map Plan.demote).get q).phase = _ at active
    rw [Table.get_map] at active
    change (s.plan q).demote.phase = _ at active
    generalize s.plan q = p at active ⊢
    cases p with
    | free => exact active
    | draft b => exact active
    | valid ph b d =>
      cases ph with
      | ready => cases active
      | selected => cases active
      | _ => exact active
  exact first.tail (.seq _ .inl)

/-! ## The guard and the orders (R11 to R15, R31 to R34) -/

theorem gain_moves (s : State) (g : GroupIx) (tg : Instant) : s.Moves (s.gain g tg) := by
  unfold State.gain
  dsimp only
  split
  · exact (State.Move.awaited g _).moves
  · exact .refl

theorem guardWalk_moves (l older : List GuardRequest) (s : State) : s.Moves (guardWalk older l s) := by
  induction l generalizing older s with
  | nil => exact (State.Move.guard _).moves
  | cons r l ih =>
    unfold guardWalk
    split
    · exact (gain_moves s _ _).trans (ih ..)
    · exact ih ..

theorem guardJudge_moves (s : State) : s.Moves s.guardJudge := guardWalk_moves _ _ s

theorem requestGreen_moves (s : State) (g : GroupIx) (change : Instant) : s.Moves (s.requestGreen g change) := by
  unfold State.requestGreen
  split
  · exact .refl
  · split
    · exact .refl
    · exact .head (.guard _) (guardJudge_moves _)

theorem requestAll_moves (gs : List GroupIx) (s : State) (change : Instant) :
    s.Moves (gs.foldl (fun u g => u.requestGreen g change) s) := by
  induction gs generalizing s with
  | nil => exact .refl
  | cons g gs ih => exact (requestGreen_moves s g change).trans (ih _)

theorem dropAwaited_moves (s : State) (g : GroupIx) : s.Moves (s.dropAwaited g) :=
  .head (.awaited g none) (guardJudge_moves _)

theorem setGroup_awaited_self (s : State) (g : GroupIx) (a : Option Instant) :
    ((s.setGroup g { s.group g with awaited := a }).group g) = { s.group g with awaited := a } := by
  rw [State.setGroup_group, if_pos rfl]

/-- An aspect other than GREEN and AMBER, set with the awaited green start dropped. -/
theorem aspectDropped_moves (s : State) {g : GroupIx} {a : Aspect} {k : GroupConfig}
    (config : (s.group g).config = some k) (green : a ≠ .green) (amber : a ≠ .amber) :
    s.Moves ((s.setGroup g { s.group g with awaited := none }).setAspect g a) :=
  .head (.awaited g none) (State.Move.aspect g a k (by rw [setGroup_awaited_self]; exact config) green
    fun h => absurd h amber).moves

theorem cancel_moves (s : State) (g : GroupIx) : s.Moves (s.cancel g) := by
  unfold State.cancel
  split
  · exact .refl
  · exact dropAwaited_moves s g
  · rename_i k config _
    exact aspectDropped_moves s config (by decide) (by decide)
  · exact dropAwaited_moves s g
  all_goals exact .refl

theorem lose_moves (s : State) (g : GroupIx) : s.Moves (s.lose g) := by
  unfold State.lose
  split
  · exact .refl
  · rename_i k config green
    exact (State.Move.aspect g _ k config (by split <;> decide) fun _ => green).moves
  · exact cancel_moves s g
  all_goals exact .refl

theorem showRed_moves (s : State) (g : GroupIx) : s.Moves (s.showRed g) := by
  unfold State.showRed
  split
  · exact .refl
  · rename_i k config _
    exact (State.Move.aspect g _ k config (by decide) fun h => absurd h (by decide)).moves
  · rename_i k config _
    exact (State.Move.aspect g _ k config (by decide) fun h => absurd h (by decide)).moves
  · exact .refl
  · exact lose_moves s g
  · exact .refl
  · exact cancel_moves s g

theorem showFlash_moves (s : State) (g : GroupIx) : s.Moves (s.showFlash g) := by
  unfold State.showFlash
  split
  · exact .refl
  · rename_i k config
    obtain ⟨a, ha⟩ : ∃ a, a = if k.vehicle.isSome then Aspect.flashAmber else Aspect.dark := ⟨_, rfl⟩
    have other : a ≠ .green ∧ a ≠ .amber := by
      rw [ha]
      split <;> exact ⟨by decide, by decide⟩
    dsimp only
    rw [← ha]
    by_cases same : (s.group g).aspect = a
    · rw [if_pos same]
      exact (State.Move.awaited g none).moves
    · rw [if_neg same]
      exact aspectDropped_moves s config other.1 other.2

/-! ## Contexts -/

theorem PreemptLaw_of_invokers {s t : State} (chain : t.pre.chain.map (·.invoker) = s.pre.chain.map (·.invoker))
    (waiting : t.pre.waiting = s.pre.waiting) : s.PreemptLaw → t.PreemptLaw := by
  rintro ⟨length, nodup, sorted⟩
  have engaged : t.engaged = s.engaged := by
    have factors (l : List Context) :
        l.filterMap (fun c => c.invoker.map (·.entry)) = (l.map (·.invoker)).filterMap fun i => i.map (·.entry) := by
      rw [List.filterMap_map]; rfl
    unfold State.engaged
    rw [factors, factors, chain, waiting]
  refine ⟨?_, by rw [engaged]; exact nodup, by rw [waiting]; exact sorted⟩
  have := congrArg List.length chain
  rw [List.length_map, List.length_map] at this
  rw [this]
  exact length

theorem setChain_moves (s : State) {ch : List Context} (h : ch.map (·.invoker) = s.pre.chain.map (·.invoker)) :
    s.Moves (s.setPre { s.pre with chain := ch }) :=
  (State.Move.pre { s.pre with chain := ch }
    (PreemptLaw_of_invokers (t := s.setPre { s.pre with chain := ch }) h rfl)).moves

/-- Items of the preemption unit changed, with none added to the chain or to the pending list. -/
theorem setPre_moves (s : State) {p : Preemption} (chain : p.chain.Sublist s.pre.chain)
    (waiting : p.waiting.Sublist s.pre.waiting) : s.Moves (s.setPre p) := by
  refine (State.Move.pre p ?_).moves
  rintro ⟨length, nodup, sorted⟩
  exact ⟨chain.length_le.trans length, nodup.sublist ((chain.filterMap _).append (waiting.map _)), sorted.sublist waiting⟩

theorem setEntry_moves (s : State) (e : EntryIx) (r : Entry) : s.Moves (s.setEntry e r) :=
  setPre_moves s (List.Sublist.refl _) (List.Sublist.refl _)

/-- A context of the chain rewritten with its invoker. -/
theorem invokers_set {l : List Context} {n : Nat} {c d : Context} (h : l[n]? = some c) (same : d.invoker = c.invoker) :
    (l.set n d).map (·.invoker) = l.map (·.invoker) := by
  rw [List.map_set, same]
  refine List.ext_getElem? fun i => ?_
  rw [List.getElem?_set]
  split
  · rename_i e
    subst e
    rw [List.getElem?_map, h]
    obtain ⟨lt, -⟩ := List.getElem?_eq_some_iff.1 h
    simp [lt]
  · rfl

/-! ## The sequencer -/

/-- The sequencer's items changed, but for its state. -/
theorem setSeq_moves (s : State) {q : Sequencer} (same : q.state = s.seq.state) : s.Moves (s.setSeq q) :=
  (State.Move.seq q fun ne => .inl (by rwa [← same])).moves

/-! ## Stages and interstages (R62 to R68, R80, R93 to R96, R102) -/

theorem beginStage_moves {s : State} (runs : s.Runs) : s.Moves s.beginStage := by
  unfold State.beginStage
  split
  · exact (State.Move.seq _ fun _ => runs).moves
  · rename_i c running
    split
    · exact (State.Move.seq _ fun _ => runs).moves
    · split
      · exact (State.Move.seq _ fun _ => runs).moves
      · dsimp only
        split
        · refine .head (.seq _ fun _ => runs) (setChain_moves _ ?_)
          exact invokers_set running rfl
        · exact (State.Move.seq _ fun _ => runs).moves

theorem Aspects_runs {s t : State} (h : s.Aspects t) (runs : s.Runs) : t.Runs := by
  rw [State.Aspects] at h
  unfold State.Runs
  rw [h]
  exact runs

theorem losesNow_moves (s : State) (losing : List GroupIx) (delayed : Bool) : s.Moves (s.losesNow losing delayed) := by
  unfold State.losesNow
  split
  · exact each_moves lose_moves losing s
  · exact .refl

theorem opened_moves {s : State} (runs : s.Runs) (stage : Nat) (losing gaining : List GroupIx) (delayed : Bool)
    (resumed slackLength : Option Nat) : s.Moves (s.opened stage losing gaining delayed resumed slackLength) := by
  unfold State.opened
  exact ((losesNow_moves s losing delayed).tail
    (.seq _ fun _ => Aspects_runs (losesNow_aspects s losing delayed) runs)).trans (requestAll_moves gaining _ s.now)

theorem openInterstage_moves {s : State} (runs : s.Runs) (stage : Nat) (losing gaining : List GroupIx) (delayed : Bool)
    (resumed slackLength : Option Nat) :
    s.Moves (s.openInterstage stage losing gaining delayed resumed slackLength) := by
  rw [openInterstage_eq]
  have first := opened_moves runs stage losing gaining delayed resumed slackLength
  split
  · refine first.trans (beginStage_moves (.inl ?_))
    rw [opened_frame]
    simp [Sequencer.opened]
  · exact first

theorem resync_moves (s : State) : s.Moves s.resync := by
  unfold State.resync
  split
  · exact .refl
  · exact setSeq_moves s rfl

theorem resync_runs {s : State} (runs : s.Runs) : s.resync.Runs := by
  unfold State.resync
  split <;> exact runs

theorem makeActive_runs {s : State} (runs : s.Runs) (p : PlanIx) : (s.makeActive p).Runs := by
  unfold State.makeActive
  split
  · dsimp only
    split <;> exact runs
  · exact runs

theorem switchPlan_moves (s : State) (p : PlanIx) : s.Moves (s.switchPlan p) := by
  unfold State.switchPlan
  dsimp only
  refine .trans ?_ (resync_moves _)
  refine .trans ?_ (raise_moves _ _)
  refine .trans ?_ (setChain_moves _ ?_)
  · exact (makeActive_moves s p).trans (setSeq_moves _ (by rfl))
  · rw [List.map_map]
    refine List.map_congr_left fun c _ => ?_
    dsimp only [Function.comp]
    split <;> rfl

theorem switchPlan_runs {s : State} (runs : s.Runs) (p : PlanIx) : (s.switchPlan p).Runs := by
  unfold State.switchPlan
  refine resync_runs ?_
  exact makeActive_runs runs p

theorem atBoundary_moves (s : State) : s.Moves s.atBoundary := by
  unfold State.atBoundary
  split
  · split
    · exact .refl
    · exact switchPlan_moves s _
  · exact .refl

theorem atBoundary_runs {s : State} (runs : s.Runs) : s.atBoundary.Runs := by
  unfold State.atBoundary
  split
  · split
    · exact runs
    · exact switchPlan_runs runs _
  · exact runs

theorem transition_moves {s : State} (runs : s.Runs) (before : List GroupIx) (i : Nat) (after : List GroupIx) :
    s.Moves (s.transition before i after) := openInterstage_moves runs ..

theorem endBaseStage_moves {s : State} (runs : s.Runs) (b : PlanBody) : s.Moves (s.endBaseStage b) := by
  obtain ⟨t, ht⟩ : ∃ t, t = if s.seq.stage.getD 1 < b.count then s else s.atBoundary := ⟨_, rfl⟩
  have first : s.Moves t ∧ t.Runs := by
    rw [ht]
    split
    · exact ⟨.refl, runs⟩
    · exact ⟨atBoundary_moves s, atBoundary_runs runs⟩
  unfold State.endBaseStage
  dsimp only
  rw [← ht]
  split
  · exact first.1
  · refine .trans ?_ (transition_moves ?_ _ _ _)
    · exact first.1.trans (setSeq_moves t (by rfl))
    · exact first.2

theorem endStage_moves {s : State} (runs : s.Runs) : s.Moves s.endStage := by
  unfold State.endStage
  split
  · exact .refl
  · split
    · exact .refl
    · split
      · exact endBaseStage_moves runs _
      · exact transition_moves runs ..

theorem saveRunning_moves (s : State) : s.Moves s.saveRunning := by
  unfold State.saveRunning
  split
  · exact .refl
  · rename_i c running
    exact setChain_moves s (invokers_set running rfl)

theorem truncate_moves {s : State} (runs : s.Runs) : s.Moves s.truncate := by
  unfold State.truncate
  split
  · exact .refl
  · split
    · exact .refl
    · dsimp only
      refine .trans ?_ (openInterstage_moves ?_ _ _ _ _ _ _)
      · exact setSeq_moves s (by rfl)
      · exact runs

theorem beginStage_runs (s : State) : s.beginStage.Runs := by
  left
  rw [beginStage_frame]
  simp

theorem saveRunning_runs {s : State} (runs : s.Runs) : s.saveRunning.Runs := by
  unfold State.saveRunning
  split <;> exact runs

theorem endInterstage_moves {s : State} (runs : s.Runs) : s.Moves s.endInterstage := by
  have first := beginStage_moves runs
  unfold State.endInterstage
  dsimp only
  split
  · exact first
  · exact (first.trans (saveRunning_moves _)).trans (truncate_moves (saveRunning_runs (beginStage_runs s)))

theorem judgeInterstage_moves (s : State) : s.Moves s.judgeInterstage := by
  unfold State.judgeInterstage
  split
  · rename_i h
    exact endInterstage_moves (.inl (by rw [h.1]; decide))
  · exact .refl

theorem resumeTop_moves {s : State} (runs : s.Runs) : s.Moves s.resumeTop := by
  unfold State.resumeTop
  split
  · exact .refl
  · split
    · exact .refl
    · dsimp only
      refine .trans ?_ (openInterstage_moves (resync_runs ?_) _ _ _ _ _ _)
      · exact (setSeq_moves s (by rfl)).trans (resync_moves _)
      · exact runs

theorem PreemptLaw_base {s : State} {c : Context} (base : c.invoker = none) :
    s.PreemptLaw → (s.setPre { s.pre with chain := [c] }).PreemptLaw := by
  rintro ⟨-, nodup, sorted⟩
  refine ⟨by simp [State.setPre], ?_, sorted⟩
  have engaged : (s.setPre { s.pre with chain := [c] }).engaged = s.pre.waiting.map (·.entry) := by
    simp [State.engaged, State.setPre, base]
  rw [engaged]
  exact (List.nodup_append.1 nodup).2.1

theorem startSequence_moves {s : State} (running : s.junction.state = .running) : s.Moves s.startSequence := by
  unfold State.startSequence
  split
  · exact .refl
  · rename_i p _
    obtain ⟨base, hb⟩ : ∃ base : Context, base = {
        plan := p, invoker := none, stage := 1, elapsed := 0, slackLength := none, position := none
        excess := 0, inDwell := false, dwell := 0 } := ⟨_, rfl⟩
    have first : s.Moves ((s.makeActive p).setPre { (s.makeActive p).pre with chain := [base] }) :=
      (makeActive_moves s p).tail (.pre _ (PreemptLaw_base (by rw [hb])))
    have runs : ((s.makeActive p).setPre { (s.makeActive p).pre with chain := [base] }).Runs :=
      makeActive_runs (.inr running) p
    dsimp only
    rw [← hb]
    generalize (s.makeActive p).setPre { (s.makeActive p).pre with chain := [base] } = t at first runs ⊢
    split
    · exact first
    · refine .trans ?_ (openInterstage_moves ?_ _ _ _ _ _ _)
      · exact first.trans (setSeq_moves t (by rfl))
      · exact runs

/-! ## Preemptions (R88 to R103) -/

theorem pushed_moves (s : State) (e : EntryIx) (c : EntryConfig) :
    (s.setPre { s.pre with chain := c.context e :: s.pre.chain }).Moves (s.pushContext e c) := by
  unfold State.pushContext
  dsimp only
  refine .trans ?_ (resync_moves _)
  refine .trans ?_ (setSeq_moves _ (by rfl))
  exact (makeInvoked_moves _ _).trans (raise_moves _ _)

theorem pushContext_runs {s : State} (runs : s.Runs) (e : EntryIx) (c : EntryConfig) : (s.pushContext e c).Runs := by
  have state := pushContext_seq_state s e c
  have frame := pushContext_frame s e c
  unfold State.Runs
  rw [state, frame]
  exact runs

/-- A context pushed for an entry that is not engaged, over fewer than three (R90, R94). -/
theorem PreemptLaw_push {s : State} {e : EntryIx} {c : Context} {n : Nat} {w : List Waiting}
    (invoker : c.invoker = some { entry := e, priority := n }) (short : s.pre.chain.length < 3)
    (sub : w.Sublist s.pre.waiting) (fresh : e ∉ s.pre.chain.filterMap fun c => c.invoker.map (·.entry))
    (alone : e ∉ w.map (·.entry)) (law : s.PreemptLaw) :
    (s.setPre { s.pre with chain := c :: s.pre.chain, waiting := w }).PreemptLaw := by
  obtain ⟨-, nodup, sorted⟩ := law
  refine ⟨by simpa [State.setPre] using short, ?_, sorted.sublist sub⟩
  have engaged : (s.setPre { s.pre with chain := c :: s.pre.chain, waiting := w }).engaged =
      e :: ((s.pre.chain.filterMap fun c => c.invoker.map (·.entry)) ++ w.map (·.entry)) := by
    simp [State.engaged, State.setPre, invoker]
  rw [engaged, List.nodup_cons, List.mem_append, not_or]
  exact ⟨⟨fresh, alone⟩, nodup.sublist ((sub.map _).append_left _)⟩

theorem entryCheck_none {s : State} {e : EntryIx} (h : s.entryCheck e = none) :
    s.junction.state = .running ∧ s.pre.chain.length < 3 := by
  unfold State.entryCheck at h
  split at h
  · cases h
  · split at h
    · cases h
    · split at h
      · cases h
      · rename_i running
        split at h
        · cases h
        · split at h
          · cases h
          · split at h
            · cases h
            · split at h
              · cases h
              · rename_i short
                rw [not_or, not_not] at running
                exact ⟨running.1, not_le.1 short⟩

theorem beginTruncation_moves {s : State} (runs : s.Runs) : s.Moves s.beginTruncation := by
  unfold State.beginTruncation
  split
  · exact setSeq_moves s rfl
  · exact truncate_moves runs

theorem saveTop_moves (s : State) : s.Moves s.saveTop := by
  unfold State.saveTop
  split
  · exact saveRunning_moves s
  · exact .refl

theorem saveTop_runs {s : State} (runs : s.Runs) : s.saveTop.Runs := by
  unfold State.saveTop
  split
  · exact saveRunning_runs runs
  · exact runs

theorem acceptEntry_moves {s : State} {e : EntryIx} (check : s.entryCheck e = none) (fresh : e ∉ s.engaged)
    (c : EntryConfig) : s.Moves (s.acceptEntry e c) := by
  obtain ⟨running, short⟩ := entryCheck_none check
  obtain ⟨frame, purposes⟩ := saveTop_frame s
  have invokers : s.saveTop.pre.chain.map (·.invoker) = s.pre.chain.map (·.invoker) := by
    have := congrArg (List.map Prod.snd) purposes
    rw [List.map_map, List.map_map] at this
    exact this
  have factors (l : List Context) :
      l.filterMap (fun c => c.invoker.map (·.entry)) = (l.map (·.invoker)).filterMap fun i => i.map (·.entry) := by
    rw [List.filterMap_map]; rfl
  have runs := saveTop_runs (s := s) (.inr running)
  refine ((saveTop_moves s).tail (.pre { s.saveTop.pre with chain := c.context e :: s.saveTop.pre.chain } ?_)).trans
    ((pushed_moves _ e c).trans (beginTruncation_moves (pushContext_runs runs e c)))
  have waiting : s.saveTop.pre.waiting = s.pre.waiting := by rw [frame]; rfl
  unfold State.engaged at fresh
  rw [List.mem_append, not_or] at fresh
  refine PreemptLaw_push (e := e) (n := c.priority) rfl ?_ (List.Sublist.refl _) ?_ ?_
  · have := congrArg List.length invokers
    rw [List.length_map, List.length_map] at this
    rw [this]
    exact short
  · rw [factors, invokers, ← factors]
    exact fresh.1
  · rw [waiting]
    exact fresh.2

theorem refuseEntry_moves (s : State) (e : EntryIx) (code : PCode) : s.Moves (s.refuseEntry e code) :=
  (setPre_moves s (p := { s.pre with lastRefusal := some (e, code) }) (List.Sublist.refl _) (List.Sublist.refl _)).trans
    (raise_moves _ _)

theorem joinPending_moves {s : State} {e : EntryIx} (fresh : e ∉ s.engaged) : s.Moves (s.joinPending e) := by
  refine (State.Move.pre _ ?_).moves
  rintro ⟨length, nodup, sorted⟩
  have perm := joinWaiting_perm { entry := e, priority := s.entryPriority e } s.pre.waiting
  refine ⟨length, ?_, ?_⟩
  · have moved : ((s.setPre { s.pre with
        waiting := joinWaiting { entry := e, priority := s.entryPriority e } s.pre.waiting }).engaged).Perm (e :: s.engaged) :=
      ((perm.map (·.entry)).append_left _).trans List.perm_middle
    exact moved.nodup_iff.2 (List.nodup_cons.2 ⟨fresh, nodup⟩)
  · change (joinWaiting _ s.pre.waiting).Pairwise _
    rw [joinWaiting_sorted _ sorted, List.pairwise_append, List.pairwise_cons]
    refine ⟨sorted.filter _, ⟨fun y mem => ?_, sorted.filter _⟩, fun y hy z hz => ?_⟩
    · have := (List.mem_filter.1 mem).2
      exact Nat.le_of_lt (of_decide_eq_true this)
    · have above := of_decide_eq_true (List.mem_filter.1 hy).2
      rcases List.mem_cons.1 hz with rfl | hz
      · exact above
      · exact (Nat.le_of_lt (of_decide_eq_true (List.mem_filter.1 hz).2)).trans above

theorem judgeEntry_moves {s : State} {e : EntryIx} (fresh : e ∉ s.engaged) : s.Moves (s.judgeEntry e) := by
  unfold State.judgeEntry
  split
  · exact refuseEntry_moves s e _
  · exact joinPending_moves fresh
  · rename_i accepted
    split
    · refine acceptEntry_moves ?_ fresh _
      unfold State.judgement at accepted
      split at accepted
      · cases accepted
      · cases accepted
      · assumption
    · exact .refl

theorem setAsserted_moves (s : State) (e : EntryIx) (b : Bool) : s.Moves (s.setAsserted e b) :=
  setEntry_moves ..

theorem judgeUnengaged_moves (s : State) (e : EntryIx) :
    s.Moves (if s.inChain e || s.isWaiting e then s else s.judgeEntry e) := by
  split
  · exact .refl
  · rename_i free
    exact judgeEntry_moves fun mem => free ((engaged_iff s e).2 mem)

theorem assertEntry_moves (s : State) (e : EntryIx) : s.Moves (s.assertEntry e) :=
  (setAsserted_moves s e true).trans (judgeUnengaged_moves _ e)

theorem releaseEntry_moves (s : State) (e : EntryIx) : s.Moves (s.releaseEntry e) :=
  (setEntry_moves s e _).trans (setPre_moves _ (by exact List.Sublist.refl _) (by exact List.filter_sublist))

theorem judgeAsserted_moves (s : State) : s.Moves s.judgeAsserted := by
  unfold State.judgeAsserted
  generalize s.assertedEntries = l
  induction l generalizing s with
  | nil => exact .refl
  | cons e l ih => exact (judgeUnengaged_moves s e).trans (ih _)

theorem popTop_moves (s : State) : s.Moves s.popTop := by
  unfold State.popTop
  split
  · exact .refl
  · rename_i c rest chain
    refine .trans (.trans ?_ (returnReady_moves _ _)) (raise_moves _ _)
    exact setPre_moves s (by rw [chain]; exact List.sublist_cons_self c rest) (List.Sublist.refl _)

theorem popTop_runs {s : State} (runs : s.Runs) : s.popTop.Runs := by
  unfold State.popTop
  split <;> exact runs

/-- An element of the pending list accepted in a return leaves it as its context is pushed (R100). -/
theorem acceptWaiting_moves {s : State} {w : Waiting} {l : List Waiting} (list : s.pre.waiting = w :: l)
    (check : s.entryCheck w.entry = none) (c : EntryConfig) :
    s.Moves ((s.setPre { s.pre with waiting := l }).acceptWaiting w.entry c) := by
  obtain ⟨running, short⟩ := entryCheck_none check
  have runs : (s.setPre { s.pre with waiting := l }).Runs := .inr running
  refine .trans (State.Move.pre { s.pre with chain := c.context w.entry :: s.pre.chain, waiting := l } fun law => ?_).moves
    ((pushed_moves (s.setPre { s.pre with waiting := l }) w.entry c).trans
      (truncate_moves (pushContext_runs runs w.entry c)))
  have nodup := law.2.1
  unfold State.engaged at nodup
  rw [list, List.map_cons] at nodup
  obtain ⟨-, own, apart⟩ := List.nodup_append.1 nodup
  refine PreemptLaw_push (e := w.entry) (n := c.priority) rfl short (by rw [list]; exact List.sublist_cons_self w l) ?_ ?_ law
  · exact fun mem => apart _ mem _ List.mem_cons_self rfl
  · exact (List.nodup_cons.1 own).1

theorem serveWaiting_moves (l : List Waiting) (s : State) (list : s.pre.waiting = l) : s.Moves (serveWaiting l s).2 := by
  induction l generalizing s with
  | nil => exact setPre_moves s (by exact List.Sublist.refl _) (by exact List.nil_sublist _)
  | cons w l ih =>
    have dropped : s.Moves (s.setPre { s.pre with waiting := l }) :=
      setPre_moves s (List.Sublist.refl _) (by rw [list]; exact List.sublist_cons_self w l)
    have kept : s.Moves (s.setPre { s.pre with waiting := w :: l }) :=
      setPre_moves s (List.Sublist.refl _) (by rw [list])
    unfold serveWaiting
    split
    · split
      · exact kept
      · exact (dropped.trans (refuseEntry_moves _ _ _)).trans (ih _ rfl)
      · rename_i check
        split
        · exact acceptWaiting_moves list check _
        · exact .refl
    · exact kept

theorem serveWaiting_runs (l : List Waiting) (s : State) (unserved : (serveWaiting l s).1 = false) (runs : s.Runs) :
    (serveWaiting l s).2.Runs := by
  induction l generalizing s with
  | nil => exact runs
  | cons w l ih =>
    unfold serveWaiting at unserved ⊢
    by_cases above : s.outranks w.priority = true
    · rw [if_pos above] at unserved ⊢
      cases check : s.entryCheck w.entry with
      | some code =>
        rw [check] at unserved
        cases code with
        | depth => exact runs
        | _ => exact ih _ unserved runs
      | none =>
        rw [check] at unserved
        dsimp only at unserved ⊢
        split
        · rename_i config
          rw [config] at unserved
          cases unserved
        · exact runs
    · rw [if_neg above]
      exact runs

theorem returnThrough_moves (l : List Context) {s : State} (runs : s.Runs) : s.Moves (returnThrough l s) := by
  induction l generalizing s with
  | nil => exact .refl
  | cons c rest ih =>
    have served := serveWaiting_moves s.pre.waiting s rfl
    have runs' := serveWaiting_runs s.pre.waiting s
    unfold returnThrough
    cases tried : serveWaiting s.pre.waiting s with
    | mk b t =>
      rw [tried] at served runs'
      cases b with
      | true => exact served
      | false =>
        dsimp only
        split
        · exact (served.trans (popTop_moves t)).trans (ih (popTop_runs (runs' rfl runs)))
        · exact served.trans (resumeTop_moves (runs' rfl runs))

theorem endPreemption_moves {s : State} (runs : s.Runs) : s.Moves s.endPreemption :=
  (popTop_moves s).trans (returnThrough_moves _ (popTop_runs runs))

theorem reachMaxDwell_moves {s : State} (runs : s.Runs) : s.Moves s.reachMaxDwell := by
  unfold State.reachMaxDwell
  split
  · exact .refl
  · rename_i i _
    have first : s.Moves (((s.setEntry i.entry { s.entry i.entry with stuck := true }).raise .preemptStuck).setSeq
        { ((s.setEntry i.entry { s.entry i.entry with stuck := true }).raise .preemptStuck).seq with dwellOver := true }) :=
      ((setEntry_moves s _ _).trans (raise_moves _ _)).trans (setSeq_moves _ (by rfl))
    dsimp only
    split
    · exact first.trans (endPreemption_moves runs)
    · exact first

theorem returnPlans_moves (l : List Context) (s : State) : s.Moves (s.returnPlans l) := by
  unfold State.returnPlans
  induction l generalizing s with
  | nil => exact .refl
  | cons c l ih =>
    rw [List.foldl_cons]
    split
    · exact (returnReady_moves s _).trans (ih _)
    · exact ih s

theorem raiseEnd_moves (l : List Context) (s : State) : s.Moves (s.raiseEnd l) := by
  unfold State.raiseEnd
  split
  · exact raise_moves s _
  · exact .refl

theorem removePreemptions_moves (s : State) : s.Moves s.removePreemptions := by
  have first : s.Moves (((s.setPre { s.pre with
      chain := s.pre.chain.filter fun c => c.invoker.isNone, waiting := [] }).returnPlans s.pre.chain).raiseEnd s.pre.chain) :=
    ((setPre_moves s (by exact List.filter_sublist) (by exact List.nil_sublist _)).trans
      (returnPlans_moves _ _)).trans (raiseEnd_moves _ _)
  unfold State.removePreemptions
  dsimp only
  split
  · split
    · exact first.trans (setSeq_moves _ (by rfl))
    · exact first
  · exact first

theorem emptyChain_moves (s : State) : s.Moves s.emptyChain :=
  ((setPre_moves s (by exact List.nil_sublist _) (by exact List.nil_sublist _)).trans
    (returnPlans_moves _ _)).trans (raiseEnd_moves _ _)

end Sys2Proof.Machine
end


section
/-! The functions of the schedule, of the junction states and of the end of a step are made of moves. -/

namespace Sys2Proof.Machine

/-! ## Selections and switch points (R79, R80, R105 to R114) -/

theorem dropPending_moves (s : State) : s.Moves s.dropPending := by
  unfold State.dropPending
  split
  · exact (returnReady_moves s _).trans (setSeq_moves _ (by rfl))
  · exact .refl

theorem makeCurrent_moves (s : State) (p : PlanIx) : s.Moves (s.makeCurrent p) := by
  have first : s.Moves (s.setSeq { s.seq with current := some p }) := setSeq_moves s (by rfl)
  unfold State.makeCurrent
  dsimp only
  split
  · exact first
  · exact first.trans (raise_moves _ _)

theorem selectRunning_moves (s : State) (p : PlanIx) : s.Moves (s.selectRunning p) := by
  unfold State.selectRunning
  split
  · exact (makeSelected_moves s p).trans (setSeq_moves _ (by rfl))
  · exact dropPending_moves s
  · exact .refl

theorem selectPlan_moves (s : State) (p : PlanIx) : s.Moves (s.selectPlan p) := by
  unfold State.selectPlan
  split
  · exact selectRunning_moves s p
  · exact makeCurrent_moves s p

/-- Items of the schedule changed, but for the switch points. -/
theorem setSched_moves (s : State) {d : Schedule} (points : d.points = s.sched.points) : s.Moves (s.setSched d) := by
  refine (State.Move.sched d fun law => ?_).moves
  unfold State.PointsLaw at law ⊢
  change d.points.Pairwise _ ∧ d.points.length ≤ 24
  rw [points]
  exact law

theorem setOwed_moves (s : State) (b : Bool) : s.Moves (s.setOwed b) := setSched_moves s rfl

theorem scheduleSelect_moves (s : State) (p : PlanIx) : s.Moves (s.scheduleSelect p) := by
  unfold State.scheduleSelect
  split
  · exact .refl
  · exact setOwed_moves s true
  · exact (selectPlan_moves s p).trans (setOwed_moves _ false)
  · exact (raise_moves s _).trans (setOwed_moves _ false)

theorem payOwed_moves (s : State) : s.Moves s.payOwed := by
  unfold State.payOwed
  split
  · split
    · exact scheduleSelect_moves s _
    · exact setOwed_moves s false
  · exact .refl

theorem atDimChange_keeps (watched : Bool) (k : Circuit) : k.Keeps watched k.atDimChange := by
  refine ⟨rfl, rfl, fun h => absurd rfl h, .inl, ?_⟩
  rintro ⟨own, full, dim, -, count, counted, training⟩
  exact ⟨own, full, dim, Nat.zero_le _, count, counted, training⟩

/-- Every circuit's record rewritten alike. -/
theorem mapCircuits_moves (s : State) {f : Circuit → Circuit} (h : ∀ c, (s.circuit c).Keeps (s.watched c) (f (s.circuit c))) :
    s.Moves { s with circuits := s.circuits.map f } := by
  refine (State.Move.records _ fun c => ?_).moves
  rw [Table.get_map]
  exact h c

theorem setDim_moves (s : State) (on : Bool) : s.Moves (s.setDim on) := by
  unfold State.setDim
  split
  · exact .refl
  · refine .tail (.trans (State.Move.dim on).moves (mapCircuits_moves _ fun c => ?_)) (.sup _)
    exact atDimChange_keeps ..

theorem applyPoint_moves (s : State) (x : SwitchPoint) : s.Moves (s.applyPoint x) := by
  have dims (t : State) : t.Moves (t.dimAction x.dim) := by
    unfold State.dimAction
    split
    · exact setDim_moves t true
    · exact setDim_moves t false
    · exact .refl
  unfold State.applyPoint
  exact ((setSched_moves s (by rfl)).trans (dims _)).trans (scheduleSelect_moves _ _)

theorem judgeCurrent_moves (s : State) (replaced : Option Nat) : s.Moves (s.judgeCurrent replaced) := by
  unfold State.judgeCurrent
  split
  · exact setSched_moves s rfl
  · split
    · exact applyPoint_moves s _
    · exact .refl

theorem reachMinute_moves (s : State) : s.Moves s.reachMinute := by
  unfold State.reachMinute
  split
  · split
    · exact applyPoint_moves s _
    · exact .refl
  · exact .refl

/-! ## Junction states (R165 to R171) -/

theorem exitRunning_moves (s : State) : s.Moves s.exitRunning := by
  unfold State.exitRunning
  split
  · dsimp only
    refine .tail ?_ (.seq _ fun h => absurd rfl h)
    refine .trans ((emptyChain_moves s).trans (dropPending_moves _)) ?_
    split
    · exact returnReady_moves _ _
    · exact .refl
  · exact .refl

theorem exitRunning_idle (s : State) : s.exitRunning.seq.state = .idle ∨ s.exitRunning.junction.state ≠ .running := by
  by_cases h : s.junction.state = .running
  · left
    rw [exitRunning_seq h]
    rfl
  · right
    rw [exitRunning_outside h]
    exact h

theorem leaveSupplied_moves (s : State) {j : JunctionState} (unsupplied : j.supplied = false) :
    s.Moves (s.leaveSupplied j) :=
  ((exitRunning_moves s).tail (.leave j unsupplied (exitRunning_idle s))).trans (payOwed_moves _)

theorem enterFlash_moves {s : State} (before : s.junction.clearance ≠ none) : s.Moves s.enterFlash := by
  unfold State.enterFlash
  dsimp only
  refine .trans (.trans ?_ (each_moves showFlash_moves _ _)) (payOwed_moves _)
  refine (exitRunning_moves s).tail (.enter .flash rfl (.inr ?_) (.inr (exitRunning_idle s)))
  rw [exitRunning_frame]
  exact before

theorem clearReds_moves (s : State) : s.Moves s.clearReds := by
  refine (State.Move.records _ fun c => ?_).moves
  rw [Table.get_ofFn]
  split
  · refine .of_values rfl rfl rfl ?_
    rintro ⟨own, full, dim, -, count, counted, training⟩
    exact ⟨own, full, dim, Nat.zero_le _, count, counted, training⟩
  · exact .refl ..

theorem enterStartRed_moves {s : State} (before : s.junction.state.supplied = true) (idle : s.junction.state ≠ .running) :
    s.Moves s.enterStartRed := by
  unfold State.enterStartRed
  dsimp only
  refine .trans ?_ (each_moves showRed_moves _ _)
  exact .head (.enter .startRed rfl (.inl before) (.inr (.inr idle))) (clearReds_moves _)

theorem enterRunning_moves {s : State} (before : s.junction.state.supplied = true) : s.Moves s.enterRunning := by
  unfold State.enterRunning
  refine .trans (.trans ?_ (judgeAsserted_moves _)) (payOwed_moves _)
  exact .head (.enter .running rfl (.inl before) (.inl rfl)) (startSequence_moves rfl)

/-! ## Lockout causes and the end of a step (R122, R145, R171, R172) -/

/-- Items of the junction record changed, but for its state and the flash clearance. -/
theorem setJunction_moves (s : State) {j : Junction} (state : j.state = s.junction.state)
    (clearance : j.clearance = s.junction.clearance) : s.Moves (s.setJunction j) :=
  (State.Move.junction j state fun h => .inl (by rwa [← clearance])).moves

theorem recordLockout_moves (s : State) (x : Cause) : s.Moves (s.recordLockout x) :=
  (setJunction_moves s (by rfl) (by rfl)).trans (raise_moves _ _)

theorem furtherCause_moves (s : State) : s.Moves s.furtherCause := setJunction_moves s rfl rfl

theorem handCause_moves (s : State) (x : Cause) : s.Moves (s.handCause x) := by
  unfold State.handCause
  split
  · exact (recordLockout_moves s x).trans (leaveSupplied_moves _ rfl)
  · split
    · exact furtherCause_moves s
    · exact .refl

theorem handCauses_moves (l : List Cause) (s : State) : s.Moves (s.handCauses l) := by
  unfold State.handCauses
  induction l generalizing s with
  | nil => exact .refl
  | cons x l ih => exact (handCause_moves s x).trans (ih _)

theorem judgeReds_moves (s : State) (gs : List GroupIx) (changed : Option CircuitIx) : s.Moves (s.judgeReds gs changed) := by
  unfold State.judgeReds
  dsimp only
  split
  · exact .refl
  · refine .trans ?_ (handCauses_moves _ _)
    split
    · exact .refl
    · exact State.Move.drawn.moves

theorem judgeCircuit_moves (s : State) (c : CircuitIx) (changed : Option CircuitIx) :
    s.Moves (s.judgeCircuit c changed) := by
  unfold State.judgeCircuit
  split
  · exact judgeReds_moves s _ _
  · exact .refl

theorem settle_moves (before s : State) : s.Moves (before.settle s) :=
  (judgeReds_moves s _ none).tail .arbitrate

end Sys2Proof.Machine
end


section
/-! The modes, the flash clearance, the request lines and the clock are made of moves. -/

namespace Sys2Proof.Machine

/-! ## Modes (R69, R76 to R78) -/

theorem setMode_moves (s : State) (m : Mode) : s.Moves (s.setMode m) := setJunction_moves s rfl rfl

theorem intoStepped_moves (s : State) : s.Moves s.intoStepped := by
  unfold State.intoStepped
  dsimp only
  refine .trans (setSeq_moves s (by rfl)) (setChain_moves _ ?_)
  rw [List.map_map]
  refine List.map_congr_left fun c _ => ?_
  dsimp only [Function.comp, Context.withoutCycle]
  split <;> rfl

theorem outOfSync_moves (s : State) : s.Moves s.outOfSync := setSeq_moves s rfl

theorem intoSync_moves (s : State) : s.Moves s.intoSync := setSeq_moves s rfl

theorem outOfStepped_moves (s : State) : s.Moves s.outOfStepped := by
  have first : s.Moves (s.setSeq { s.seq with latch := false, excess := 0, remainder := none }) := setSeq_moves s (by rfl)
  unfold State.outOfStepped
  dsimp only
  split
  · exact first
  · split
    · refine first.trans (setSeq_moves _ ?_)
      unfold Sequencer.reestablish
      dsimp only
      split <;> rfl
    · exact first

theorem stageEndDue_runs {s : State} (due : s.stageEndDue = true) : s.Runs := by
  left
  unfold State.stageEndDue at due
  intro idle
  simp [idle] at due

theorem endIfDue_moves (s : State) : s.Moves s.endIfDue := by
  unfold State.endIfDue
  split
  · rename_i due
    exact endStage_moves (stageEndDue_runs due)
  · exact .refl

theorem modeEffect_moves (s : State) (m : Mode) : s.Moves (s.modeEffect m) := by
  unfold State.modeEffect
  dsimp only
  refine (setMode_moves s m).trans ?_
  split
  · exact intoStepped_moves _
  · exact ((outOfSync_moves _).trans (outOfStepped_moves _)).trans (endIfDue_moves _)
  · exact ((outOfStepped_moves _).trans (intoSync_moves _)).trans (endIfDue_moves _)
  · exact outOfSync_moves _
  · exact intoSync_moves _

theorem changeMode_moves (s : State) (m : Mode) : s.Moves (s.changeMode m) := by
  unfold State.changeMode
  split
  · exact modeEffect_moves s m
  · exact setMode_moves s m

theorem setLatch_moves (s : State) (b : Bool) : s.Moves (s.setLatch b) := setSeq_moves s rfl

theorem sequencing_runs {s : State} (h : s.sequencing = true) : s.Runs := by
  left
  rcases (sequencing_iff s).1 h with h | h <;> rw [h] <;> decide

theorem loseSync_moves (s : State) : s.Moves s.loseSync := (setSeq_moves s (by rfl)).trans (raise_moves _ _)

theorem acceptPulse_moves (s : State) (b : PlanBody) (x : BaseDerived) : s.Moves (s.acceptPulse b x) := by
  unfold State.acceptPulse
  dsimp only
  refine .trans ?_ (setSeq_moves _ (by rfl))
  have first : s.Moves (if s.positionNow.isSome || x.stretched || s.preempted then s else s.drawn) := by
    split
    · exact .refl
    · exact State.Move.drawn.moves
  generalize (if s.positionNow.isSome || x.stretched || s.preempted then s else s.drawn) = t at first ⊢
  split
  · exact first.trans (raise_moves t _)
  · exact first

theorem pulse_moves (s : State) : s.Moves s.pulse := by
  unfold State.pulse
  split
  · split
    · exact .refl
    · split
      · exact .refl
      · exact acceptPulse_moves s _ _
  · exact .refl

/-! ## The flash clearance (R81, R169) -/

theorem setClearance_moves {s : State} (x : FlashClearance)
    (before : s.junction.clearance ≠ none ∨ s.junction.state = .startRed ∨ s.junction.state = .running) :
    s.Moves (s.setClearance x) :=
  (State.Move.junction { s.junction with clearance := some x } rfl fun _ => before).moves

theorem clearanceCheck_moves (s : State) : s.Moves s.clearanceCheck := by
  unfold State.clearanceCheck
  split
  · rename_i h
    exact setClearance_moves _ (.inl (by rw [h.1]; decide))
  · exact .refl

theorem loseGreens_moves (s : State) : s.Moves s.loseGreens := each_moves lose_moves _ s

theorem beginClearance_moves {s : State} (running : s.junction.state = .running) : s.Moves s.beginClearance := by
  obtain ⟨t, ht⟩ : ∃ t, t = ((s.removePreemptions.setGuard []).each State.cancel
    (s.removePreemptions.setGuard []).startingGroups).dropPending := ⟨_, rfl⟩
  have still : t.junction.state = .running := by
    obtain ⟨-, -, -, -, -, junction, -⟩ := quieted_spec ht
    rw [junction, running]
  have quieted : s.Moves t := by
    rw [ht]
    refine .trans ?_ (dropPending_moves _)
    refine .trans ?_ (each_moves cancel_moves _ _)
    exact (removePreemptions_moves s).tail (.guard [])
  unfold State.beginClearance
  dsimp only
  rw [← ht]
  refine quieted.trans (.trans ?_ (clearanceCheck_moves _))
  obtain ⟨u, hu⟩ : ∃ u, u = (t.setSeq (t.seq.inClearance t.now
    (if latest t.now (t.expiries t.greenGroups) ≤ t.now then none
      else some (latest t.now (t.expiries t.greenGroups))))).setClearance .awaitingRed := ⟨_, rfl⟩
  have cleared : t.Moves u := by
    rw [hu]
    exact .trans (State.Move.seq _ fun _ => .inr still).moves (setClearance_moves _ (.inr (.inr still)))
  rw [← hu]
  split
  · exact cleared.trans (loseGreens_moves _)
  · exact cleared

theorem forceLockout_moves (s : State) : s.Moves s.forceLockout := by
  unfold State.forceLockout
  split
  · rename_i dark
    refine (recordLockout_moves s _).tail (.swap .lockout rfl ?_)
    change s.junction.state.supplied = false
    rw [dark]
    rfl
  · exact handCause_moves s _

theorem clearLockout_moves {s : State} (locked : s.junction.state = .lockout) (l : Option LockoutRecord) :
    s.Moves ((s.setJunction { s.junction with lockout := l }).enterState .dark) := by
  refine (setJunction_moves s (j := { s.junction with lockout := l }) rfl rfl).tail (.swap .dark rfl ?_)
  change s.junction.state.supplied = false
  rw [locked]
  rfl

theorem loseInClearance_moves (s : State) : s.Moves s.loseInClearance :=
  ((setSeq_moves s (by rfl)).trans (loseGreens_moves _)).trans (clearanceCheck_moves _)

theorem loseInTruncation_moves (s : State) : s.Moves s.loseInTruncation :=
  ((setSeq_moves s (by rfl)).trans (each_moves lose_moves _ _)).trans (judgeInterstage_moves _)

/-! ## Request lines (R87) -/

theorem setLine_moves (s : State) (n : LineIx) (l : PrqLine) : s.Moves (s.setLine n l) :=
  setPre_moves s (List.Sublist.refl _) (List.Sublist.refl _)

theorem qualifyAsserted_moves (s : State) (n : LineIx) : s.Moves (s.qualifyAsserted n) := by
  unfold State.qualifyAsserted
  dsimp only
  split
  · exact (setLine_moves s n _).trans (assertEntry_moves _ _)
  · exact setLine_moves s n _

theorem qualifyReleased_moves (s : State) (n : LineIx) : s.Moves (s.qualifyReleased n) := by
  unfold State.qualifyReleased
  dsimp only
  split
  · exact (setLine_moves s n _).trans (releaseEntry_moves _ _)
  · exact setLine_moves s n _

/-! ## The clock and the switch points (R105 to R110) -/

theorem tickSecond_moves (s : State) : s.Moves s.tickSecond := (setSched_moves s (by rfl)).trans (reachMinute_moves _)

theorem clockSetTo_moves (s : State) (seconds : Nat) : s.Moves (s.clockSetTo seconds) :=
  (setSched_moves s (by rfl)).trans (judgeCurrent_moves _ _)

theorem length_insertPoint (x : SwitchPoint) (l : List SwitchPoint) :
    (insertPoint x l).length = l.length ∨ (insertPoint x l).length = l.length + 1 := by
  induction l with
  | nil => exact .inr rfl
  | cons y l ih =>
    unfold insertPoint
    split
    · exact .inr rfl
    · split
      · exact .inl rfl
      · simpa using ih

/-- A point that replaces another leaves their number as it is. -/
theorem length_insertPoint_replaced {x y : SwitchPoint} {l : List SwitchPoint}
    (sorted : l.Pairwise fun a b => a.time < b.time) (mem : y ∈ l) (same : y.time = x.time) :
    (insertPoint x l).length = l.length := by
  induction l with
  | nil => cases mem
  | cons z l ih =>
    obtain ⟨above, sorted'⟩ := List.pairwise_cons.1 sorted
    unfold insertPoint
    rcases List.mem_cons.1 mem with rfl | mem
    · rw [if_neg (by omega), if_pos same.symm]
      rfl
    · have := above y mem
      rw [if_neg (by omega), if_neg (by omega), List.length_cons, ih sorted' mem, List.length_cons]

theorem insertSwitch_moves {s : State} {x : SwitchPoint}
    (room : ¬((s.pointAt x.time).isNone = true ∧ 24 ≤ s.sched.points.length)) : s.Moves (s.insertSwitch x) := by
  refine .trans (State.Move.sched { s.sched with points := insertPoint x s.sched.points } ?_).moves (judgeCurrent_moves _ _)
  rintro ⟨sorted, few⟩
  refine ⟨insertPoint_sorted x sorted, ?_⟩
  change (insertPoint x s.sched.points).length ≤ 24
  have grows := length_insertPoint x s.sched.points
  cases found : s.pointAt x.time with
  | none =>
    rw [found] at room
    have : ¬24 ≤ s.sched.points.length := fun h => room ⟨rfl, h⟩
    omega
  | some y =>
    rw [length_insertPoint_replaced sorted (List.mem_of_find?_eq_some found) (pointAt_time found)]
    exact few

theorem deleteSwitch_moves (s : State) (time : Nat) : s.Moves (s.deleteSwitch time) := by
  refine .trans (State.Move.sched { s.sched with points := s.sched.points.filter fun x => x.time != time } ?_).moves
    (judgeCurrent_moves _ _)
  rintro ⟨sorted, few⟩
  exact ⟨sorted.sublist List.filter_sublist, (List.length_filter_le _ _).trans few⟩

theorem holdFor_moves (s : State) (h : HoldArg) : s.Moves (s.holdFor h) := by
  unfold State.holdFor
  split
  · exact setSched_moves s rfl
  · exact .refl

end Sys2Proof.Machine
end


section
/-! The measurement functions and the records of circuits are made of moves. -/

namespace Sys2Proof.Machine

/-! ## The laws of a circuit's parts (R139, R143, R149, R158, R160) -/

/-- A training sub-record holds fewer than four samples of an attempt of at most 3. -/
def Training.Sound (t : Training) : Prop := t.samples < 4 ∧ 1 ≤ t.attempt ∧ t.attempt ≤ 3

/-- What the law of a circuit asks of its lamp part. -/
def LampPart.Sound (l : LampPart) : Prop :=
  (∀ r, l.fullRef = some r → 20 ≤ r ∧ r ≤ 4000) ∧ (∀ r, l.dimRef = some r → 20 ≤ r ∧ r ≤ 4000) ∧ l.agreement ≤ 1
    ∧ ∀ t, l.training = some t → t.Sound

/-- What the law of a circuit asks of its cable part. -/
def CablePart.Sound (k : CablePart) : Prop := k.count ≤ 3 ∧ (k.counted = none → k.count = 0)

theorem Circuit.law_iff (k : Circuit) : k.Law ↔
    (1 ≤ k.heads ∧ k.heads ≤ 4 ∧ k.residual ≤ 8 ∧ (k.technology = .incandescent → k.residual = 0))
      ∧ k.lamp.Sound ∧ k.cable.Sound := by
  constructor
  · rintro ⟨own, full, dim, agreement, count, counted, training⟩
    exact ⟨own, ⟨full, dim, agreement, training⟩, count, counted⟩
  · rintro ⟨own, ⟨full, dim, agreement, training⟩, count, counted⟩
    exact ⟨own, full, dim, agreement, count, counted, training⟩

theorem lampSet_moves (s : State) {c : CircuitIx} {l : LampPart} (sound : (s.circuit c).lamp.Sound → l.Sound) :
    s.Moves (s.setLamp c l) := by
  refine setLamp_moves s fun law => ?_
  obtain ⟨own, lamp, cable⟩ := (Circuit.law_iff _).1 law
  exact (Circuit.law_iff _).2 ⟨own, sound lamp, cable⟩

theorem cableSet_moves (s : State) {c : CircuitIx} {k : CablePart}
    (watch : k.watchPresented = (s.circuit c).cable.watchPresented)
    (sound : (s.circuit c).cable.Sound → k.Sound) : s.Moves (s.setCable c k) := by
  refine setCable_moves s watch fun law => ?_
  obtain ⟨own, lamp, cable⟩ := (Circuit.law_iff _).1 law
  exact (Circuit.law_iff _).2 ⟨own, lamp, sound cable⟩

theorem foldl_moves {f : State → CircuitIx → State} (h : ∀ (s : State) (c : CircuitIx), s.Moves (f s c))
    (cs : List CircuitIx) (s : State) : s.Moves (cs.foldl f s) := by
  induction cs generalizing s with
  | nil => exact .refl
  | cons c cs ih => exact (h s c).trans (ih (f s c))

/-! ## Training (R147 to R149) -/

theorem beginTraining_moves (level : DimLevel) (s : State) (c : CircuitIx) : s.Moves (s.beginTraining level c) := by
  refine lampSet_moves s ?_
  rintro ⟨full, dim, agreement, -⟩
  refine ⟨full, dim, agreement, ?_⟩
  rintro t ⟨⟩
  exact ⟨Nat.zero_lt_succ _, le_refl _, Nat.le_add_left 1 2⟩

theorem LampPart.Sound.withReference {l : LampPart} (h : l.Sound) (level : DimLevel) {n : Nat} (range : 20 ≤ n ∧ n ≤ 4000) :
    (l.withReference level n).Sound := by
  obtain ⟨full, dim, -, -⟩ := h
  cases level
  · exact ⟨by rintro r ⟨⟩; exact range, dim, Nat.zero_le _, by rintro t ⟨⟩⟩
  · exact ⟨full, by rintro r ⟨⟩; exact range, Nat.zero_le _, by rintro t ⟨⟩⟩

theorem LampPart.Sound.withTraining {l : LampPart} (h : l.Sound) {t : Option Training} (sound : ∀ u, t = some u → u.Sound) :
    ({ l with training := t } : LampPart).Sound := by
  obtain ⟨full, dim, agreement, -⟩ := h
  exact ⟨full, dim, agreement, sound⟩

theorem mean_of_passes {t : Training} (h : t.passes = true) : 20 ≤ t.mean ∧ t.mean ≤ 4000 := by
  unfold Training.passes within at h
  simp only [Bool.and_eq_true, decide_eq_true_eq] at h
  exact h.2

theorem judgeAttempt_moves (s : State) (c : CircuitIx) (t : Training) : s.Moves (s.judgeAttempt c t) := by
  unfold State.judgeAttempt
  dsimp only
  split
  · rename_i passes
    refine .trans (.trans (lampSet_moves s fun h => ?_) (raise_moves _ _)) (judgeCircuit_moves _ _ _)
    exact h.withReference _ (mean_of_passes passes)
  · split
    · rename_i early
      refine lampSet_moves s fun h => h.withTraining ?_
      rintro u ⟨⟩
      refine ⟨Nat.zero_lt_succ _, ?_, ?_⟩
      · exact Nat.le_add_left 1 _
      · exact early
    · refine .trans (lampSet_moves s fun h => h.withTraining ?_) (raise_moves _ _)
      rintro u ⟨⟩

theorem offerSample_moves (s : State) (c : CircuitIx) (level : DimLevel) (i : Nat) :
    s.Moves (s.offerSample c level i) := by
  unfold State.offerSample
  split
  · exact .refl
  · rename_i t training
    split
    · dsimp only
      split
      · rename_i few
        refine lampSet_moves s fun h => h.withTraining ?_
        rintro u ⟨⟩
        obtain ⟨-, low, high⟩ := h.2.2.2 t training
        exact ⟨few, low, high⟩
      · exact judgeAttempt_moves s c _
    · exact .refl

/-! ## Lit windows (R119, R135 to R145) -/

theorem confirm_agreement {l : LampPart} (h : l.agreement ≤ 1) (res : LampState) : (l.confirm res).agreement ≤ 1 := by
  unfold LampPart.confirm
  split
  · split
    · exact h
    · exact Nat.zero_le _
  · split
    · exact Nat.zero_le _
    · split
      · exact Nat.zero_le _
      · exact le_refl 1

theorem LampPart.Sound.measured {l : LampPart} (h : l.Sound) (cable : CableState) (i : Nat)
    (res : LampState × Option Nat) : (l.measured cable i res).Sound := by
  obtain ⟨full, dim, agreement, training⟩ := h
  obtain ⟨-, -, -, confirmed, -, fullRef, dimRef, held⟩ := measured_spec l cable i res
  refine ⟨?_, ?_, ?_, ?_⟩
  · rw [fullRef]; exact full
  · rw [dimRef]; exact dim
  · rw [confirmed]; exact confirm_agreement agreement _
  · rw [held]; exact training

theorem recordLit_moves (s : State) (c : CircuitIx) (level : DimLevel) (i : Nat) : s.Moves (s.recordLit c level i) := by
  unfold State.recordLit
  dsimp only
  refine .trans ?_ (offerSample_moves _ _ _ _)
  obtain ⟨l, hl⟩ : ∃ l, l = (s.circuit c).lamp.measured (s.circuit c).cable.state i
    (classify (s.circuit c).heads (s.circuit c).residual ((s.circuit c).lamp.refFor level) i) := ⟨_, rfl⟩
  rw [← hl]
  have first : s.Moves (if raisesLampAlarm (s.circuit c).lamp.state l.state then (s.setLamp c l).raise .lampAlarm
      else s.setLamp c l) := by
    have set : s.Moves (s.setLamp c l) := lampSet_moves s fun h => by rw [hl]; exact h.measured _ _ _
    split
    · exact set.trans (raise_moves _ _)
    · exact set
  split
  · exact first
  · exact first.trans (judgeCircuit_moves _ _ _)

/-- The channel's law: a measurement in flight exactly in MEASURING, a calibration exactly in the two calibration
states. -/
theorem channelLaw_iff (s : State) : s.ChannelLaw ↔
    (s.channel.inFlight.isSome = true ↔ s.channel.state = .measuring)
      ∧ (s.channel.calibration.isSome = true ↔ s.channel.state = .calLong ∨ s.channel.state = .calShort) := by
  unfold State.ChannelLaw
  cases s.channel.state <;> cases s.channel.inFlight <;> cases s.channel.calibration <;> simp

theorem inFlight_of_calibration {s : State} (running : s.channel.calibration ≠ none) (law : s.ChannelLaw) :
    s.channel.inFlight = none := by
  obtain ⟨flight, calibration⟩ := (channelLaw_iff s).1 law
  by_contra some
  have state := flight.1 (Option.isSome_iff_ne_none.2 some)
  have := calibration.1 (Option.isSome_iff_ne_none.2 running)
  simp [state] at this

/-- The measurement in flight ended: the channel is READY or in the long calibration it owes (R119, R131). -/
theorem endWindow_moves {s : State} (flight : s.channel.inFlight ≠ none) :
    s.Moves (s.setChannel (s.channel.endWindow s.now)) := by
  unfold Channel.endWindow
  split
  · exact (State.Move.channel (s.channel.beginLong s.now) (fun _ => ⟨rfl, rfl⟩) (.inl rfl)).moves
  · refine (State.Move.channel { s.channel with state := .ready, inFlight := none } (fun law => ⟨rfl, ?_⟩) (.inl rfl)).moves
    by_contra running
    exact flight (inFlight_of_calibration running law)

theorem endLit_moves {s : State} (flight : s.channel.inFlight ≠ none) (raw : Int) (c : CircuitIx) (level : DimLevel)
    (start : Instant) : s.Moves (s.endLit raw c level start) := by
  have first := endWindow_moves flight
  unfold State.endLit
  dsimp only
  split
  · exact first
  · exact first.trans (recordLit_moves _ _ _ _)

/-! ## Cables (R152 to R163) -/

/-- A cable record that follows another: the same watch candidate, the counts in their bounds. -/
def CablePart.Follows (k m : CablePart) : Prop := m.watchPresented = k.watchPresented ∧ (k.Sound → m.Sound)

theorem CablePart.Follows.trans {k m n : CablePart} (h : k.Follows m) (h' : m.Follows n) : k.Follows n :=
  ⟨h'.1.trans h.1, h'.2 ∘ h.2⟩

theorem CablePart.follows_self (k : CablePart) : k.Follows k := ⟨rfl, id⟩

/-- A record with its count cleared. -/
theorem CablePart.Follows.of_cleared {k m : CablePart} (watch : m.watchPresented = k.watchPresented) (count : m.count = 0) :
    k.Follows m := ⟨watch, fun _ => ⟨by omega, fun _ => count⟩⟩

/-- A record with its count as it was. -/
theorem CablePart.Follows.of_count {k m : CablePart} (watch : m.watchPresented = k.watchPresented)
    (count : m.count = k.count) (counted : m.counted = k.counted) : k.Follows m :=
  ⟨watch, fun h => by unfold CablePart.Sound at h ⊢; rw [count, counted]; exact h⟩

theorem counting_follows (k : CablePart) (redOrAmber full : Bool) (x : DarkValues) :
    k.Follows (k.counting redOrAmber full x).1 := by
  unfold CablePart.counting
  split
  · rename_i y _
    dsimp only
    generalize (if k.counted = some y then k.count + 1 else 1) = n
    split
    · exact .of_cleared rfl rfl
    · rename_i low
      have run : y.run ≤ 3 := by cases y <;> decide
      exact ⟨rfl, fun _ => ⟨by dsimp only; omega, fun h => by cases h⟩⟩
  · split
    · exact .of_cleared rfl rfl
    · exact k.follows_self

theorem suspecting_follows (k : CablePart) (full : Bool) (x : DarkValues) : k.Follows (k.suspecting full x) := by
  unfold CablePart.suspecting
  split
  · split
    · exact .of_count rfl rfl rfl
    · exact k.follows_self
  · split
    · exact .of_count rfl rfl rfl
    · exact k.follows_self
  · exact k.follows_self

theorem clearing_follows (k : CablePart) (full : Bool) (x : DarkValues) : k.Follows (k.clearing full x) := by
  unfold CablePart.clearing
  split
  · exact ⟨rfl, fun _ => ⟨Nat.min_le_left _ _, fun h => by cases h⟩⟩
  · split
    · exact k.follows_self
    · exact .of_cleared rfl rfl

theorem judged_follows (k : CablePart) (redOrAmber full : Bool) (x : DarkValues) :
    k.Follows (k.judged redOrAmber full x).1 := by
  unfold CablePart.judged
  split
  · dsimp only
    split
    · exact (clearing_follows k full x).trans (.of_cleared rfl rfl)
    · exact clearing_follows k full x
  · dsimp only
    split
    · exact counting_follows k redOrAmber full x
    · exact (counting_follows k redOrAmber full x).trans (suspecting_follows _ full x)

theorem sampled_follows (k : CablePart) (change : AlarmChange) (x : DarkValues) : k.Follows (k.sampled change x).1 := by
  unfold CablePart.sampled
  split
  · exact k.follows_self
  · split
    · exact .of_count rfl rfl rfl
    · dsimp only
      split
      · exact .of_count rfl rfl rfl
      · exact .of_cleared rfl rfl

theorem cableFollows_moves (s : State) {c : CircuitIx} {k : CablePart} (h : (s.circuit c).cable.Follows k) :
    s.Moves (s.setCable c k) := cableSet_moves s h.1 h.2

theorem judgeCable_moves (s : State) (c : CircuitIx) (redOrAmber full : Bool) (x : DarkValues) :
    s.Moves (s.judgeCable c redOrAmber full x) := by
  unfold State.judgeCable
  dsimp only
  have judged := judged_follows (s.circuit c).cable redOrAmber full x
  generalize (s.circuit c).cable.judged redOrAmber full x = r at judged ⊢
  obtain ⟨l, hl⟩ : ∃ l, l = if full then r.1.sampled r.2 x else (r.1, false) := ⟨_, rfl⟩
  have sampled : (s.circuit c).cable.Follows l.1 := by
    rw [hl]
    split
    · exact judged.trans (sampled_follows _ _ _)
    · exact judged
  rw [← hl]
  have first : s.Moves (if r.2 = .unchanged then s.setCable c l.1 else (s.setCable c l.1).raise .cableAlarm) := by
    split
    · exact cableFollows_moves s sampled
    · exact (cableFollows_moves s sampled).trans (raise_moves _ _)
  split
  · exact first.trans (raise_moves _ _)
  · exact first

theorem foreignAlarm_moves (s : State) (c : CircuitIx) : s.Moves (s.foreignAlarm c) := by
  have first : s.Moves (s.setCable c ((s.circuit c).cable.intoAlarm .foreignVoltage)) :=
    cableFollows_moves s (.of_cleared rfl rfl)
  unfold State.foreignAlarm
  dsimp only
  split
  · exact first
  · exact first.trans (raise_moves _ _)

theorem judgeDark_moves (s : State) (c : CircuitIx) (full : Bool) (x : DarkValues) : s.Moves (s.judgeDark c full x) := by
  unfold State.judgeDark
  split
  · dsimp only
    split
    · exact (judgeCable_moves s c _ _ _).trans (foreignAlarm_moves _ _)
    · exact judgeCable_moves s c _ _ _
  · exact judgeCable_moves s c _ _ _
  · exact judgeCable_moves s c _ _ _

theorem recordDark_moves {s : State} (flight : s.channel.inFlight ≠ none) (c : CircuitIx) (dark : Nat) (x : DarkValues) :
    s.Moves (s.recordDark c dark x) := by
  have first : s.Moves ((s.setChannel (s.channel.endWindow s.now)).setCable c
      (((s.setChannel (s.channel.endWindow s.now)).circuit c).cable.withValues (decide (200 ≤ dark))
        (decide (1000 ≤ dark)) s.now x)) :=
    (endWindow_moves flight).trans (cableFollows_moves _ (.of_count rfl rfl rfl))
  unfold State.recordDark
  dsimp only
  split
  · exact first.trans (judgeDark_moves _ _ _ _)
  · exact first

theorem endDark_moves {s : State} (flight : s.channel.inFlight ≠ none) (v l q : Int) (c : CircuitIx) (dark : Nat) :
    s.Moves (s.endDark v l q c dark) := (recordDark_moves flight _ _ _).trans (handCauses_moves _ _)

theorem reachLimit_moves (s : State) (c : CircuitIx) : s.Moves (s.reachLimit c) := by
  unfold State.reachLimit
  split
  · exact handCauses_moves _ s
  · rename_i d dark window
    have flight : s.channel.inFlight ≠ none := by
      intro none
      unfold State.darkWindow at window
      rw [none] at window
      cases window
    unfold State.limitMeetsWindow
    dsimp only
    split
    · exact .head .drawn (handCauses_moves _ _)
    · exact .head .drawn (.head .drawn (.trans (recordDark_moves (by exact flight) _ _ _) (handCauses_moves _ _)))

theorem beginLearning_moves (s : State) (c : CircuitIx) : s.Moves (s.beginLearning c) :=
  cableFollows_moves s (.of_count rfl rfl rfl)

theorem acknowledge_moves (s : State) (c : CircuitIx) : s.Moves (s.acknowledge c) := by
  unfold State.acknowledge State.setCableLeaving
  split
  · exact .trans (cableFollows_moves s (by exact .of_cleared rfl rfl)) (raise_moves _ _)
  · exact cableFollows_moves s (.of_count rfl rfl rfl)

theorem ripen_moves (s : State) (c : CircuitIx) : s.Moves (s.ripen c) := cableFollows_moves s (.of_count rfl rfl rfl)

theorem reportLate_moves (s : State) (c : CircuitIx) : s.Moves (s.reportLate c) :=
  .trans (cableFollows_moves s (by exact .of_count rfl rfl rfl)) (raise_moves _ _)

theorem presentWatched_moves {s : State} {c : CircuitIx} (watched : s.watched c = true) :
    s.Moves (s.setPresented c true) :=
  setCircuit_moves s ⟨rfl, rfl, .inl, fun _ => .inr watched, fun law => by
    obtain ⟨own, lamp, cable⟩ := (Circuit.law_iff _).1 law
    exact (Circuit.law_iff _).2 ⟨own, lamp, cable⟩⟩

/-! ## Proving requests (R133, R134, R136) -/

/-- A proving schedule rewritten: the lit period as it was, and a request only of a lit circuit. -/
theorem setSchedule_moves (s : State) {c : CircuitIx} {p : ProvingSchedule}
    (lit : p.litSince = (s.circuit c).schedule.litSince)
    (request : p.presented ≠ none → (s.circuit c).schedule.presented ≠ none
      ∨ (s.circuit c).schedule.litSince.isSome = true) : s.Moves (s.setSchedule c p) :=
  setCircuit_moves s ⟨rfl, lit, request, .inl, fun law => (Circuit.law_iff _).2 ((Circuit.law_iff _).1 law)⟩

theorem presentRequest_moves {s : State} {c : CircuitIx} (due : s.requestDue c = true) : s.Moves (s.presentRequest c) := by
  refine setSchedule_moves s (by rfl) fun _ => .inr ?_
  unfold State.requestDue at due
  simp only [Bool.and_eq_true] at due
  exact due.1.1

theorem dropRequest_moves (s : State) (c : CircuitIx) :
    s.Moves (s.setSchedule c { (s.circuit c).schedule with presented := none }) :=
  setSchedule_moves s rfl fun h => absurd rfl h

theorem endSettling_moves (s : State) : s.Moves s.endSettling := by
  unfold State.endSettling
  split
  · exact .refl
  · refine .head (.sup _) (mapCircuits_moves _ fun c => ?_)
    exact ⟨rfl, rfl, .inl, .inl, fun law => (Circuit.law_iff _).2 ((Circuit.law_iff _).1 law)⟩

/-! ## Calibrations (R121, R126 to R130) -/

theorem presentShort_moves (s : State) : s.Moves s.presentShort := 
  (State.Move.channel { s.channel with shortPresented := true } id (.inr rfl)).moves

theorem calibrated_moves {s : State} (running : s.channel.calibration ≠ none) (r : CalRecord) :
    s.Moves (s.setChannel (s.channel.calibrated r)) :=
  (State.Move.channel (s.channel.calibrated r) (fun law => ⟨inFlight_of_calibration (s := s) running law, rfl⟩) (.inr rfl)).moves

theorem failCalibration_moves {s : State} (running : s.channel.calibration ≠ none) (r : CalRecord) :
    s.Moves (s.failCalibration r) := by
  have first : s.Moves ((s.setChannel (s.channel.failed r)).raise .calFail) :=
    .head (State.Move.channel (s.channel.failed r) (fun law => ⟨inFlight_of_calibration (s := s) running law, rfl⟩) (.inr rfl))
      (raise_moves _ _)
  unfold State.failCalibration
  dsimp only
  split
  · exact first.trans (handCause_moves _ _)
  · exact first

theorem endLong_moves {s : State} (running : s.channel.calibration ≠ none) (r : CalRecord) : s.Moves (s.endLong r) := by
  unfold State.endLong
  split
  · exact calibrated_moves running r
  · exact failCalibration_moves running r

theorem secondAttempt_moves {s : State} (running : s.channel.calibration ≠ none) (r : CalRecord) :
    s.Moves (s.setChannel (s.channel.secondAttempt r)) := by
  refine (State.Move.channel (s.channel.secondAttempt r) (fun law => ?_) (.inr rfl)).moves
  obtain ⟨flight, calibration⟩ := (channelLaw_iff s).1 law
  have on : s.channel.calibration.isSome = true := Option.isSome_iff_ne_none.2 running
  exact (channelLaw_iff _).2 ⟨flight, fun _ => calibration.1 on, fun _ => rfl⟩

theorem endShort_moves {s : State} (running : s.channel.calibration ≠ none) (attempt : Nat) (r : CalRecord) :
    s.Moves (s.endShort attempt r) := by
  unfold State.endShort
  split
  · exact calibrated_moves running r
  · split
    · exact secondAttempt_moves running r
    · exact failCalibration_moves running r

theorem beginLong_moves (s : State) : s.Moves (s.setChannel (s.channel.beginLong s.now)) :=
  (State.Move.channel (s.channel.beginLong s.now) (fun _ => ⟨rfl, rfl⟩) (.inl rfl)).moves

/-! ## Writes of records (R7, R8, R24, R40, R50, R85, R164) -/

theorem storeCircuit_moves (s : State) {c : CircuitIx} {t : Technology} {n r : Nat} (low : 1 ≤ n) (high : n ≤ 4)
    (bound : r ≤ 8) (fits : t = .incandescent → r = 0) : s.Moves (s.storeCircuit c t n r) := by
  unfold State.storeCircuit
  dsimp only
  split
  · exact .refl
  · obtain ⟨u, hu⟩ : ∃ u, u = s.setCircuit c { s.circuit c with
        technology := t, heads := n, residual := r, lamp := (s.circuit c).lamp.rewritten (t ≠ (s.circuit c).technology) } :=
      ⟨_, rfl⟩
    have first : s.Moves u := by
      rw [hu]
      refine setCircuit_moves s ⟨rfl, rfl, .inl, .inl, fun law => ?_⟩
      obtain ⟨-, ⟨full, dim, -, training⟩, cable⟩ := (Circuit.law_iff _).1 law
      refine (Circuit.law_iff _).2 ⟨⟨low, high, bound, fits⟩, ⟨full, dim, Nat.zero_le _, fun x hx => ?_⟩, cable⟩
      unfold LampPart.rewritten at hx
      dsimp only at hx
      split at hx
      · cases hx
      · exact training x hx
    rw [← hu]
    have second : s.Moves (if decide (t ≠ (s.circuit c).technology) = true then u.demotePlans else u) := by
      split
      · exact first.trans (demotePlans_moves u)
      · exact first
    split
    · exact second
    · exact second.trans (judgeCircuit_moves _ _ _)

theorem forget_moves (s : State) (c : CircuitIx) : s.Moves (s.forget c) := by
  unfold State.forget
  dsimp only
  obtain ⟨u, hu⟩ : ∃ u, u = s.setCircuit c { s.circuit c with
      lamp := (s.circuit c).lamp.forgotten, cable := (s.circuit c).cable.forgotten } := ⟨_, rfl⟩
  have first : s.Moves u := by
    rw [hu]
    refine setCircuit_moves s ⟨rfl, rfl, .inl, .inl, fun law => ?_⟩
    obtain ⟨own, -, -⟩ := (Circuit.law_iff _).1 law
    refine (Circuit.law_iff _).2 ⟨own, ⟨?_, ?_, Nat.zero_le _, ?_⟩, Nat.zero_le _, fun _ => rfl⟩
    all_goals rintro r ⟨⟩
  rw [← hu]
  have second : s.Moves (if (s.circuit c).cable.state.isAlarm then u.raise .cableAlarm else u) := by
    split
    · exact first.trans (raise_moves _ _)
    · exact first
  split
  · exact second
  · exact second.trans (judgeCircuit_moves _ _ _)

theorem setPair_moves (s : State) (l g : GroupIx) (v : Option (Nat × Nat)) : s.Moves (s.setPair l g v) := by
  unfold State.setPair
  split <;> exact (State.Move.conflicts _).moves

end Sys2Proof.Machine
end


section
/-! What a step is made of: one of a few first changes, then moves, then the end of the step, or a state whose
candidates for the channel are those before. -/

namespace Sys2Proof.Machine

/-- How a step begins: with the state as it is, or with one of the changes that rest on the laws of the state before. -/
inductive State.Opens (s : State) : State → Prop
  | same : Opens s s
  | supplied (dark : s.junction.state = .dark) : Opens s (s.safeOn.enterState .startFlash)
  | green (g : GroupIx) (due : s.greenDue g = true) :
      Opens s ((s.setGroup g { s.group g with awaited := none }).setAspect g .green)
  | half : Opens s s.changeHalf
  | stored (g : GroupIx) (k : Option GroupConfig) (off : s.output.safeEnable = false)
      (free : ∀ m, k = some m → s.takenCircuits g m = []) : Opens s (s.storeGroup g k)
  | softReset : Opens s s.softReset
  | reset (cause : ResetCause) (held : Bool) : Opens s { s.afterReset cause with resetHeld := held }
  | held (b : Bool) : Opens s { s with resetHeld := b }

/-- `t` is a state a step of `s` may end in. -/
def State.Finishes (s t : State) : Prop :=
  ∃ v u, s.Opens v ∧ v.Moves u ∧ ((∃ w : State, t = w.settle u) ∨ (t = u ∧ (s.ArbitratedLaw → u.ArbitratedLaw)))

/-! ## States with no candidate more -/

/-- From `s` to `t` the channel and the round offer stand, and no circuit asks that did not. -/
def State.AsksNoMore (s t : State) : Prop :=
  t.channel = s.channel ∧ t.sup = s.sup ∧ ∀ c : CircuitIx,
    ((t.circuit c).schedule.presented ≠ none → (s.circuit c).schedule.presented ≠ none)
    ∧ ((t.circuit c).cable.watchPresented = true → (s.circuit c).cable.watchPresented = true)

theorem State.AsksNoMore.trans {s t u : State} (h : s.AsksNoMore t) (h' : t.AsksNoMore u) : s.AsksNoMore u := by
  obtain ⟨channel, sup, circuits⟩ := h
  obtain ⟨channel', sup', circuits'⟩ := h'
  exact ⟨channel'.trans channel, sup'.trans sup,
    fun c => ⟨(circuits c).1 ∘ (circuits' c).1, (circuits c).2 ∘ (circuits' c).2⟩⟩

theorem State.AsksNoMore.of_circuits {s t : State} (channel : t.channel = s.channel) (sup : t.sup = s.sup)
    (circuits : t.circuits = s.circuits) : s.AsksNoMore t := by
  refine ⟨channel, sup, fun c => ?_⟩
  unfold State.circuit
  rw [circuits]
  exact ⟨id, id⟩

theorem State.AsksNoMore.arbitrated {s t : State} (h : s.AsksNoMore t) : s.ArbitratedLaw → t.ArbitratedLaw := by
  obtain ⟨channel, sup, circuits⟩ := h
  intro law ready
  rw [channel] at ready ⊢
  obtain ⟨short, round, each⟩ := law ready
  refine ⟨short, by rw [sup]; exact round, fun c => ⟨?_, ?_⟩⟩
  · by_contra ne
    exact (circuits c).1 ne (each c).1
  · rw [Bool.eq_false_iff]
    intro on
    have := (circuits c).2 on
    rw [(each c).2] at this
    cases this

theorem setCircuit_asks (s : State) {c : CircuitIx} {k : Circuit}
    (schedule : k.schedule.presented ≠ none → (s.circuit c).schedule.presented ≠ none)
    (cable : k.cable.watchPresented = true → (s.circuit c).cable.watchPresented = true) :
    s.AsksNoMore (s.setCircuit c k) := by
  refine ⟨rfl, rfl, fun d => ?_⟩
  rw [State.setCircuit_circuit]
  by_cases here : d = c
  · rw [if_pos here, here]
    exact ⟨schedule, cable⟩
  · rw [if_neg here]
    exact ⟨id, id⟩

theorem foldl_asks {f : State → CircuitIx → State} (h : ∀ (s : State) (c : CircuitIx), s.AsksNoMore (f s c))
    (cs : List CircuitIx) (s : State) : s.AsksNoMore (cs.foldl f s) := by
  induction cs generalizing s with
  | nil => exact .of_circuits rfl rfl rfl
  | cons c cs ih => exact (h s c).trans (ih (f s c))

theorem beginTraining_asks (level : DimLevel) (s : State) (c : CircuitIx) : s.AsksNoMore (s.beginTraining level c) :=
  setCircuit_asks s id id

theorem beginLearning_asks (s : State) (c : CircuitIx) : s.AsksNoMore (s.beginLearning c) := setCircuit_asks s id id

theorem acknowledge_asks (s : State) (c : CircuitIx) : s.AsksNoMore (s.acknowledge c) := by
  unfold State.acknowledge State.setCableLeaving
  split
  · exact .trans (setCircuit_asks s (by exact id) (by exact id)) (.of_circuits rfl rfl rfl)
  · exact setCircuit_asks s id id

theorem storeGroup_asks (s : State) (g : GroupIx) (k : Option GroupConfig) : s.AsksNoMore (s.storeGroup g k) := by
  refine ⟨rfl, rfl, fun c => ?_⟩
  obtain ⟨t, ht⟩ : ∃ t, t = s.setGroup g { s.group g with
      config := k, aspect := .dark, awaited := if k.isSome then (s.group g).awaited else none } := ⟨_, rfl⟩
  have circuit : (s.storeGroup g k).circuit c =
      if s.assignment c = t.assignment c then s.circuit c else (s.circuit c).reassigned := by
    rw [ht]
    exact Table.get_ofFn _ c
  rw [circuit]
  split <;> exact ⟨id, id⟩

/-! ## The ends of a step -/

section Finishing

variable {s u : State}

/-- The end of a step: what stands while the channel is READY is no candidate. -/
theorem settle_arbitrated (w u : State) : (w.settle u).ArbitratedLaw := by
  intro ready
  unfold State.settle at ready ⊢
  generalize (w.superviseReds u).renewOffer = v at ready ⊢
  by_cases free : v.channel.state = .ready
  · cases chosen : v.choice with
    | some x =>
      rw [arbitrate_of_choice free chosen] at ready
      cases x <;> cases ready
    | none =>
      obtain ⟨noRequest, noWatch, notShort, noOffer⟩ := (choice_spec v).2.2.2.2 chosen
      have kept : v.arbitrate = v := by simp [State.arbitrate, free, chosen]
      rw [kept]
      exact ⟨notShort, noOffer, fun c => ⟨(provingChoice_none v).1 noRequest c, (watchChoice_none v).1 noWatch c⟩⟩
  · have kept : v.arbitrate = v := by simp [State.arbitrate, free]
    rw [kept] at ready
    exact absurd ready free

theorem State.Finishes.settled (h : s.Moves u) (w : State) : s.Finishes (w.settle u) := ⟨s, u, .same, h, .inl ⟨w, rfl⟩⟩

theorem State.Finishes.unsettled (h : s.Moves u) (asks : s.AsksNoMore u) : s.Finishes u :=
  ⟨s, u, .same, h, .inr ⟨rfl, asks.arbitrated⟩⟩

theorem finishes_link (s : State) (l : Link) : s.Finishes (s.setLink l) :=
  .unsettled (State.Move.link l).moves (.of_circuits rfl rfl rfl)

theorem finishes_self (s : State) : s.Finishes s := .unsettled .refl (.of_circuits rfl rfl rfl)

theorem finishes_answer (s : State) (r : Reply) : s.Finishes (s.answer r) := finishes_link s _

theorem finishes_accept (s : State) (p : Payload) : s.Finishes (s.accept p) := finishes_link s _

theorem finishes_refuse (s : State) (st : Status) : s.Finishes (s.refuse st) := finishes_link s _

/-- Moves that leave the channel, the supervision and the circuits as they were, with an answer. -/
theorem State.Finishes.answered (h : s.Moves u) (channel : u.channel = s.channel) (sup : u.sup = s.sup)
    (circuits : u.circuits = s.circuits) (r : Reply) : s.Finishes (u.answer r) :=
  .unsettled (h.trans (answer_moves u r)) (.of_circuits channel sup circuits)

theorem State.Finishes.accepted (h : s.Moves u) (w : State) (p : Payload) : s.Finishes (w.settle (u.accept p)) :=
  .settled (h.trans (accept_moves u p)) w

/-- Every state an outcome gives is one the step may end in. -/
def State.Finishing (s : State) (o : Host.Outcome State Fault Refusal) : Prop := ∀ t, o = .next t → s.Finishes t

theorem finishing_next (h : s.Finishes u) : s.Finishing (.next u) := by
  rintro t ⟨⟩
  exact h

theorem finishing_taken {f : State → State} (h : s.Finishes (f s)) : s.Finishing (.next (s.taken f)) := by
  refine finishing_next ?_
  unfold State.taken
  split
  · unfold State.passOver
    split
    · exact finishes_link s _
    · exact finishes_self s
  · split
    · exact h
    · exact finishes_self s

theorem finishing_live {f : State → State} (h : s.Finishes (f s)) : s.Finishing (.next (s.live f)) := by
  refine finishing_next ?_
  unfold State.live
  split
  · exact finishes_self s
  · exact h

theorem finishes_whenDue {due : Bool} {f : State → State} (h : due = true → s.Moves (f s)) :
    s.Finishes (s.whenDue due f) := by
  unfold State.whenDue
  split
  · rename_i due
    exact .settled (h due) s
  · exact finishes_self s

theorem finishing_whenDue {due : State → Bool} {f : State → State} (h : due s = true → s.Moves (f s)) :
    s.Finishing (.next (s.live fun t => t.whenDue (due t) f)) := finishing_live (finishes_whenDue h)

theorem finishes_safety {f : State → State} (h : s.output.safeEnable = false → s.Finishes (f s)) :
    s.Finishes (s.safetyWrite f) := by
  unfold State.safetyWrite
  split
  · exact finishes_refuse s _
  · split
    · exact finishes_refuse s _
    · rename_i off
      exact h (Bool.eq_false_iff.2 off)

theorem finishes_locked {x : State} (h : s.Finishes x) : s.Finishes (if s.locked then s.refuse .locked else x) := by
  split
  · exact finishes_refuse s _
  · exact h

end Finishing

/-! ## The commands that write records (sections 11.2, 11.3) -/

section Commands

variable (s : State)

theorem readRecord_finishing (kind index : Nat) (view : Arg ReadView) (part : Nat) :
    s.Finishing (exec (.readRecord kind index view part) s) := by
  refine finishing_taken ?_
  split
  · exact finishes_refuse s _
  · split
    · exact finishes_refuse s _
    · unfold State.readPart
      dsimp only
      split
      · exact finishes_accept s _
      · exact finishes_refuse s _

theorem storeGroup_finishes {g : GroupIx} {k : Option GroupConfig} (off : s.output.safeEnable = false)
    (free : ∀ m, k = some m → s.takenCircuits g m = []) (p : Payload) : s.Finishes ((s.storeGroup g k).accept p) :=
  ⟨_, _, .stored g k off free, accept_moves _ p, .inr ⟨rfl,
    ((storeGroup_asks s g k).trans (.of_circuits rfl rfl rfl)).arbitrated⟩⟩

theorem refuseTaken_finishes (l : List CircuitIx) : s.Finishes (s.refuseTaken l) := by
  unfold State.refuseTaken
  split
  · dsimp only
    split
    · exact finishes_answer s _
    · exact .answered State.Move.drawn.moves rfl rfl rfl _
  · exact finishes_refuse s _

theorem placeGroup_finishes (g : GroupIx) (f : GroupFields) (off : s.output.safeEnable = false) :
    s.Finishes (s.placeGroup g f) := by
  unfold State.placeGroup
  split
  · exact finishes_refuse s _
  · split
    · rename_i k _ free
      split
      · refine storeGroup_finishes s off ?_ _
        rintro m ⟨⟩
        exact List.isEmpty_iff.1 free
      · exact finishes_refuse s _
    · exact refuseTaken_finishes s _

theorem writeRecordGroup_finishing (group : Nat) (f : GroupFields) :
    s.Finishing (exec (.writeRecordGroup group f) s) := by
  refine finishing_taken (finishes_safety fun off => ?_)
  split
  · exact finishes_refuse s _
  · exact placeGroup_finishes s _ _ off

theorem updateFieldsGroup_finishing (group : Nat) (u : GroupChanges) :
    s.Finishing (exec (.updateFieldsGroup group u) s) := by
  refine finishing_taken (finishes_safety fun off => ?_)
  split
  · exact finishes_refuse s _
  · split
    · exact finishes_refuse s _
    · exact placeGroup_finishes s _ _ off

theorem retireRecordGroup_finishing (group : Nat) : s.Finishing (exec (.retireRecordGroup group) s) := by
  refine finishing_taken (finishes_safety fun off => ?_)
  split
  · exact finishes_refuse s _
  · split
    · exact finishes_refuse s _
    · exact storeGroup_finishes s off (fun _ h => by cases h) _

theorem placeCircuit_finishes (c : CircuitIx) (t : Option Technology) (n r : Option Nat) :
    s.Finishes (s.placeCircuit c t n r) := by
  unfold State.placeCircuit
  dsimp only
  split
  · exact finishes_refuse s _
  · split
    · exact finishes_refuse s _
    · split
      · exact finishes_refuse s _
      · rename_i whole
        obtain ⟨-, -, -, low, high, bound, fits⟩ := circuitOf_eq_some.1 whole
        exact .accepted (storeCircuit_moves s low high bound fits) s _

theorem writeRecordCircuit_finishing (circuit : Nat) (t : Arg Technology) (n r : Nat) :
    s.Finishing (exec (.writeRecordCircuit circuit t n r) s) := by
  refine finishing_taken (finishes_locked ?_)
  split
  · exact finishes_refuse s _
  · exact placeCircuit_finishes s _ _ _ _

theorem updateFieldsCircuit_finishing (circuit : Nat) (t : Change (Arg Technology)) (n r : Change Nat) :
    s.Finishing (exec (.updateFieldsCircuit circuit t n r) s) := by
  refine finishing_taken (finishes_locked ?_)
  split
  · exact finishes_refuse s _
  · exact placeCircuit_finishes s _ _ _ _

theorem setPair_circuits (l g : GroupIx) (v : Option (Nat × Nat)) : (s.setPair l g v).circuits = s.circuits
    ∧ (s.setPair l g v).channel = s.channel ∧ (s.setPair l g v).sup = s.sup := by
  unfold State.setPair
  split <;> exact ⟨rfl, rfl, rfl⟩

theorem placePair_finishes (l g : GroupIx) (flag : Bool) (a b : Option Nat) : s.Finishes (s.placePair l g flag a b) := by
  unfold State.placePair
  split
  · exact finishes_refuse s _
  · rename_i v _
    split
    · obtain ⟨circuits, channel, sup⟩ := setPair_circuits s l g v
      exact .answered ((setPair_moves s l g v).trans (demotePlans_moves _)) channel sup circuits _
    · exact finishes_refuse s _

theorem writeRecordConflict_finishing (l g : Nat) (flag : Bool) (a b : Option Nat) :
    s.Finishing (exec (.writeRecordConflict l g flag a b) s) := by
  refine finishing_taken (finishes_safety fun _ => ?_)
  split
  · exact finishes_refuse s _
  · exact placePair_finishes s _ _ _ _ _

theorem updateFieldsConflict_finishing (l g : Nat) (flag : Change Bool) (a b : Change Nat) :
    s.Finishing (exec (.updateFieldsConflict l g flag a b) s) := by
  refine finishing_taken (finishes_safety fun _ => ?_)
  split
  · exact finishes_refuse s _
  · split
    · exact finishes_refuse s _
    · exact placePair_finishes s _ _ _ _ _

theorem placeJunction_finishes (a b c : Nat) (namesMode : Bool) : s.Finishes (s.placeJunction a b c namesMode) := by
  unfold State.placeJunction
  split
  · obtain ⟨u, hu⟩ : ∃ u, u = s.setJunction { s.junction with startFlash := a, startRed := b, allRed := c } := ⟨_, rfl⟩
    have first : s.Moves u ∧ u.channel = s.channel ∧ u.sup = s.sup ∧ u.circuits = s.circuits := by
      rw [hu]
      exact ⟨setJunction_moves s rfl rfl, rfl, rfl, rfl⟩
    obtain ⟨moves, channel, sup, circuits⟩ := first
    rw [← hu]
    exact .answered (moves.trans (demotePlans_moves u)) channel sup circuits _
  · exact finishes_refuse s _

theorem writeRecordJunction_finishing (a b c : Nat) (namesMode : Bool) :
    s.Finishing (exec (.writeRecordJunction a b c namesMode) s) :=
  finishing_taken (finishes_safety fun _ => placeJunction_finishes s a b c namesMode)

theorem updateFieldsJunction_finishing (a b c : Change Nat) (namesMode : Bool) :
    s.Finishing (exec (.updateFieldsJunction a b c namesMode) s) := by
  refine finishing_taken (finishes_safety fun _ => ?_)
  split
  · exact placeJunction_finishes s _ _ _ _
  · exact finishes_refuse s _

theorem recordWriteUnsupported_finishing (op : RecordOp) (kind : Nat) :
    s.Finishing (exec (.recordWriteUnsupported op kind) s) := by
  refine finishing_taken ?_
  split
  · exact finishes_self s
  · exact finishes_locked (finishes_refuse s _)

theorem forgetCircuit_finishing (circuit : Nat) : s.Finishing (exec (.forgetCircuit circuit) s) := by
  refine finishing_taken (finishes_locked ?_)
  split
  · exact finishes_refuse s _
  · exact .accepted (forget_moves s _) s _

theorem setPlan_finishes {p : PlanIx} {r : Plan} (h : r.phase ≠ some .active) (a : Payload) :
    s.Finishes ((s.setPlan p r).accept a) := .answered (setPlan_moves s h) rfl rfl rfl _

theorem placePlan_finishes (p : PlanIx) (f : PlanFields) : s.Finishes (s.placePlan p f) := by
  unfold State.placePlan
  split
  · exact finishes_refuse s _
  · exact setPlan_finishes s (fun h => by cases h) _

theorem writeRecordPlan_finishing (plan : Nat) (f : PlanFields) : s.Finishing (exec (.writeRecordPlan plan f) s) := by
  refine finishing_taken (finishes_locked ?_)
  split
  · exact finishes_refuse s _
  · split
    · exact finishes_refuse s _
    · exact placePlan_finishes s _ _

theorem updateFieldsPlan_finishing (plan : Nat) (u : PlanChanges) : s.Finishing (exec (.updateFieldsPlan plan u) s) := by
  refine finishing_taken (finishes_locked ?_)
  split
  · exact finishes_refuse s _
  · split
    · exact finishes_refuse s _
    · split
      · exact placePlan_finishes s _ _
      · exact finishes_refuse s _

theorem retireRecordPlan_finishing (plan : Nat) : s.Finishing (exec (.retireRecordPlan plan) s) := by
  refine finishing_taken (finishes_locked ?_)
  split
  · exact finishes_refuse s _
  · split
    · exact finishes_refuse s _
    · split
      · exact finishes_refuse s _
      · exact setPlan_finishes s (fun h => by cases h) _

theorem validatePlan_finishing (plan : Nat) : s.Finishing (exec (.validatePlan plan) s) := by
  refine finishing_taken (finishes_locked ?_)
  split
  · exact finishes_refuse s _
  · unfold State.validate
    split
    · exact finishes_refuse s _
    · exact finishes_accept s _
    · split
      · exact finishes_answer s _
      · exact setPlan_finishes s (fun h => by cases h) _

theorem setEntry_finishes (e : EntryIx) (r : Entry) (p : Payload) : s.Finishes ((s.setEntry e r).accept p) :=
  .answered (setEntry_moves s e r) rfl rfl rfl _

theorem placeEntry_finishes (e : EntryIx) (f : EntryFields) : s.Finishes (s.placeEntry e f) := by
  unfold State.placeEntry
  split
  · exact finishes_refuse s _
  · exact setEntry_finishes s _ _ _

theorem writeRecordPreemptEntry_finishing (entry : Nat) (f : EntryFields) :
    s.Finishing (exec (.writeRecordPreemptEntry entry f) s) := by
  refine finishing_taken (finishes_locked ?_)
  split
  · exact finishes_refuse s _
  · split
    · exact finishes_refuse s _
    · exact placeEntry_finishes s _ _

theorem updateFieldsPreemptEntry_finishing (entry : Nat) (u : EntryChanges) :
    s.Finishing (exec (.updateFieldsPreemptEntry entry u) s) := by
  refine finishing_taken (finishes_locked ?_)
  split
  · exact finishes_refuse s _
  · split
    · exact finishes_refuse s _
    · split
      · exact finishes_refuse s _
      · split
        · exact finishes_refuse s _
        · exact placeEntry_finishes s _ _

theorem retireRecordPreemptEntry_finishing (entry : Nat) :
    s.Finishing (exec (.retireRecordPreemptEntry entry) s) := by
  refine finishing_taken (finishes_locked ?_)
  split
  · exact finishes_refuse s _
  · split
    · exact finishes_refuse s _
    · split
      · exact finishes_refuse s _
      · exact setEntry_finishes s _ _ _

theorem writeRecordPreemptTable_finishing (length : Nat) :
    s.Finishing (exec (.writeRecordPreemptTable length) s) := by
  refine finishing_taken (finishes_locked ?_)
  split
  · exact finishes_refuse s _
  · split
    · exact finishes_refuse s _
    · exact .answered (u := s.setPre { s.pre with length := length })
        (setPre_moves s (List.Sublist.refl _) (List.Sublist.refl _)) rfl rfl rfl _

theorem insertSwitchpoint_finishing (time plan : Nat) (dim : Arg DimAction) :
    s.Finishing (exec (.insertSwitchpoint time plan dim) s) := by
  refine finishing_taken (finishes_locked ?_)
  split
  · exact finishes_refuse s _
  · rename_i x point
    split
    · exact finishes_refuse s _
    · rename_i room
      have same : x.time = time := by
        unfold switchPointOf at point
        split at point
        · split at point
          · cases point; rfl
          · cases point
        · cases point
      exact .accepted (insertSwitch_moves (by rw [same]; exact room)) s _

theorem deleteSwitchpoint_finishing (time : Nat) : s.Finishing (exec (.deleteSwitchpoint time) s) := by
  refine finishing_taken (finishes_locked ?_)
  split
  · exact finishes_refuse s _
  · split
    · exact finishes_refuse s _
    · exact .accepted (deleteSwitch_moves s time) s _

theorem setClock_finishing (seconds : Nat) : s.Finishing (exec (.setClock seconds) s) := by
  refine finishing_taken (finishes_locked ?_)
  split
  · exact finishes_refuse s _
  · exact .accepted (clockSetTo_moves s seconds) s _

/-! ## Supervision (R20, R130, R147, R160 to R162) -/

theorem learnLamp_finishing (circuit : Nat) (level : Arg DimLevel) : s.Finishing (exec (.learnLamp circuit level) s) := by
  refine finishing_taken (finishes_locked ?_)
  split
  · split
    · exact .unsettled ((beginTraining_moves _ s _).trans (accept_moves _ _))
        ((beginTraining_asks _ s _).trans (.of_circuits rfl rfl rfl))
    · exact finishes_refuse s _
  · exact finishes_refuse s _

theorem learnLampAll_finishing (level : Arg DimLevel) : s.Finishing (exec (.learnLampAll level) s) := by
  refine finishing_taken (finishes_locked ?_)
  split
  · exact finishes_refuse s _
  · split
    · exact finishes_refuse s _
    · exact .unsettled ((foldl_moves (beginTraining_moves _) _ s).trans (accept_moves _ _))
        ((foldl_asks (beginTraining_asks _) _ s).trans (.of_circuits rfl rfl rfl))

theorem learnCable_finishing (circuit : Nat) : s.Finishing (exec (.learnCable circuit) s) := by
  refine finishing_taken (finishes_locked ?_)
  split
  · exact finishes_refuse s _
  · split
    · exact .unsettled ((beginLearning_moves s _).trans (accept_moves _ _))
        ((beginLearning_asks s _).trans (.of_circuits rfl rfl rfl))
    · exact finishes_refuse s _

theorem learnCableAll_finishing : s.Finishing (exec .learnCableAll s) := by
  refine finishing_taken (finishes_locked ?_)
  split
  · exact finishes_refuse s _
  · exact .unsettled ((foldl_moves beginLearning_moves _ s).trans (accept_moves _ _))
      ((foldl_asks beginLearning_asks _ s).trans (.of_circuits rfl rfl rfl))

theorem ackCable_finishing (circuit : Nat) : s.Finishing (exec (.ackCable circuit) s) := by
  refine finishing_taken ?_
  split
  · exact finishes_refuse s _
  · split
    · split
      · exact finishes_accept s _
      · exact .unsettled ((acknowledge_moves s _).trans (accept_moves _ _))
          ((acknowledge_asks s _).trans (.of_circuits rfl rfl rfl))
    · exact finishes_refuse s _

theorem ackCableAll_finishing : s.Finishing (exec .ackCableAll s) :=
  finishing_taken (.unsettled ((foldl_moves acknowledge_moves _ s).trans (accept_moves _ _))
    ((foldl_asks acknowledge_asks _ s).trans (.of_circuits rfl rfl rfl)))

/-- A channel in another state than READY leaves nothing to arbitrate. -/
theorem channel_finishes {ch : Channel} (h : s.Moves (s.setChannel ch)) (busy : ch.state ≠ .ready) (p : Payload) :
    s.Finishes ((s.setChannel ch).accept p) :=
  ⟨s, _, .same, h.trans (accept_moves _ p), .inr ⟨rfl, fun _ ready => absurd ready busy⟩⟩

theorem recalibrate_finishing : s.Finishing (exec .recalibrate s) := by
  refine finishing_taken ?_
  dsimp only
  have begun : s.Finishes ((s.setChannel (s.channel.beginLong s.now)).accept (.word 0)) :=
    channel_finishes s (beginLong_moves s) (fun h => by cases h) _
  split
  · rename_i measuring
    refine channel_finishes s (State.Move.channel { s.channel with owed := true } id (.inr rfl)).moves ?_ _
    change s.channel.state ≠ .ready
    rw [measuring]
    decide
  · exact finishes_accept s _
  · exact begun
  · exact begun
  · exact begun

theorem dimCommand_finishes (on : Bool) : s.Finishes (s.dimCommand on) := by
  unfold State.dimCommand
  split
  · exact finishes_accept s _
  · exact .accepted (setDim_moves s on) s _

/-! ## The link (R175 to R182) -/

theorem readAttention_finishing : s.Finishing (exec .readAttention s) :=
  finishing_taken (.answered (State.Move.link _).moves rfl rfl rfl _)

theorem setAttentionMask_finishing (mask : BitVec 24) : s.Finishing (exec (.setAttentionMask mask) s) :=
  finishing_taken (.answered (State.Move.link _).moves rfl rfl rfl _)

theorem lock_finishing (level : Arg LockLevel) : s.Finishing (exec (.lock level) s) := by
  refine finishing_taken ?_
  dsimp only
  split
  · exact finishes_refuse s _
  · exact .answered (State.Move.link _).moves rfl rfl rfl _

theorem requestRefused_finishing (frame : List Byte) : s.Finishing (exec (.requestRefused frame) s) := by
  refine finishing_taken ?_
  unfold State.refuseRequest
  split
  · split
    · split
      · exact finishes_refuse s _
      · split
        · exact finishes_refuse s _
        · exact finishes_self s
    · exact finishes_link s _
  · exact finishes_link s _

/-! ## The junction (R166 to R173) -/

theorem start_finishing : s.Finishing (exec .start s) := by
  refine finishing_taken ?_
  split
  · exact finishes_refuse s _
  · rename_i accepted
    unfold State.begin
    by_cases dark : s.junction.state = .dark
    · rw [if_pos dark]
      refine ⟨_, _, .supplied dark, ?_, .inl ⟨s, rfl⟩⟩
      exact (each_moves showFlash_moves _ _).trans (accept_moves _ _)
    · rw [if_neg dark]
      have flash : s.junction.state = .flash := by
        unfold State.startFailure at accepted
        split at accepted
        · cases accepted
        · rename_i h
          by_contra other
          exact h (.inl ⟨dark, other⟩)
      refine .accepted (enterStartRed_moves ?_ ?_) s _
      · rw [flash]; rfl
      · rw [flash]; decide

theorem flash_finishing : s.Finishing (exec .flash s) := by
  refine finishing_taken ?_
  split
  · rename_i running
    split
    · exact .accepted (beginClearance_moves running) s _
    · exact finishes_accept s _
  · rename_i startRed
    split
    · exact .answered (setClearance_moves _ (.inr (.inl startRed))) rfl rfl rfl _
    · exact finishes_accept s _
  · exact finishes_accept s _
  all_goals exact finishes_refuse s _

theorem dark_finishing : s.Finishing (exec .dark s) := by
  refine finishing_taken ?_
  have left : s.Finishes (s.settle ((s.leaveSupplied .dark).accept .empty)) :=
    .accepted (leaveSupplied_moves s rfl) s _
  split
  · exact finishes_refuse s _
  · exact finishes_accept s _
  all_goals exact left

theorem clearLockout_finishing : s.Finishing (exec .clearLockout s) := by
  refine finishing_taken ?_
  dsimp only
  split
  · rename_i locked
    exact .answered (u := (s.setJunction { s.junction with
      lockout := s.junction.lockout.map LockoutRecord.asCleared }).enterState .dark) (clearLockout_moves locked _)
      rfl rfl rfl _
  · exact finishes_refuse s _

theorem softReset_finishing : s.Finishing (exec .softReset s) :=
  finishing_taken ⟨_, _, .softReset, accept_moves _ _, .inr ⟨rfl, fun _ ready => by cases ready⟩⟩

theorem reset_finishes (cause : ResetCause) (held : Bool) :
    s.Finishes { s.afterReset cause with resetHeld := held } :=
  ⟨_, _, .reset cause held, .refl, .inr ⟨rfl, fun _ ready => by cases ready⟩⟩

theorem resetNAsserted_finishes : s.Finishes { s with resetHeld := true } :=
  ⟨_, _, .held true, .refl, .inr ⟨rfl, (State.AsksNoMore.of_circuits rfl rfl rfl).arbitrated⟩⟩

/-! ## Selections, modes and preemptions (R69 to R80, R88, R89, R114) -/

theorem selectPlan_finishing (plan : Nat) (hold : Arg HoldArg) : s.Finishing (exec (.selectPlan plan hold) s) := by
  refine finishing_taken ?_
  split
  · rename_i p h _
    split
    · exact finishes_refuse s _
    · split
      · have moves := (selectPlan_moves s p).trans (holdFor_moves _ h)
        have frame := selectPlan_frame s p
        refine .answered moves ?_ ?_ ?_ _
        all_goals rw [frame]; cases h <;> rfl
      · exact finishes_refuse s _
  · exact finishes_refuse s _

theorem releaseToSchedule_finishing : s.Finishing (exec .releaseToSchedule s) := by
  refine finishing_taken ?_
  dsimp only
  have first : s.Moves (s.setSched { s.sched with hold := false }) := setSched_moves s rfl
  split
  · exact .answered first rfl rfl rfl _
  · rename_i x _
    have frame := scheduleSelect_frame (s.setSched { s.sched with hold := false }) x.plan
    refine .answered (first.trans (scheduleSelect_moves _ x.plan)) ?_ ?_ ?_ _
    all_goals rw [frame]; rfl

theorem modeCommand_finishes (m : Mode) : s.Finishes (s.modeCommand m) := by
  unfold State.modeCommand
  split
  · exact finishes_accept s _
  · exact .accepted (changeMode_moves s m) s _

theorem advanceJudged_runs {s : State} (h : s.advanceJudged = .ends) : s.Runs := by
  unfold State.advanceJudged at h
  split at h
  · rename_i live
    exact sequencing_runs live.2.1
  · cases h

theorem advance_finishing : s.Finishing (exec .advance s) := by
  refine finishing_taken ?_
  split
  · rename_i ends
    exact .accepted (endStage_moves (advanceJudged_runs ends)) s _
  · exact .answered (setLatch_moves s true) rfl rfl rfl _
  · exact finishes_accept s _
  · exact finishes_refuse s _

theorem advanceLineActive_finishing : s.Finishing (exec .advanceLineActive s) := by
  refine finishing_live ?_
  split
  · rename_i ends
    exact .settled (endStage_moves (advanceJudged_runs ends)) s
  · exact .unsettled (setLatch_moves s true) (.of_circuits rfl rfl rfl)
  · exact finishes_self s
  · exact finishes_self s

theorem preemptAssert_finishing (entry : Nat) : s.Finishing (exec (.preemptAssert entry) s) := by
  refine finishing_taken ?_
  split
  · exact finishes_refuse s _
  · rename_i e _
    split
    · exact finishes_refuse s _
    · unfold State.preemptAssert
      split
      · split
        · exact finishes_accept s _
        · exact .answered ((setAsserted_moves s e true).tail .drawn) rfl rfl rfl _
      · rename_i free
        refine .settled (.trans ?_ (answer_moves _ _)) s
        refine (setAsserted_moves s e true).trans (judgeEntry_moves fun mem => free ?_)
        exact (engaged_iff s e).2 mem

theorem preemptRelease_finishing (entry : Nat) : s.Finishing (exec (.preemptRelease entry) s) := by
  refine finishing_taken ?_
  split
  · exact finishes_refuse s _
  · rename_i e _
    split
    · exact finishes_refuse s _
    · unfold State.preemptRelease
      split
      · exact finishes_answer s _
      · split
        · exact finishes_answer s _
        · split
          · exact .answered (releaseEntry_moves s e) rfl rfl rfl _
          · exact finishes_accept s _

end Commands

/-! ## Events -/

section Events

variable (s : State)

theorem syncPulse_finishing : s.Finishing (exec .syncPulse s) := by
  refine finishing_live (.unsettled (pulse_moves s) ?_)
  unfold State.pulse
  split
  · split
    · exact .of_circuits rfl rfl rfl
    · split
      · exact .of_circuits rfl rfl rfl
      · unfold State.acceptPulse
        dsimp only
        split <;> split <;> exact .of_circuits rfl rfl rfl
  · exact .of_circuits rfl rfl rfl

theorem prqLineChange_finishing (line : Nat) (active : Bool) : s.Finishing (exec (.prqLineChange line active) s) := by
  refine finishing_next ?_
  split
  · exact finishes_self s
  · split
    · exact finishes_self s
    · exact .unsettled (setLine_moves s _ _) (.of_circuits rfl rfl rfl)

theorem prqAsserted_finishing (line : Nat) : s.Finishing (exec (.prqAsserted line) s) := by
  refine finishing_live ?_
  split
  · exact finishes_self s
  · exact finishes_whenDue fun _ => qualifyAsserted_moves s _

theorem prqReleased_finishing (line : Nat) : s.Finishing (exec (.prqReleased line) s) := by
  refine finishing_live ?_
  split
  · exact finishes_self s
  · split
    · refine .unsettled (qualifyReleased_moves s _) ?_
      unfold State.qualifyReleased
      dsimp only
      split <;> exact .of_circuits rfl rfl rfl
    · exact finishes_self s

theorem redAmberBegin_finishing (group : Nat) : s.Finishing (exec (.redAmberBegin group) s) := by
  refine finishing_live ?_
  split
  · exact finishes_self s
  · refine finishes_whenDue fun due => ?_
    unfold State.redAmberDue at due
    dsimp only at due
    split at due
    · rename_i k _ config _
      exact (State.Move.aspect _ _ k config (by decide) fun h => absurd h (by decide)).moves
    · cases due

theorem greenStart_finishing (group : Nat) : s.Finishing (exec (.greenStart group) s) := by
  refine finishing_live ?_
  split
  · exact finishes_self s
  · rename_i g _
    unfold State.whenDue
    split
    · rename_i due
      refine ⟨_, _, .green g due, ?_, .inl ⟨s, rfl⟩⟩
      exact (setSeq_moves _ (by rfl)).trans (judgeInterstage_moves _)
    · exact finishes_self s

theorem amberEnd_finishing (group : Nat) : s.Finishing (exec (.amberEnd group) s) := by
  refine finishing_live ?_
  split
  · exact finishes_self s
  · refine finishes_whenDue fun due => ?_
    unfold State.amberDue at due
    dsimp only at due
    split at due
    · rename_i vehicle
      obtain ⟨k, config, -⟩ := Option.bind_eq_some_iff.1 vehicle
      exact .head (State.Move.aspect _ _ k config (by decide) fun h => absurd h (by decide)) (clearanceCheck_moves _)
    · cases due

theorem flashHalf_finishing : s.Finishing (exec .flashHalf s) := by
  refine finishing_live ?_
  unfold State.whenDue
  split
  · exact ⟨_, _, .half, .refl, .inl ⟨s, rfl⟩⟩
  · exact finishes_self s

theorem latchTaken_finishing : s.Finishing (exec .latchTaken s) := by
  refine finishing_whenDue fun due => (setLatch_moves s false).trans (endStage_moves (.inl ?_))
  change s.seq.state ≠ .idle
  unfold State.latchDue at due
  intro idle
  simp [idle] at due

theorem dwelling_runs {s : State} (h : s.dwelling ≠ none) : s.Runs := by
  left
  unfold State.dwelling at h
  intro idle
  rw [idle] at h
  exact h rfl

theorem dwellEnd_finishing : s.Finishing (exec .dwellEnd s) := by
  refine finishing_whenDue fun due => endPreemption_moves (dwelling_runs fun none => ?_)
  unfold State.dwellEndDue at due
  rw [none] at due
  cases due

theorem maxDwell_finishing : s.Finishing (exec .maxDwell s) := by
  refine finishing_whenDue fun due => reachMaxDwell_moves (dwelling_runs fun none => ?_)
  unfold State.maxDwellDue at due
  rw [none] at due
  cases due

theorem syncWatchExpiry_finishing : s.Finishing (exec .syncWatchExpiry s) := by
  refine finishing_live ?_
  split
  · exact .unsettled (loseSync_moves s) (.of_circuits rfl rfl rfl)
  · exact finishes_self s

theorem startFlashEnd_finishing : s.Finishing (exec .startFlashEnd s) := by
  refine finishing_whenDue fun due => ?_
  have state : s.junction.state = .startFlash := by
    unfold State.startFlashEndDue at due
    simp only [Bool.and_eq_true, beq_iff_eq] at due
    exact due.1.1.1
  refine enterStartRed_moves ?_ ?_
  · rw [state]; rfl
  · rw [state]; decide

theorem startRedEnd_finishing : s.Finishing (exec .startRedEnd s) := by
  refine finishing_whenDue fun due => enterRunning_moves ?_
  unfold State.startRedEndDue at due
  simp only [Bool.and_eq_true, beq_iff_eq] at due
  rw [due.1.1.1]
  rfl

theorem allRedEnd_finishing : s.Finishing (exec .allRedEnd s) := by
  refine finishing_whenDue fun due => enterFlash_moves fun none => ?_
  unfold State.allRedEndDue at due
  rw [none] at due
  cases due

theorem provingRequestDue_finishing (circuit : Nat) : s.Finishing (exec (.provingRequestDue circuit) s) := by
  refine finishing_live ?_
  split
  · exact finishes_self s
  · exact finishes_whenDue presentRequest_moves

theorem provingRequestDrop_finishing (circuit : Nat) : s.Finishing (exec (.provingRequestDrop circuit) s) := by
  refine finishing_live ?_
  dsimp only
  split
  · exact finishes_self s
  · split
    · exact .unsettled (dropRequest_moves s _) (setCircuit_asks s (fun h => absurd rfl h) id)
    · exact finishes_self s

theorem watchCheckDue_finishing (circuit : Nat) : s.Finishing (exec (.watchCheckDue circuit) s) := by
  refine finishing_live ?_
  split
  · exact finishes_self s
  · refine finishes_whenDue fun due => presentWatched_moves ?_
    unfold State.checkDue at due
    simp only [Bool.and_eq_true] at due
    exact due.1.1.1

theorem monitorLate_finishing (circuit : Nat) : s.Finishing (exec (.monitorLate circuit) s) := by
  refine finishing_live ?_
  split
  · exact finishes_self s
  · split
    · exact .unsettled (reportLate_moves s _)
        (.trans (setCircuit_asks s (by exact id) (by exact id)) (.of_circuits rfl rfl rfl))
    · exact finishes_self s

theorem watchAgeLimit_finishing (circuit : Nat) : s.Finishing (exec (.watchAgeLimit circuit) s) := by
  refine finishing_live ?_
  split
  · exact finishes_self s
  · exact finishes_whenDue fun _ => reachLimit_moves s _

theorem roundEligible_finishing (circuit : Nat) : s.Finishing (exec (.roundEligible circuit) s) := by
  refine finishing_live ?_
  split
  · exact finishes_self s
  · exact finishes_whenDue fun _ => ripen_moves s _

theorem litWindowEnd_finishing (raw : Int) : s.Finishing (exec (.litWindowEnd raw) s) := by
  refine finishing_live ?_
  split
  · exact finishes_self s
  · rename_i window
    refine .settled (endLit_moves ?_ _ _ _ _) s
    intro none
    unfold State.litWindow at window
    rw [none] at window
    cases window

theorem darkWindowEnd_finishing (v l q : Int) : s.Finishing (exec (.darkWindowEnd v l q) s) := by
  refine finishing_live ?_
  split
  · exact finishes_self s
  · rename_i window
    refine .settled (endDark_moves ?_ _ _ _ _ _) s
    intro none
    unfold State.darkWindow at window
    rw [none] at window
    cases window

theorem attemptEnding_running {s : State} {kind : CalKind} {length : Nat} {x : Calibration}
    (h : s.attemptEnding kind length = some x) : s.channel.calibration ≠ none := by
  intro none
  unfold State.attemptEnding at h
  rw [none] at h
  cases h

theorem longCalibrationEnd_finishing (zero span : List Int) : s.Finishing (exec (.longCalibrationEnd zero span) s) := by
  refine finishing_live ?_
  split
  · exact finishes_self s
  · rename_i ending
    exact .settled (endLong_moves (attemptEnding_running ending) _) s

theorem shortCalibrationAttemptEnd_finishing (zero span : List Int) :
    s.Finishing (exec (.shortCalibrationAttemptEnd zero span) s) := by
  refine finishing_live ?_
  split
  · exact finishes_self s
  · rename_i ending
    exact .settled (endShort_moves (attemptEnding_running ending) _ _) s

end Events

/-- Every instruction ends in a state that a step may end in. -/
theorem exec_finishing (i : Instr) (s : State) : s.Finishing (exec i s) := by
  cases i with
  | readRecord => exact readRecord_finishing s _ _ _ _
  | writeRecordGroup => exact writeRecordGroup_finishing s _ _
  | updateFieldsGroup => exact updateFieldsGroup_finishing s _ _
  | retireRecordGroup => exact retireRecordGroup_finishing s _
  | writeRecordCircuit => exact writeRecordCircuit_finishing s _ _ _ _
  | updateFieldsCircuit => exact updateFieldsCircuit_finishing s _ _ _ _
  | writeRecordConflict => exact writeRecordConflict_finishing s _ _ _ _ _
  | updateFieldsConflict => exact updateFieldsConflict_finishing s _ _ _ _ _
  | writeRecordPlan => exact writeRecordPlan_finishing s _ _
  | updateFieldsPlan => exact updateFieldsPlan_finishing s _ _
  | retireRecordPlan => exact retireRecordPlan_finishing s _
  | writeRecordPreemptEntry => exact writeRecordPreemptEntry_finishing s _ _
  | updateFieldsPreemptEntry => exact updateFieldsPreemptEntry_finishing s _ _
  | retireRecordPreemptEntry => exact retireRecordPreemptEntry_finishing s _
  | writeRecordPreemptTable => exact writeRecordPreemptTable_finishing s _
  | writeRecordJunction => exact writeRecordJunction_finishing s _ _ _ _
  | updateFieldsJunction => exact updateFieldsJunction_finishing s _ _ _ _
  | recordWriteUnsupported => exact recordWriteUnsupported_finishing s _ _
  | forgetCircuit => exact forgetCircuit_finishing s _
  | insertSwitchpoint => exact insertSwitchpoint_finishing s _ _ _
  | deleteSwitchpoint => exact deleteSwitchpoint_finishing s _
  | validatePlan => exact validatePlan_finishing s _
  | learnLamp => exact learnLamp_finishing s _ _
  | learnLampAll => exact learnLampAll_finishing s _
  | learnCable => exact learnCable_finishing s _
  | learnCableAll => exact learnCableAll_finishing s
  | ackCable => exact ackCable_finishing s _
  | ackCableAll => exact ackCableAll_finishing s
  | recalibrate => exact recalibrate_finishing s
  | dimOn => exact finishing_taken (dimCommand_finishes s true)
  | dimOff => exact finishing_taken (dimCommand_finishes s false)
  | readStatus => exact finishing_taken (finishes_accept s _)
  | readAttention => exact readAttention_finishing s
  | setAttentionMask => exact setAttentionMask_finishing s _
  | lock => exact lock_finishing s _
  | start => exact start_finishing s
  | flash => exact flash_finishing s
  | dark => exact dark_finishing s
  | lockout => exact finishing_taken (.accepted (forceLockout_moves s) s _)
  | clearLockout => exact clearLockout_finishing s
  | softReset => exact softReset_finishing s
  | selectPlan => exact selectPlan_finishing s _ _
  | releaseToSchedule => exact releaseToSchedule_finishing s
  | setModeFree => exact finishing_taken (modeCommand_finishes s .free)
  | setModeSynced => exact finishing_taken (modeCommand_finishes s .synced)
  | setModeStepped => exact finishing_taken (modeCommand_finishes s .stepped)
  | advance => exact advance_finishing s
  | preemptAssert => exact preemptAssert_finishing s _
  | preemptRelease => exact preemptRelease_finishing s _
  | setClock => exact setClock_finishing s _
  | requestRefused => exact requestRefused_finishing s _
  | chipSelectReleased => exact finishing_next (finishes_link s _)
  | powerOnReset => exact finishing_next (reset_finishes s .powerOn s.resetHeld)
  | resetNAsserted => exact finishing_next (resetNAsserted_finishes s)
  | lineReset => exact finishing_next (reset_finishes s .line false)
  | syncPulse => exact syncPulse_finishing s
  | advanceLineActive => exact advanceLineActive_finishing s
  | prqLineChange => exact prqLineChange_finishing s _ _
  | prqAsserted => exact prqAsserted_finishing s _
  | prqReleased => exact prqReleased_finishing s _
  | redAmberBegin => exact redAmberBegin_finishing s _
  | greenStart => exact greenStart_finishing s _
  | amberEnd => exact amberEnd_finishing s _
  | flashHalf => exact flashHalf_finishing s
  | stageEnd => exact finishing_whenDue fun due => endStage_moves (stageEndDue_runs due)
  | latchTaken => exact latchTaken_finishing s
  | clearanceLose => exact finishing_whenDue fun _ => loseInClearance_moves s
  | truncationLose => exact finishing_whenDue fun _ => loseInTruncation_moves s
  | dwellEnd => exact dwellEnd_finishing s
  | maxDwell => exact maxDwell_finishing s
  | syncWatchExpiry => exact syncWatchExpiry_finishing s
  | clockSecond => exact finishing_whenDue fun _ => tickSecond_moves s
  | startFlashEnd => exact startFlashEnd_finishing s
  | startRedEnd => exact startRedEnd_finishing s
  | allRedEnd => exact allRedEnd_finishing s
  | litWindowEnd => exact litWindowEnd_finishing s _
  | darkWindowEnd => exact darkWindowEnd_finishing s _ _ _
  | longCalibrationEnd => exact longCalibrationEnd_finishing s _ _
  | shortCalibrationAttemptEnd => exact shortCalibrationAttemptEnd_finishing s _ _
  | shortCalibrationDue => exact finishing_whenDue fun _ => presentShort_moves s
  | provingRequestDue => exact provingRequestDue_finishing s _
  | provingRequestDrop => exact provingRequestDrop_finishing s _
  | settlingEnd => exact finishing_whenDue fun _ => endSettling_moves s
  | watchCheckDue => exact watchCheckDue_finishing s _
  | monitorLate => exact monitorLate_finishing s _
  | watchAgeLimit => exact watchAgeLimit_finishing s _
  | roundEligible => exact roundEligible_finishing s _

end Sys2Proof.Machine
end


section
/-! What the moves leave shown: the drives, the aspects, the configurations, SAFE_ENABLE and the flash timebase; and the
laws of the lamp supply, which every step keeps. -/

namespace Sys2Proof.Machine

/-! ## What a state shows -/

/-- `t` shows what `s` shows: SAFE_ENABLE, the flash timebase, the configurations and aspects, and the drives. -/
def State.ShowsAs (s t : State) : Prop :=
  t.output.safeEnable = s.output.safeEnable ∧ t.output.flash = s.output.flash
    ∧ (∀ g : GroupIx, (t.group g).config = (s.group g).config ∧ (t.group g).aspect = (s.group g).aspect)
    ∧ ∀ c : CircuitIx, (t.circuit c).drive.on = (s.circuit c).drive.on

/-- `t` shows what `s` shows, but that a group has taken an aspect other than GREEN, AMBER only after GREEN. -/
def State.AspectMove (s t : State) : Prop :=
  ∃ (g : GroupIx) (a : Aspect) (k : GroupConfig), (s.group g).config = some k ∧ a ≠ .green
    ∧ (a = .amber → (s.group g).aspect = .green) ∧ t = s.setAspect g a

theorem arbitrate_shows (s : State) : s.ShowsAs s.renewOffer.arbitrate := by
  have frame := arbitrate_frame s.renewOffer
  have circuit := arbitrate_circuit s.renewOffer
  generalize s.renewOffer.arbitrate = t at frame circuit ⊢
  refine ⟨by rw [frame]; rfl, by rw [frame]; rfl, fun g => ?_, fun c => ?_⟩
  · have group : t.group g = s.group g := by rw [frame]; rfl
    rw [group]
    exact ⟨rfl, rfl⟩
  · have drive : (t.circuit c).drive = (s.renewOffer.circuit c).drive := by rw [(circuit c).1]
    rw [drive]
    rfl

theorem enterState_shows (s : State) (j : JunctionState) : s.ShowsAs (s.enterState j) :=
  ⟨rfl, rfl, fun _ => ⟨rfl, rfl⟩, fun _ => rfl⟩

/-- A move shows what was shown, or is a change of aspect, or the all-off. -/
theorem State.Move.shows {s t : State} (h : s.Move t) : s.ShowsAs t ∨ s.AspectMove t ∨ s.allOff.ShowsAs t := by
  have same {u : State} (groups : u.groups = s.groups) (circuits : u.circuits = s.circuits)
      (safe : u.output.safeEnable = s.output.safeEnable) (flash : u.output.flash = s.output.flash) : s.ShowsAs u := by
    refine ⟨safe, flash, fun g => ?_, fun c => ?_⟩
    · unfold State.group; rw [groups]; exact ⟨rfl, rfl⟩
    · unfold State.circuit; rw [circuits]
  cases h with
  | awaited g a =>
    refine .inl ⟨rfl, rfl, fun h => ?_, fun _ => rfl⟩
    rw [State.setGroup_group]
    split
    · rename_i e; rw [e]; exact ⟨rfl, rfl⟩
    · exact ⟨rfl, rfl⟩
  | aspect g a k config green amber => exact .inr (.inl ⟨g, a, k, config, green, amber, rfl⟩)
  | records cs keeps => exact .inl ⟨rfl, rfl, fun _ => ⟨rfl, rfl⟩, fun c => congrArg Drive.on (keeps c).1⟩
  | arbitrate => exact .inl (arbitrate_shows s)
  | leave j => exact .inr (.inr (enterState_shows s.allOff j))
  | _ => exact .inl (same rfl rfl rfl rfl)

/-! ## A change of aspect (R10, R14, R16, R17) -/

theorem ordered_on (d : Drive) (safe : Bool) (now : Instant) (w : Bool) :
    (d.ordered safe now w).on = (w && (d.on || safe)) := by
  unfold Drive.ordered
  cases hd : d.on <;> cases safe <;> cases w <;> simp [hd]

section Aspects

variable {s : State} {g : GroupIx} {k : GroupConfig} (config : (s.group g).config = some k) (a : Aspect)
include config

theorem aspectSet_drive_mem {c : CircuitIx} (mem : c ∈ k.circuits) : ((s.setAspect g a).circuit c).drive.on =
    (k.lights a ((s.setAspect g a).flashOn) c && ((s.circuit c).drive.on || s.output.safeEnable)) := by
  rw [setAspect_drive s config a c, if_pos mem, ordered_on]
  have flash : (s.setAspect g a).flashOn = (s.flashAfter g a).any (·.on) := by
    unfold State.flashOn
    rw [setAspect_spec]
  rw [flash]

theorem aspectSet_drive_other {c : CircuitIx} (other : c ∉ k.circuits) :
    ((s.setAspect g a).circuit c).drive.on = (s.circuit c).drive.on := by
  rw [setAspect_drive s config a c, if_neg other]

end Aspects

theorem aspectSet_safe (s : State) (g : GroupIx) (a : Aspect) :
    (s.setAspect g a).output.safeEnable = s.output.safeEnable := by rw [setAspect_spec]

theorem aspectSet_flash (s : State) (g : GroupIx) (a : Aspect) :
    (s.setAspect g a).output.flash = s.flashAfter g a := by rw [setAspect_spec]

theorem aspectSet_config (s : State) (g h : GroupIx) (a : Aspect) :
    ((s.setAspect g a).group h).config = (s.group h).config := by
  obtain ⟨w, e⟩ := setAspect_group s g h a
  rw [e]

theorem aspectSet_aspect (s : State) (g h : GroupIx) (a : Aspect) :
    ((s.setAspect g a).group h).aspect = if h = g then a else (s.group h).aspect := by
  obtain ⟨w, e⟩ := setAspect_group s g h a
  rw [e]

/-- What a change of aspect leaves as it was beside the drives. -/
theorem aspectSet_rest (s : State) (g : GroupIx) (a : Aspect) :
    (s.setAspect g a).junction = s.junction ∧ (s.setAspect g a).plans = s.plans ∧ (s.setAspect g a).sched = s.sched
      ∧ (s.setAspect g a).pre = s.pre ∧ (s.setAspect g a).seq.state = s.seq.state := by
  rw [setAspect_spec]
  refine ⟨rfl, rfl, rfl, rfl, ?_⟩
  dsimp only
  split <;> rfl

/-! ## The all-off (R16, R17) -/

theorem allOff_rest (s : State) : s.allOff.junction = s.junction ∧ s.allOff.plans = s.plans ∧ s.allOff.sched = s.sched
    ∧ s.allOff.pre = s.pre ∧ s.allOff.seq.state = s.seq.state ∧ s.allOff.output.safeEnable = false := by
  rw [(allOff_spec s).1]
  exact ⟨rfl, rfl, rfl, rfl, rfl, rfl⟩

theorem allOff_off (s : State) (c : CircuitIx) : (s.allOff.circuit c).drive.on = false := by
  have frame := (allOff_spec s).1
  have : s.allOff.circuit c = s.safeOff.circuit c := by
    unfold State.circuit
    rw [frame]
  rw [this]
  exact (safeOff_circuit s c).1

/-! ## The step's ends -/

/-- A step is an idle one, or ends as the command at the front of the queue may end it. -/
theorem step_cases {s t : State} (h : step s = .next t) :
    t = { s with now := t.now, draws := t.draws, pending := t.pending }
      ∨ ∃ p, ({ s with pending := p } : State).Finishes t := by
  unfold step at h
  split at h
  · cases h
    left
    unfold State.tick
    split
    · rfl
    · split <;> rfl
  · exact .inr ⟨_, exec_finishing _ _ t h⟩

/-- A law that every move keeps is kept along moves. -/
theorem kept_along {L : State → Prop} (moves : ∀ {s t : State}, s.Move t → L s → L t) {s t : State} (m : s.Moves t)
    (h : L s) : L t := by
  induction m with
  | refl => exact h
  | tail _ last ih => exact moves last ih

/-- What ends a step is reached by moves from a first change. -/
theorem finishes_moves {s t : State} (h : s.Finishes t) : ∃ v, s.Opens v ∧ v.Moves t := by
  obtain ⟨v, u, opens, moves, ⟨w, rfl⟩ | ⟨rfl, -⟩⟩ := h
  · exact ⟨v, opens, moves.trans (settle_moves w u)⟩
  · exact ⟨v, opens, moves⟩

/-- A law kept by every move, and by every first change of the step, is kept by the step. -/
theorem law_kept {L : State → Prop} (moves : ∀ {s t : State}, s.Move t → L s → L t)
    (idle : ∀ (s : State) n d p, L s → L { s with now := n, draws := d, pending := p }) {s t : State} (start : L s)
    (opens : ∀ {r v : State}, L r → (∃ p, r = { s with pending := p }) → r.Opens v → L v) (h : step s = .next t) : L t := by
  rcases step_cases h with same | ⟨p, finishes⟩
  · rw [same]
    exact idle s _ _ _ start
  · obtain ⟨v, first, along⟩ := finishes_moves finishes
    exact kept_along moves along (opens (idle s s.now s.draws p start) ⟨p, rfl⟩ first)

end Sys2Proof.Machine
end


section
/-! The laws of the stores and of the preemption unit, which every step keeps. -/

namespace Sys2Proof.Machine

/-! ## What the first changes leave -/

theorem orderFlash_spec (s : State) (g : GroupIx) :
    s.orderFlash g = { s with channel := (s.orderFlash g).channel, circuits := (s.orderFlash g).circuits } := by
  unfold State.orderFlash
  split
  · split
    · exact orderDrives_spec s _ _
    · rfl
  · rfl

theorem eachOrderFlash_spec (gs : List GroupIx) (s : State) : s.each State.orderFlash gs =
    { s with channel := (s.each State.orderFlash gs).channel, circuits := (s.each State.orderFlash gs).circuits } := by
  induction gs generalizing s with
  | nil => rfl
  | cons g gs ih =>
    have first := orderFlash_spec s g
    have rest := ih (s.orderFlash g)
    rw [show s.each State.orderFlash (g :: gs) = (s.orderFlash g).each State.orderFlash gs from rfl]
    generalize (s.orderFlash g).each State.orderFlash gs = u at rest ⊢
    rw [rest, first]

theorem changeHalf_frame (s : State) : s.changeHalf = { s with
    channel := s.changeHalf.channel, circuits := s.changeHalf.circuits
    output := { s.output with flash := s.changeHalf.output.flash } } := by
  unfold State.changeHalf
  split
  · rfl
  · rename_i f _
    dsimp only
    rw [eachOrderFlash_spec]
    rfl

theorem orderFlash_still (s : State) (g : GroupIx) : (s.orderFlash g).still = s.still := by
  unfold State.orderFlash
  split
  · split
    · exact orderDrives_still s _ _
    · rfl
  · rfl

theorem changeHalf_still (s : State) : s.changeHalf.still = s.still := by
  unfold State.changeHalf
  split
  · rfl
  · rename_i f _
    dsimp only
    rw [each_still _ State.orderFlash orderFlash_still]
    exact setOutput_still s rfl

/-- What an entry to a junction state leaves as it was. -/
theorem enterState_rest (s : State) (j : JunctionState) : (s.enterState j).plans = s.plans
    ∧ (s.enterState j).sched = s.sched ∧ (s.enterState j).pre = s.pre ∧ (s.enterState j).circuits = s.circuits
    ∧ (s.enterState j).groups = s.groups ∧ (s.enterState j).output = s.output ∧ (s.enterState j).channel = s.channel
    ∧ (s.enterState j).seq = s.seq := ⟨rfl, rfl, rfl, rfl, rfl, rfl, rfl, rfl⟩

theorem storeGroup_circuit (s : State) (g : GroupIx) (k : Option GroupConfig) (c : CircuitIx) :
    (s.storeGroup g k).circuit c = s.circuit c ∨ (s.storeGroup g k).circuit c = (s.circuit c).reassigned := by
  obtain ⟨t, ht⟩ : ∃ t, t = s.setGroup g { s.group g with
      config := k, aspect := .dark, awaited := if k.isSome then (s.group g).awaited else none } := ⟨_, rfl⟩
  have circuit : (s.storeGroup g k).circuit c =
      if s.assignment c = t.assignment c then s.circuit c else (s.circuit c).reassigned := by
    rw [ht]
    exact Table.get_ofFn _ c
  rw [circuit]
  split
  · exact .inl rfl
  · exact .inr rfl

/-! ## Plans and switch points (R44, R107) -/

theorem move_stores {s t : State} (h : s.Move t) : (s.OneActive → t.OneActive) ∧ (s.PointsLaw → t.PointsLaw) := by
  have same {u : State} (plans : u.plans = s.plans) (sched : u.sched = s.sched) :
      (s.OneActive → u.OneActive) ∧ (s.PointsLaw → u.PointsLaw) := by
    unfold State.OneActive State.PointsLaw State.plan
    rw [plans, sched]
    exact ⟨id, id⟩
  cases h with
  | aspect g a =>
    obtain ⟨-, plans, sched, -⟩ := aspectSet_rest s g a
    exact same plans sched
  | plans ps law => exact ⟨law, id⟩
  | sched d law => exact ⟨id, law⟩
  | arbitrate =>
    have frame := arbitrate_frame s.renewOffer
    exact same (by rw [frame]; rfl) (by rw [frame]; rfl)
  | leave j =>
    obtain ⟨-, plans, sched, -⟩ := allOff_rest s
    obtain ⟨plans', sched', -⟩ := enterState_rest s.allOff j
    exact same (plans'.trans plans) (sched'.trans sched)
  | _ => exact same rfl rfl

theorem OneActive_of_inactive {s : State} (h : ∀ p : PlanIx, (s.plan p).phase ≠ some .active) : s.OneActive :=
  fun p _ hp => absurd hp (h p)

theorem softReset_plan (s : State) (p : PlanIx) : s.softReset.plan p = (s.darkened.plan p).atSoftReset :=
  Table.get_map ..

theorem opens_stores {s v : State} (h : s.Opens v) : (s.OneActive → v.OneActive) ∧ (s.PointsLaw → v.PointsLaw) := by
  have same {u : State} (plans : u.plans = s.plans) (sched : u.sched = s.sched) :
      (s.OneActive → u.OneActive) ∧ (s.PointsLaw → u.PointsLaw) := by
    unfold State.OneActive State.PointsLaw State.plan
    rw [plans, sched]
    exact ⟨id, id⟩
  cases h with
  | green g =>
    obtain ⟨-, plans, sched, -⟩ := aspectSet_rest (s.setGroup g { s.group g with awaited := none }) g .green
    exact same plans sched
  | half =>
    have frame := changeHalf_frame s
    exact same (by rw [frame]) (by rw [frame])
  | stored g k =>
    obtain ⟨u, hu⟩ : ∃ u : State, s.storeGroup g k = u.demotePlans ∧ u.plans = s.plans ∧ u.sched = s.sched := ⟨_, rfl, rfl, rfl⟩
    obtain ⟨stored, plans, sched⟩ := hu
    rw [stored]
    obtain ⟨one, points⟩ := same plans sched
    exact ⟨fun law => kept_along (fun m => (move_stores m).1) (demotePlans_moves u) (one law),
      fun law => kept_along (fun m => (move_stores m).2) (demotePlans_moves u) (points law)⟩
  | softReset =>
    have sched : s.darkened.sched = s.sched := by
      unfold State.darkened
      split
      · exact (allOff_rest s).2.2.1
      · rfl
    refine ⟨fun _ => OneActive_of_inactive fun p => ?_, fun law => ?_⟩
    · rw [softReset_plan]
      cases s.darkened.plan p <;> simp [Plan.atSoftReset, Plan.phase]
    · unfold State.PointsLaw at law ⊢
      change s.darkened.sched.points.Pairwise _ ∧ s.darkened.sched.points.length ≤ 24
      rw [sched]
      exact law
  | reset cause held =>
    refine ⟨fun _ => OneActive_of_inactive fun p => ?_, fun _ => ⟨List.Pairwise.nil, Nat.zero_le _⟩⟩
    change (State.reset.plan p).phase ≠ _
    rw [reset_plan]
    exact fun h => by cases h
  | _ => exact same rfl rfl

/-! ## Circuit records (R7, R139, R143, R149, R151) -/

theorem Circuit.law_of_still {k m : Circuit} (h : m.still = k.still) (law : k.Law) : m.Law := by
  have same (n : Circuit) : n.Law ↔ n.still.Law := Iff.rfl
  rw [same, h]
  exact law

theorem circuit_still {s t : State} (h : t.still = s.still) (c : CircuitIx) : (t.circuit c).still = (s.circuit c).still := by
  have get (u : State) : u.still.circuit c = (u.circuit c).still := Table.get_map ..
  rw [← get, ← get, h]

theorem circuitLaw_of_still {s t : State} (h : t.still = s.still) (law : s.CircuitLaw) : t.CircuitLaw :=
  fun c => Circuit.law_of_still (circuit_still h c) (law c)

theorem move_circuitLaw {s t : State} (h : s.Move t) (law : s.CircuitLaw) : t.CircuitLaw := by
  cases h with
  | aspect g a => exact circuitLaw_of_still (setAspect_still s g a) law
  | records cs keeps =>
    intro c
    obtain ⟨-, -, -, -, kept⟩ := keeps c
    exact kept (law c)
  | arbitrate =>
    intro c
    have circuit := (arbitrate_circuit s.renewOffer c).1
    generalize s.renewOffer.arbitrate.circuit c = k at circuit ⊢
    rw [circuit]
    exact law c
  | leave j =>
    have kept : s.allOff.CircuitLaw := circuitLaw_of_still (allOff_still s) law
    generalize s.allOff = u at kept
    exact kept
  | _ => exact law

theorem darkened_still (s : State) : s.darkened.still = s.still := by
  unfold State.darkened
  split
  · exact allOff_still s
  · rfl

theorem circuit_atReset_law (now : Instant) : (Circuit.atReset now).Law := by
  refine ⟨⟨le_refl _, Nat.le_add_left 1 3, Nat.zero_le _, fun _ => rfl⟩, ?_, ?_, Nat.zero_le _, Nat.zero_le _, fun _ => rfl, ?_⟩
  all_goals rintro r ⟨⟩

theorem opens_circuitLaw {s v : State} (h : s.Opens v) (law : s.CircuitLaw) : v.CircuitLaw := by
  have cleared {k m : Circuit} (own : k.Law) (same : m.technology = k.technology ∧ m.heads = k.heads ∧ m.residual = k.residual
      ∧ m.lamp.fullRef = k.lamp.fullRef ∧ m.lamp.dimRef = k.lamp.dimRef ∧ m.cable.count = k.cable.count
      ∧ m.cable.counted = k.cable.counted) (agreement : m.lamp.agreement = 0) (training : m.lamp.training = none) : m.Law := by
    obtain ⟨technology, heads, residual, full, dim, count, counted⟩ := same
    unfold Circuit.Law at own ⊢
    rw [technology, heads, residual, full, dim, count, counted, agreement, training]
    obtain ⟨fields, fulls, dims, -, counts, counteds, -⟩ := own
    exact ⟨fields, fulls, dims, Nat.zero_le _, counts, counteds, fun t h => by cases h⟩
  cases h with
  | green g due => exact circuitLaw_of_still (setAspect_still (s.setGroup g { s.group g with awaited := none }) g .green) law
  | half => exact circuitLaw_of_still (changeHalf_still s) law
  | stored g k =>
    intro c
    rcases storeGroup_circuit s g k c with same | changed
    · rw [same]
      exact law c
    · rw [changed]
      exact cleared (law c) ⟨rfl, rfl, rfl, rfl, rfl, rfl, rfl⟩ rfl rfl
  | softReset =>
    intro c
    have circuit : s.softReset.circuit c = (s.darkened.circuit c).atSoftReset := Table.get_map ..
    rw [circuit]
    exact cleared (circuitLaw_of_still (darkened_still s) law c) ⟨rfl, rfl, rfl, rfl, rfl, rfl, rfl⟩ rfl rfl
  | reset cause held =>
    intro c
    have circuit : ({ s.afterReset cause with resetHeld := held } : State).circuit c = Circuit.atReset s.now :=
      Table.get_replicate ..
    rw [circuit]
    exact circuit_atReset_law _
  | _ => exact law

/-- Settles O58, by the moves a step is made of. -/
theorem stepsKeepTheStores : Obligations.StepsKeepTheStores := by
  intro s t h
  refine ⟨fun law => ?_, fun law => ?_, fun law => ?_⟩
  · exact law_kept (fun m => (move_stores m).1) (fun _ _ _ _ l => l) law (fun l _ o => (opens_stores o).1 l) h
  · exact law_kept (fun m => (move_stores m).2) (fun _ _ _ _ l => l) law (fun l _ o => (opens_stores o).2 l) h
  · exact law_kept move_circuitLaw (fun _ _ _ _ l => l) law (fun l _ o => opens_circuitLaw o l) h

/-! ## The preemption unit (R90, R92) -/

theorem preemptLaw_of_pre {s t : State} (pre : t.pre = s.pre) (law : s.PreemptLaw) : t.PreemptLaw := by
  unfold State.PreemptLaw State.engaged at law ⊢
  rw [pre]
  exact law

theorem move_preemptLaw {s t : State} (h : s.Move t) (law : s.PreemptLaw) : t.PreemptLaw := by
  cases h with
  | aspect g a => exact preemptLaw_of_pre (aspectSet_rest s g a).2.2.2.1 law
  | pre p kept => exact kept law
  | arbitrate => exact preemptLaw_of_pre (by rw [arbitrate_frame s.renewOffer]; rfl) law
  | leave j =>
    obtain ⟨-, -, -, pre, -⟩ := allOff_rest s
    exact preemptLaw_of_pre ((enterState_rest s.allOff j).2.2.1.trans pre) law
  | _ => exact law

theorem preemptLaw_of_empty {s : State} (chain : s.pre.chain = []) (waiting : s.pre.waiting = []) : s.PreemptLaw := by
  unfold State.PreemptLaw State.engaged
  rw [chain, waiting]
  exact ⟨Nat.zero_le _, List.nodup_nil, List.Pairwise.nil⟩

theorem opens_preemptLaw {s v : State} (h : s.Opens v) (law : s.PreemptLaw) : v.PreemptLaw := by
  cases h with
  | green g due =>
    exact preemptLaw_of_pre (aspectSet_rest (s.setGroup g { s.group g with awaited := none }) g .green).2.2.2.1 law
  | half => exact preemptLaw_of_pre (by rw [changeHalf_frame s]) law
  | softReset => exact preemptLaw_of_empty rfl rfl
  | reset cause held => exact preemptLaw_of_empty rfl rfl
  | _ => exact law

/-- Settles O59, by the moves a step is made of. -/
theorem stepsKeepThePreemptionLaws : Obligations.StepsKeepThePreemptionLaws := fun _ _ law h =>
  law_kept move_preemptLaw (fun _ _ _ _ l => l) law (fun l _ o => opens_preemptLaw o l) h

end Sys2Proof.Machine
end


section
/-! The laws of the lamp supply and of the outputs, which every step keeps. -/

namespace Sys2Proof.Machine

/-! ## The lamp supply (R17, R61, R165, R169) -/

/-- The laws of the supply but for the drives: what they say of SAFE_ENABLE, the junction and the sequencer. -/
theorem enabled_of_same {s t : State} (safe : t.output.safeEnable = s.output.safeEnable)
    (junction : t.junction = s.junction) (seq : t.seq.state = s.seq.state)
    (drives : s.DrivesLaw → t.DrivesLaw) (law : s.SupplyInv) : t.SupplyInv := by
  obtain ⟨enable, clearance, sequencer, off⟩ := law
  unfold State.EnableLaw State.ClearanceLaw State.SequencerLaw at *
  refine ⟨?_, ?_, ?_, drives off⟩
  · unfold State.EnableLaw; rw [safe, junction]; exact enable
  · unfold State.ClearanceLaw; rw [junction]; exact clearance
  · unfold State.SequencerLaw; rw [junction, seq]; exact sequencer

theorem drivesLaw_of_shows {s t : State} (h : s.ShowsAs t) (law : s.DrivesLaw) : t.DrivesLaw := by
  obtain ⟨safe, -, -, drives⟩ := h
  intro off c
  rw [drives c]
  exact law (safe ▸ off) c

/-- A change of aspect switches no drive on while SAFE_ENABLE is inactive. -/
theorem drivesLaw_of_aspect {s : State} {g : GroupIx} {k : GroupConfig} (config : (s.group g).config = some k) (a : Aspect)
    (law : s.DrivesLaw) : (s.setAspect g a).DrivesLaw := by
  intro off c
  rw [aspectSet_safe] at off
  by_cases mem : c ∈ k.circuits
  · rw [aspectSet_drive_mem config a mem, law off c, off]
    simp
  · rw [aspectSet_drive_other config a mem]
    exact law off c

theorem aspectSet_supplyInv {s : State} {g : GroupIx} {k : GroupConfig} (config : (s.group g).config = some k) (a : Aspect)
    (law : s.SupplyInv) : (s.setAspect g a).SupplyInv :=
  enabled_of_same (aspectSet_safe s g a) (aspectSet_rest s g a).1 (aspectSet_rest s g a).2.2.2.2
    (drivesLaw_of_aspect config a) law

/-- An entry to a junction state that SAFE_ENABLE agrees with, the sequencer IDLE but in RUNNING. -/
theorem enterState_supplyInv {s : State} {j : JunctionState} (enable : s.output.safeEnable = j.supplied)
    (idle : s.seq.state ≠ .idle → j = .running) (drives : s.DrivesLaw) : (s.enterState j).SupplyInv :=
  ⟨enable, fun h => absurd rfl h, idle, drives⟩

theorem move_supplyInv {s t : State} (h : s.Move t) (law : s.SupplyInv) : t.SupplyInv := by
  have shows := h.shows
  obtain ⟨enable, clearance, sequencer, off⟩ := law
  have law : s.SupplyInv := ⟨enable, clearance, sequencer, off⟩
  cases h with
  | awaited g a => exact enabled_of_same (s := s) (t := s.setGroup g _) rfl rfl rfl id law
  | aspect g a k config => exact aspectSet_supplyInv config a law
  | seq q runs =>
    refine ⟨enable, clearance, fun busy => ?_, off⟩
    rcases runs busy with live | running
    · exact sequencer live
    · exact running
  | records cs keeps =>
    refine enabled_of_same (s := s) (t := { s with circuits := cs }) rfl rfl rfl (fun law => ?_) law
    exact drivesLaw_of_shows (s := s) (t := { s with circuits := cs })
      ⟨rfl, rfl, fun _ => ⟨rfl, rfl⟩, fun c => congrArg Drive.on (keeps c).1⟩ law
  | arbitrate =>
    have frame := arbitrate_frame s.renewOffer
    refine enabled_of_same ?_ ?_ ?_ (drivesLaw_of_shows (arbitrate_shows s)) law
    all_goals rw [frame]; rfl
  | junction j state started =>
    refine ⟨?_, fun h => ?_, fun h => ?_, off⟩
    · change s.output.safeEnable = j.state.supplied
      rw [state]
      exact enable
    · change j.state = .startRed ∨ j.state = .running
      rw [state]
      rcases started h with before | now
      · exact clearance before
      · exact now
    · change j.state = .running
      rw [state]
      exact sequencer h
  | leave j unsupplied idle =>
    obtain ⟨-, -, -, -, seq, safe⟩ := allOff_rest s
    refine enterState_supplyInv (safe.trans unsupplied.symm) (fun busy => ?_) (fun _ => allOff_off s)
    rw [seq] at busy
    rcases idle with idle | other
    · exact absurd idle busy
    · exact absurd (sequencer busy) other
  | enter j supplied before idle =>
    refine enterState_supplyInv ?_ (fun busy => ?_) off
    · rw [supplied, enable]
      rcases before with before | cleared
      · exact before
      · rcases clearance cleared with state | state <;> rw [state] <;> rfl
    · rcases idle with running | idle | other
      · exact running
      · exact absurd idle busy
      · exact absurd (sequencer busy) other
  | swap j unsupplied before =>
    refine enterState_supplyInv ?_ (fun busy => ?_) off
    · rw [enable, before, unsupplied]
    · have running := sequencer busy
      rw [running] at before
      cases before
  | _ => exact law

/-! ### The first changes of a step -/

/-- A group whose green is due has a record. -/
theorem greenDue_config {s : State} {g : GroupIx} (due : s.greenDue g = true) : ∃ k, (s.group g).config = some k := by
  cases config : (s.group g).config with
  | some k => exact ⟨k, rfl⟩
  | none =>
    unfold State.greenDue at due
    simp [config] at due

theorem gained_config {s : State} {g : GroupIx} {k : GroupConfig} (config : (s.group g).config = some k) (a : Option Instant) :
    ((s.setGroup g { s.group g with awaited := a }).group g).config = some k := by
  rw [setGroup_awaited_self]
  exact config

/-- The orders of the flash timebase switch no drive on while SAFE_ENABLE is inactive. -/
theorem orderFlash_off {s : State} (off : s.output.safeEnable = false) {c : CircuitIx}
    (dark : (s.circuit c).drive.on = false) (g : GroupIx) : ((s.orderFlash g).circuit c).drive.on = false := by
  unfold State.orderFlash
  split
  · rename_i k _
    split
    · rw [orderDrives_drive]
      split
      · rw [ordered_on, dark, off]
        simp
      · exact dark
    · exact dark
  · exact dark

theorem changeHalf_off {s : State} (off : s.output.safeEnable = false) {c : CircuitIx}
    (dark : (s.circuit c).drive.on = false) : (s.changeHalf.circuit c).drive.on = false := by
  have along (gs : List GroupIx) (t : State) (off : t.output.safeEnable = false) (dark : (t.circuit c).drive.on = false) :
      ((t.each State.orderFlash gs).circuit c).drive.on = false := by
    induction gs generalizing t with
    | nil => exact dark
    | cons g gs ih => exact ih (t.orderFlash g) (by rw [orderFlash_spec]; exact off) (orderFlash_off off dark g)
  unfold State.changeHalf
  split
  · exact dark
  · exact along _ _ off dark

theorem darkened_off {s : State} (law : s.DrivesLaw) (c : CircuitIx) : (s.darkened.circuit c).drive.on = false := by
  unfold State.darkened
  split
  · exact allOff_off s c
  · rename_i off
    exact law (Bool.eq_false_iff.2 off) c

theorem darkened_safe (s : State) : s.darkened.output.safeEnable = false := by
  unfold State.darkened
  split
  · exact (allOff_rest s).2.2.2.2.2
  · rename_i off
    exact Bool.eq_false_iff.2 off

theorem softReset_off {s : State} (law : s.DrivesLaw) (c : CircuitIx) : (s.softReset.circuit c).drive.on = false := by
  have circuit : s.softReset.circuit c = (s.darkened.circuit c).atSoftReset := Table.get_map ..
  rw [circuit]
  exact darkened_off law c

theorem storeGroup_drive (s : State) (g : GroupIx) (k : Option GroupConfig) (c : CircuitIx) :
    ((s.storeGroup g k).circuit c).drive = (s.circuit c).drive := by
  rcases storeGroup_circuit s g k c with same | changed
  · rw [same]
  · rw [changed]
    rfl

theorem reset_circuits (s : State) (cause : ResetCause) (held : Bool) (c : CircuitIx) :
    ({ s.afterReset cause with resetHeld := held } : State).circuit c = Circuit.atReset s.now := Table.get_replicate ..

theorem opens_supplyInv {s v : State} (h : s.Opens v) (law : s.SupplyInv) : v.SupplyInv := by
  obtain ⟨enable, clearance, sequencer, off⟩ := law
  have law : s.SupplyInv := ⟨enable, clearance, sequencer, off⟩
  cases h with
  | supplied dark =>
    refine enterState_supplyInv rfl (fun busy => ?_) (fun h => by cases h)
    have running := sequencer busy
    rw [dark] at running
    cases running
  | green g due =>
    obtain ⟨k, config⟩ := greenDue_config due
    exact aspectSet_supplyInv (gained_config config none) .green law
  | half =>
    have frame := changeHalf_frame s
    refine enabled_of_same (s := s) (by rw [frame]) (by rw [frame]) (by rw [frame]) (fun _ safe c => ?_) law
    rw [frame] at safe
    exact changeHalf_off (s := s) safe (off safe c)
  | stored g k safe free =>
    refine enabled_of_same (s := s) (t := s.storeGroup g k) rfl rfl rfl (fun _ safe c => ?_) law
    rw [storeGroup_drive]
    exact off safe c
  | softReset =>
    exact ⟨darkened_safe s, fun h => absurd rfl h, fun h => absurd rfl h, fun _ => softReset_off off⟩
  | reset cause held =>
    refine ⟨rfl, fun h => absurd rfl h, fun h => absurd rfl h, fun _ c => ?_⟩
    rw [reset_circuits]
    rfl
  | _ => exact law

/-- Settles O53, by the moves a step is made of. -/
theorem stepsKeepTheSupplyLaws : Obligations.StepsKeepTheSupplyLaws := fun _ _ law h =>
  law_kept move_supplyInv (fun _ _ _ _ l => l) law (fun l _ o => opens_supplyInv o l) h

end Sys2Proof.Machine
end


section
/-! The laws of the outputs, which every step keeps. -/

namespace Sys2Proof.Machine

/-! ## What an aspect lights (section 1.3) -/

theorem any_eq_true_iff_exists {α : Type} {o : Option α} {p : α → Bool} : o.any p = true ↔ ∃ a, o = some a ∧ p a = true := by
  cases o <;> simp

theorem lights_mem {k : GroupConfig} {a : Aspect} {half : Bool} {c : CircuitIx} (h : k.lights a half c = true) :
    c ∈ k.circuits := by
  have red (r : k.reds.contains c = true) : c ∈ k.circuits := by
    simp [GroupConfig.circuits, List.contains_iff_mem.1 r]
  have amber (r : (k.vehicle.any fun v => v.amber == c) = true) : c ∈ k.circuits := by
    obtain ⟨v, hv, e⟩ := any_eq_true_iff_exists.1 r
    rw [← beq_iff_eq.1 e]
    exact amber_mem_circuits hv
  cases a with
  | dark => cases h
  | red => exact red h
  | redAmber => exact (Bool.or_eq_true _ _ ▸ h).elim red amber
  | green => simp [GroupConfig.circuits, beq_iff_eq.1 h]
  | amber => exact amber h
  | flashAmber => exact amber (Bool.and_eq_true _ _ ▸ h).2

theorem lights_steady {a : Aspect} (steady : a ≠ .flashAmber) (k : GroupConfig) (x y : Bool) (c : CircuitIx) :
    k.lights a x c = k.lights a y c := by
  cases a with
  | flashAmber => exact absurd rfl steady
  | _ => rfl

theorem green_mem (k : GroupConfig) : k.green ∈ k.circuits := by simp [GroupConfig.circuits]

/-- A group that flashes and does not change aspect keeps the flash timebase. -/
theorem flashAfter_kept {s : State} {g h : GroupIx} (other : h ≠ g) (flashing : (s.group h).aspect = .flashAmber)
    (base : s.output.flash ≠ none) (a : Aspect) : s.flashAfter g a = s.output.flash := by
  unfold State.flashAfter
  split
  · split
    · rename_i f hf
      exact hf.symm
    · rename_i none
      exact absurd none base
  · rw [if_pos]
    rw [List.any_eq_true]
    exact ⟨h, List.mem_finRange h, by simp [other, flashing]⟩

/-! ## The laws by what is shown -/

theorem uniqueLaw_of_configs {s t : State} (configs : ∀ g : GroupIx, (t.group g).config = (s.group g).config)
    (law : s.UniqueLaw) : t.UniqueLaw := by
  unfold State.UniqueLaw at law ⊢
  simp only [configs]
  exact law

theorem litLaw_of_shows {s t : State} (h : s.ShowsAs t) (law : s.LitLaw) : t.LitLaw := by
  obtain ⟨-, flash, groups, drives⟩ := h
  have half : t.flashOn = s.flashOn := by unfold State.flashOn; rw [flash]
  unfold State.LitLaw at law ⊢
  simp only [fun g => (groups g).1, fun g => (groups g).2, drives, half]
  exact law

theorem shownLaw_of_shows {s t : State} (h : s.ShowsAs t) (law : s.ShownLaw) : t.ShownLaw := by
  obtain ⟨safe, flash, groups, drives⟩ := h
  have half : t.flashOn = s.flashOn := by unfold State.flashOn; rw [flash]
  unfold State.ShownLaw at law ⊢
  simp only [fun g => (groups g).1, fun g => (groups g).2, drives, half, safe, flash]
  exact law

theorem litLaw_of_off {s : State} (off : ∀ c : CircuitIx, (s.circuit c).drive.on = false) : s.LitLaw := by
  refine ⟨fun _ _ _ c _ on => ?_, fun c on => ?_⟩
  all_goals
    rw [off c] at on
    cases on

theorem shownLaw_of_unsafe {s : State} (off : s.output.safeEnable = false) : s.ShownLaw := by
  intro safe
  rw [off] at safe
  cases safe

/-! ## A change of aspect -/

section Aspects

variable {s : State} {g : GroupIx} {k : GroupConfig} (config : (s.group g).config = some k) (a : Aspect)
  (unique : s.UniqueLaw)
include config unique

/-- A circuit of another group is none of the group's. -/
theorem other_circuit {h : GroupIx} {m : GroupConfig} (hm : (s.group h).config = some m) (other : h ≠ g) {c : CircuitIx}
    (mem : c ∈ m.circuits) : c ∉ k.circuits := fun own => (unique g k config).2 h m hm other c own mem

theorem aspectSet_litLaw (law : s.LitLaw) : (s.setAspect g a).LitLaw := by
  obtain ⟨lit, owned⟩ := law
  refine ⟨fun h m hm c mem on => ?_, fun c on => ?_⟩
  · rw [aspectSet_config] at hm
    rw [aspectSet_aspect]
    by_cases own : h = g
    · subst own
      obtain rfl := Option.some.inj (config.symm.trans hm)
      rw [aspectSet_drive_mem config a mem, Bool.and_eq_true] at on
      rw [if_pos rfl]
      exact on.1
    · rw [aspectSet_drive_other config a (other_circuit config unique hm own mem)] at on
      have before := lit h m hm c mem on
      rw [if_neg own]
      by_cases flashing : (s.group h).aspect = .flashAmber
      · have half : (s.setAspect g a).flashOn = s.flashOn := by
          have base : s.output.flash ≠ none := by
            intro none
            rw [flashing, lights_flashAmber, State.flashOn, none] at before
            cases before
          unfold State.flashOn
          rw [aspectSet_flash, flashAfter_kept own flashing base]
        rw [half]
        exact before
      · rw [lights_steady flashing m _ s.flashOn]
        exact before
  · by_cases mem : c ∈ k.circuits
    · exact ⟨g, k, by rw [aspectSet_config]; exact config, mem⟩
    · rw [aspectSet_drive_other config a mem] at on
      obtain ⟨h, m, hm, own⟩ := owned c on
      exact ⟨h, m, by rw [aspectSet_config]; exact hm, own⟩

theorem aspectSet_shownLaw (law : s.ShownLaw) : (s.setAspect g a).ShownLaw := by
  intro safe
  rw [aspectSet_safe] at safe
  obtain ⟨shown, timebase⟩ := law safe
  refine ⟨fun h m hm c lights => ?_, ?_⟩
  · rw [aspectSet_config] at hm
    rw [aspectSet_aspect] at lights
    have mem := lights_mem lights
    by_cases own : h = g
    · subst own
      obtain rfl := Option.some.inj (config.symm.trans hm)
      rw [if_pos rfl] at lights
      rw [aspectSet_drive_mem config a mem, lights, safe]
      simp
    · rw [if_neg own] at lights
      rw [aspectSet_drive_other config a (other_circuit config unique hm own mem)]
      refine shown h m hm c ?_
      by_cases flashing : (s.group h).aspect = .flashAmber
      · have half : (s.setAspect g a).flashOn = s.flashOn := by
          unfold State.flashOn
          rw [aspectSet_flash, flashAfter_kept own flashing (timebase ⟨h, flashing⟩)]
        rw [← half]
        exact lights
      · rw [lights_steady flashing m _ (s.setAspect g a).flashOn]
        exact lights
  · rintro ⟨h, flashing⟩
    rw [aspectSet_aspect] at flashing
    rw [aspectSet_flash]
    by_cases own : h = g
    · rw [if_pos own] at flashing
      unfold State.flashAfter
      rw [if_pos flashing]
      split <;> exact fun none => by cases none
    · rw [if_neg own] at flashing
      rw [flashAfter_kept own flashing (timebase ⟨h, flashing⟩)]
      exact timebase ⟨h, flashing⟩

end Aspects

/-! ## Moves -/

theorem aspectSet_outputInv {s : State} {g : GroupIx} {k : GroupConfig} (config : (s.group g).config = some k) (a : Aspect)
    (law : s.OutputInv) : (s.setAspect g a).OutputInv := by
  obtain ⟨supply, unique, lit⟩ := law
  exact ⟨aspectSet_supplyInv config a supply, uniqueLaw_of_configs (fun h => aspectSet_config s g h a) unique,
    aspectSet_litLaw config a unique lit⟩

theorem move_configs {s t : State} (h : s.Move t) (g : GroupIx) : (t.group g).config = (s.group g).config := by
  rcases h.shows with ⟨-, -, groups, -⟩ | ⟨x, a, k, -, -, -, rfl⟩ | ⟨-, -, groups, -⟩
  · exact (groups g).1
  · exact aspectSet_config s x g a
  · rw [(groups g).1]
    exact ((allOff_spec s).2.2 g).1

theorem move_outputInv {s t : State} (h : s.Move t) (law : s.OutputInv) : t.OutputInv := by
  obtain ⟨supply, unique, lit⟩ := law
  refine ⟨move_supplyInv h supply, uniqueLaw_of_configs (move_configs h) unique, ?_⟩
  rcases h.shows with shows | ⟨g, a, k, config, -, -, rfl⟩ | ⟨-, -, -, drives⟩
  · exact litLaw_of_shows shows lit
  · exact aspectSet_litLaw config a unique lit
  · exact litLaw_of_off fun c => (drives c).trans (allOff_off s c)

theorem move_shownLaw {s t : State} (h : s.Move t) (law : s.OutputInv ∧ s.ShownLaw) : t.OutputInv ∧ t.ShownLaw := by
  obtain ⟨output, shown⟩ := law
  refine ⟨move_outputInv h output, ?_⟩
  rcases h.shows with shows | ⟨g, a, k, config, -, -, rfl⟩ | ⟨safe, -⟩
  · exact shownLaw_of_shows shows shown
  · exact aspectSet_shownLaw config a output.2.1 shown
  · exact shownLaw_of_unsafe (safe.trans (allOff_rest s).2.2.2.2.2)

/-! ## First changes -/

/-- A record whose circuits are not taken shares none (R2). -/
theorem takenCircuits_nil {s : State} {g : GroupIx} {m : GroupConfig} (free : s.takenCircuits g m = []) :
    m.circuits.Nodup ∧ ∀ (h : GroupIx) (n : GroupConfig), (s.group h).config = some n → h ≠ g →
      ∀ c ∈ m.circuits, c ∉ n.circuits := by
  unfold State.takenCircuits at free
  rw [List.filter_eq_nil_iff] at free
  simp only [List.mem_finRange, Bool.or_eq_true, decide_eq_true_eq, Bool.and_eq_true, not_or, not_and, true_implies] at free
  refine ⟨List.nodup_iff_count_le_one.2 fun c => ?_, fun h n hn other c mem inside => ?_⟩
  · exact Nat.le_of_lt_succ (not_le.1 (free c).1)
  · refine (free c).2 (List.contains_iff_mem.2 mem) ?_
    unfold State.usedElsewhere
    rw [List.any_eq_true]
    exact ⟨h, List.mem_finRange h, by simp [other, hn, inside]⟩

theorem storeGroup_config (s : State) (g : GroupIx) (k : Option GroupConfig) (h : GroupIx) :
    ((s.storeGroup g k).group h).config = if h = g then k else (s.group h).config := by
  have group : (s.storeGroup g k).group h = (s.setGroup g { s.group g with
      config := k, aspect := .dark, awaited := if k.isSome then (s.group g).awaited else none }).group h := rfl
  rw [group, State.setGroup_group]
  split <;> rfl

theorem storeGroup_uniqueLaw {s : State} {g : GroupIx} {k : Option GroupConfig}
    (free : ∀ m, k = some m → s.takenCircuits g m = []) (unique : s.UniqueLaw) : (s.storeGroup g k).UniqueLaw := by
  intro h n hn
  rw [storeGroup_config] at hn
  by_cases own : h = g
  · rw [if_pos own] at hn
    obtain ⟨nodup, apart⟩ := takenCircuits_nil (free n hn)
    refine ⟨nodup, fun i m hm ne => ?_⟩
    have other : i ≠ g := fun e => ne (e.trans own.symm)
    rw [storeGroup_config, if_neg other] at hm
    exact apart i m hm other
  · rw [if_neg own] at hn
    obtain ⟨nodup, apart⟩ := unique h n hn
    refine ⟨nodup, fun i m hm ne => ?_⟩
    rw [storeGroup_config] at hm
    by_cases new : i = g
    · rw [if_pos new] at hm
      exact fun c mem inside => (takenCircuits_nil (free m hm)).2 h n hn own c inside mem
    · rw [if_neg new] at hm
      exact apart i m hm ne

/-- A drive ordered is on where the order is on and it was, or SAFE_ENABLE allows it (R17). -/
theorem ordered_drive {s u : State} {named : CircuitIx → Prop} {w : CircuitIx → Bool} (h : s.Ordered u named w)
    {c : CircuitIx} (mem : named c) :
    (u.circuit c).drive.on = (w c && ((s.circuit c).drive.on || s.output.safeEnable)) := by
  obtain ⟨switched, kept, -, -⟩ := h
  by_cases switches : s.Switches named w c
  · obtain ⟨-, ne, allowed⟩ := switches
    rw [switched c ⟨mem, ne, allowed⟩]
    change w c = _
    cases on : w c with
    | false => rfl
    | true => rw [allowed on]; simp
  · rw [kept c switches]
    by_cases same : (s.circuit c).drive.on = w c
    · rw [same]
      cases w c <;> rfl
    · by_cases allowed : w c = true → s.output.safeEnable = true
      · exact absurd ⟨mem, same, allowed⟩ switches
      · obtain ⟨asked, off⟩ := Classical.not_imp.1 allowed
        rw [asked] at same ⊢
        rw [Bool.eq_false_iff.2 same, Bool.eq_false_iff.2 off]
        rfl

/-- A circuit that a change of half has left on is one that its flashing group lights. -/
theorem changeHalf_on {s : State} {f : FlashBase} (unique : s.UniqueLaw) (safe : s.output.safeEnable = true)
    (base : s.output.flash = some f) {g : GroupIx} {k : GroupConfig} (config : (s.group g).config = some k)
    (flashing : (s.group g).aspect = .flashAmber) {c : CircuitIx} (mem : c ∈ k.circuits)
    (on : (s.changeHalf.circuit c).drive.on = true) : f.on = false ∧ (k.vehicle.any fun v => v.amber == c) = true := by
  obtain ⟨-, -, -, ordered, -⟩ := changeHalf_spec unique safe base
  rw [ordered_drive ordered ⟨g, k, config, flashing, mem⟩, Bool.and_eq_true] at on
  obtain ⟨asked, -⟩ := on
  rw [Bool.and_eq_true, List.any_eq_true] at asked
  obtain ⟨half, h, -, there⟩ := asked
  rw [Bool.and_eq_true, any_eq_true_iff_exists] at there
  obtain ⟨-, m, hm, amber⟩ := there
  refine ⟨Bool.not_eq_true' _ ▸ half, ?_⟩
  have same : h = g := by
    by_contra other
    have inside : c ∈ m.circuits := lights_mem (a := .amber) (half := true) amber
    exact (unique g k config).2 h m hm other c mem inside
  subst same
  obtain rfl := Option.some.inj (config.symm.trans hm)
  exact amber

theorem changeHalf_litLaw {s : State} (law : s.OutputInv) : s.changeHalf.LitLaw := by
  obtain ⟨supply, unique, lit, owned⟩ := law
  obtain ⟨-, -, -, off⟩ := supply
  cases base : s.output.flash with
  | none =>
    have same : s.changeHalf = s := by
      unfold State.changeHalf
      rw [base]
    rw [same]
    exact ⟨lit, owned⟩
  | some f =>
    by_cases safe : s.output.safeEnable = true
    · have on {g : GroupIx} {k : GroupConfig} (config : (s.group g).config = some k)
          (flashing : (s.group g).aspect = .flashAmber) {c : CircuitIx} (mem : c ∈ k.circuits)
          (lit : (s.changeHalf.circuit c).drive.on = true) := changeHalf_on unique safe base config flashing mem lit
      obtain ⟨output, -, drives, -, groups, -⟩ := changeHalf_spec unique safe base
      generalize s.changeHalf = u at output drives groups on
      have group (g : GroupIx) : u.group g = s.group g := by unfold State.group; rw [groups]
      refine ⟨fun g k config c mem lights => ?_, fun c lights => ?_⟩
      · rw [group] at config ⊢
        by_cases flashing : (s.group g).aspect = .flashAmber
        · obtain ⟨half, amber⟩ := on config flashing mem lights
          rw [flashing, lights_flashAmber, amber, State.flashOn, output]
          simp [half]
        · rw [lights_steady flashing k _ s.flashOn]
          refine lit g k config c mem ?_
          rw [← drives c fun h m hm flashes inside => ?_]
          · exact lights
          · have other : h ≠ g := fun e => flashing (e ▸ flashes)
            exact (unique g k config).2 h m hm other c mem inside
      · by_cases flashing : ∃ (g : GroupIx) (k : GroupConfig), (s.group g).config = some k
            ∧ (s.group g).aspect = .flashAmber ∧ c ∈ k.circuits
        · obtain ⟨g, k, config, -, mem⟩ := flashing
          exact ⟨g, k, by rw [group]; exact config, mem⟩
        · rw [drives c fun h m hm flashes inside => flashing ⟨h, m, hm, flashes, inside⟩] at lights
          obtain ⟨g, k, config, mem⟩ := owned c lights
          exact ⟨g, k, by rw [group]; exact config, mem⟩
    · exact litLaw_of_off fun c => changeHalf_off (Bool.eq_false_iff.2 safe) (off (Bool.eq_false_iff.2 safe) c)

theorem changeHalf_shownLaw {s : State} (unique : s.UniqueLaw) (law : s.ShownLaw) : s.changeHalf.ShownLaw := by
  cases base : s.output.flash with
  | none =>
    have same : s.changeHalf = s := by
      unfold State.changeHalf
      rw [base]
    rw [same]
    exact law
  | some f =>
    intro still
    have safe : s.output.safeEnable = true := by rw [changeHalf_frame s] at still; exact still
    obtain ⟨shown, -⟩ := law safe
    obtain ⟨output, ambers, drives, -, groups, -⟩ := changeHalf_spec unique safe base
    generalize s.changeHalf = u at output ambers drives groups
    have group (g : GroupIx) : u.group g = s.group g := by unfold State.group; rw [groups]
    refine ⟨fun g k config c lights => ?_, fun _ none => by rw [output] at none; cases none⟩
    rw [group] at config lights
    have mem := lights_mem lights
    by_cases flashing : (s.group g).aspect = .flashAmber
    · rw [flashing, lights_flashAmber, Bool.and_eq_true] at lights
      obtain ⟨half, amber⟩ := lights
      obtain ⟨v, hv, same⟩ := any_eq_true_iff_exists.1 amber
      have on := ambers g k v config hv flashing
      rw [beq_iff_eq.1 same] at on
      rw [on, ← half, State.flashOn, output]
      rfl
    · rw [drives c fun h m hm flashes inside => ?_]
      · refine shown g k config c ?_
        rw [lights_steady flashing k _ u.flashOn]
        exact lights
      · have other : h ≠ g := fun e => flashing (e ▸ flashes)
        exact (unique g k config).2 h m hm other c mem inside

theorem softReset_config (s : State) (g : GroupIx) : (s.softReset.group g).config = (s.group g).config := by
  have group : s.softReset.group g = (s.darkened.group g).atSoftReset := Table.get_map ..
  rw [group]
  change (s.darkened.group g).config = _
  unfold State.darkened
  split
  · exact ((allOff_spec s).2.2 g).1
  · rfl

theorem reset_groups (s : State) (cause : ResetCause) (held : Bool) (g : GroupIx) :
    ({ s.afterReset cause with resetHeld := held } : State).group g = Group.atReset s.now := Table.get_replicate ..

theorem opens_outputInv {s v : State} (h : s.Opens v) (law : s.OutputInv) : v.OutputInv := by
  obtain ⟨supply, unique, lit⟩ := law
  have law : s.OutputInv := ⟨supply, unique, lit⟩
  have off : s.DrivesLaw := supply.2.2.2
  cases h with
  | supplied dark => exact ⟨opens_supplyInv (.supplied dark) supply, unique, lit⟩
  | green g due =>
    obtain ⟨k, config⟩ := greenDue_config due
    exact aspectSet_outputInv (gained_config config none) .green (move_outputInv (.awaited g none) law)
  | half =>
    refine ⟨opens_supplyInv .half supply, uniqueLaw_of_configs (fun g => ?_) unique, changeHalf_litLaw law⟩
    rw [changeHalf_frame s]
    rfl
  | stored g k safe free =>
    refine ⟨opens_supplyInv (.stored g k safe free) supply, storeGroup_uniqueLaw free unique, litLaw_of_off fun c => ?_⟩
    rw [storeGroup_drive]
    exact off safe c
  | softReset =>
    exact ⟨opens_supplyInv .softReset supply, uniqueLaw_of_configs (softReset_config s) unique,
      litLaw_of_off (softReset_off off)⟩
  | reset cause held =>
    refine ⟨opens_supplyInv (.reset cause held) supply, fun g k config => ?_, litLaw_of_off fun c => ?_⟩
    · rw [reset_groups] at config
      cases config
    · rw [reset_circuits]
      rfl
  | _ => exact law

theorem opens_shownLaw {s v : State} (h : s.Opens v) (output : s.OutputInv) (conflict : s.ConflictInv) (law : s.ShownLaw) :
    v.ShownLaw := by
  obtain ⟨⟨enable, -⟩, dark, -, -⟩ := conflict
  cases h with
  | supplied state =>
    have off : s.output.safeEnable = false := by
      unfold State.EnableLaw at enable
      rw [enable, state]
      rfl
    obtain ⟨-, aspects⟩ := dark off
    have shows (g : GroupIx) : ((s.safeOn.enterState .startFlash).group g).aspect = .dark := (aspects g).1
    intro _
    refine ⟨fun g k _ c lights => ?_, fun flashing => ?_⟩
    · rw [shows] at lights
      cases lights
    · obtain ⟨g, flashing⟩ := flashing
      rw [shows] at flashing
      cases flashing
  | green g due =>
    obtain ⟨k, config⟩ := greenDue_config due
    obtain ⟨⟨-, unique, -⟩, shown⟩ := move_shownLaw (.awaited g none) ⟨output, law⟩
    exact aspectSet_shownLaw (gained_config config none) .green unique shown
  | half => exact changeHalf_shownLaw output.2.1 law
  | stored g k safe free => exact shownLaw_of_unsafe safe
  | softReset => exact shownLaw_of_unsafe (darkened_safe s)
  | reset cause held => exact shownLaw_of_unsafe rfl
  | _ => exact law

/-- Settles O55, by the moves a step is made of. -/
theorem stepsKeepOutputsWithAspects : Obligations.StepsKeepOutputsWithAspects := by
  intro s t law h
  refine ⟨law_kept move_outputInv (fun _ _ _ _ l => l) law (fun l _ o => opens_outputInv o l) h, fun conflict shown => ?_⟩
  refine (law_kept (L := fun u => u.OutputInv ∧ u.ShownLaw) move_shownLaw (fun _ _ _ _ l => l) ⟨law, shown⟩ ?_ h).2
  rintro r v ⟨output, shown⟩ ⟨p, rfl⟩ first
  exact ⟨opens_outputInv first output, opens_shownLaw first output conflict shown⟩

end Sys2Proof.Machine
end


section
/-! No two conflicting green outputs together, and none switched on too early (R26, R36). -/

namespace Sys2Proof.Machine

/-! ## Green circuits -/

/-- With no circuit named twice, only GREEN lights the green circuit. -/
theorem lights_green {k : GroupConfig} (nodup : k.circuits.Nodup) {a : Aspect} {half : Bool}
    (lit : k.lights a half k.green = true) : a = .green := by
  unfold GroupConfig.circuits at nodup
  obtain ⟨-, -, apart⟩ := List.nodup_append.1 nodup
  have red (r : k.reds.contains k.green = true) : False :=
    apart _ (List.mem_append_left _ (List.contains_iff_mem.1 r)) _ (List.mem_singleton_self _) rfl
  have amber (r : (k.vehicle.any fun v => v.amber == k.green) = true) : False := by
    obtain ⟨v, hv, same⟩ := any_eq_true_iff_exists.1 r
    refine apart v.amber (List.mem_append_right _ ?_) _ (List.mem_singleton_self _) (beq_iff_eq.1 same)
    rw [hv]
    exact List.mem_singleton_self _
  cases a with
  | green => rfl
  | dark => cases lit
  | red => exact (red lit).elim
  | redAmber => exact ((Bool.or_eq_true _ _ ▸ lit).elim red amber).elim
  | amber => exact (amber lit).elim
  | flashAmber => exact (amber (Bool.and_eq_true _ _ ▸ lit).2).elim

/-- A green circuit is on only where its group is GREEN (R10). -/
theorem green_of_on {s : State} (law : s.OutputInv) {g : GroupIx} {k : GroupConfig} (config : (s.group g).config = some k)
    (on : (s.circuit k.green).drive.on = true) : (s.group g).aspect = .green := by
  obtain ⟨-, unique, lit, -⟩ := law
  exact lights_green (unique g k config).1 (lit g k config _ (green_mem k) on)

/-- Two conflicting groups are not GREEN together (R36). -/
theorem apart_of_clear {s : State} (law : s.ClearLaw) {l g : GroupIx} (conflict : s.conflicting l g = true)
    (hl : (s.group l).aspect = .green) : (s.group g).aspect ≠ .green := by
  intro hg
  unfold State.ClearLaw Group.clear at law
  have := law l g conflict
  rw [hl, hg] at this
  rcases this with h | h <;> simp at h

/-! ## No move switches a green on, nor begins an AMBER but from GREEN -/

theorem move_green {s t : State} (h : s.Move t) (law : s.OutputInv) {g : GroupIx} {m : GroupConfig}
    (config : (s.group g).config = some m) (on : (t.circuit m.green).drive.on = true) :
    (s.circuit m.green).drive.on = true := by
  obtain ⟨-, unique, -⟩ := law
  rcases h.shows with ⟨-, -, -, drives⟩ | ⟨x, a, k, named, green, -, rfl⟩ | ⟨-, -, -, drives⟩
  · rw [← drives]
    exact on
  · by_cases own : g = x
    · subst own
      obtain rfl := Option.some.inj (config.symm.trans named)
      rw [aspectSet_drive_mem config a (green_mem m), Bool.and_eq_true] at on
      exact absurd (lights_green (unique g m config).1 on.1) green
    · rw [aspectSet_drive_other named a (other_circuit named unique config own (green_mem m))] at on
      exact on
  · rw [drives, allOff_off] at on
    cases on

theorem moves_green {s t : State} (h : s.Moves t) (law : s.OutputInv) {g : GroupIx} {m : GroupConfig}
    (config : (s.group g).config = some m) (on : (t.circuit m.green).drive.on = true) :
    (s.circuit m.green).drive.on = true := by
  induction h using Relation.ReflTransGen.head_induction_on with
  | refl => exact on
  | head first _ ih =>
    exact move_green first law config (ih (move_outputInv first law) (by rw [move_configs first]; exact config))

/-- A group that is neither GREEN nor AMBER. -/
def State.Spent (s : State) (l : GroupIx) : Prop := (s.group l).aspect ≠ .green ∧ (s.group l).aspect ≠ .amber

theorem spent_of_shows {s t : State} (h : s.ShowsAs t) {l : GroupIx} (spent : s.Spent l) : t.Spent l := by
  obtain ⟨-, -, groups, -⟩ := h
  unfold State.Spent
  rw [(groups l).2]
  exact spent

theorem allOff_spent {s : State} {l : GroupIx} (spent : s.Spent l) : s.allOff.Spent l := by
  obtain ⟨-, -, present, empty⟩ := (allOff_spec s).2.2 l
  unfold State.Spent
  by_cases config : (s.group l).config = none
  · rw [empty config]
    exact spent
  · rw [(present config).1]
    exact ⟨by decide, by decide⟩

theorem move_spent {s t : State} (h : s.Move t) {l : GroupIx} (spent : s.Spent l) : t.Spent l := by
  rcases h.shows with shows | ⟨x, a, k, -, green, amber, rfl⟩ | shows
  · exact spent_of_shows shows spent
  · unfold State.Spent
    rw [aspectSet_aspect]
    split
    · rename_i own
      exact ⟨green, fun e => spent.1 (own ▸ amber e)⟩
    · exact spent
  · exact spent_of_shows shows (allOff_spent spent)

/-! ## The first change of a step that switches a green on -/

/-- The group whose green is due: its awaited green start has come, and no conflicting group shows AMBER (R11, R26). -/
theorem greenDue_spec {s : State} {g : GroupIx} (due : s.greenDue g = true) :
    (∃ a, (s.group g).awaited = some a ∧ a ≤ s.now)
      ∧ ∀ l : GroupIx, s.conflicting l g = true → (s.group l).aspect ≠ .amber := by
  obtain ⟨k, config⟩ := greenDue_config due
  unfold State.greenDue at due
  cases awaited : (s.group g).awaited with
  | none => simp [config, awaited] at due
  | some a =>
    simp only [config, awaited, Bool.and_eq_true, Bool.or_eq_true, decide_eq_true_eq, beq_iff_eq] at due
    obtain ⟨gone, start⟩ := due
    refine ⟨⟨a, rfl, ?_⟩, fun l conflict => (amberGone_iff s g).1 gone l conflict⟩
    rcases start with ⟨-, now⟩ | ⟨-, now⟩
    · exact now
    · exact (le_max_left _ _).trans now

theorem opens_green {s v : State} (h : s.Opens v) (law : s.OutputInv) {g : GroupIx} {m : GroupConfig}
    (config : (s.group g).config = some m) (off : (s.circuit m.green).drive.on = false)
    (on : (v.circuit m.green).drive.on = true) : s.greenDue g = true
      ∧ v = (s.setGroup g { s.group g with awaited := none }).setAspect g .green := by
  obtain ⟨supply, unique, -⟩ := law
  have dark {u : State} (same : (u.circuit m.green).drive.on = false) (lit : (u.circuit m.green).drive.on = true) : False := by
    rw [same] at lit
    cases lit
  cases h with
  | green x due =>
    by_cases own : g = x
    · subst own
      exact ⟨due, rfl⟩
    · obtain ⟨k, named⟩ := greenDue_config due
      rw [aspectSet_drive_other (gained_config named none) .green (other_circuit named unique config own (green_mem m))] at on
      exact (dark off on).elim
  | half =>
    refine (dark ?_ on).elim
    by_cases safe : s.output.safeEnable = true
    · cases base : s.output.flash with
      | none =>
        have same : s.changeHalf = s := by
          unfold State.changeHalf
          rw [base]
        rw [same]
        exact off
      | some f =>
        by_cases flashing : (s.group g).aspect = .flashAmber
        · by_contra lit
          have amber := (changeHalf_on unique safe base config flashing (green_mem m) (Bool.not_eq_false _ ▸ lit)).2
          cases lights_green (a := .amber) (half := true) (unique g m config).1 amber
        · obtain ⟨-, -, drives, -⟩ := changeHalf_spec unique safe base
          rw [drives m.green fun h k hk flashes inside => ?_]
          · exact off
          · exact (unique g m config).2 h k hk (fun e => flashing (e ▸ flashes)) _ (green_mem m) inside
    · exact changeHalf_off (Bool.eq_false_iff.2 safe) off
  | stored x k =>
    rw [storeGroup_drive] at on
    exact (dark off on).elim
  | softReset => exact (dark (softReset_off supply.2.2.2 _) on).elim
  | reset cause held =>
    rw [reset_circuits] at on
    cases on
  | _ => exact (dark off on).elim

/-- While SAFE_ENABLE is active no first change has moved a group's record. -/
theorem opens_config {s v : State} (h : s.Opens v) (safe : v.output.safeEnable = true) (g : GroupIx) :
    (v.group g).config = (s.group g).config := by
  cases h with
  | green x due =>
    rw [aspectSet_config]
    exact move_configs (.awaited x none) g
  | half => rw [changeHalf_frame s]; rfl
  | stored x k off => exact absurd safe (Bool.eq_false_iff.1 off)
  | softReset => exact softReset_config s g
  | reset cause held => cases safe
  | _ => rfl

theorem moves_unsafe {s t : State} (h : s.Moves t) (off : s.output.safeEnable = false) : t.output.safeEnable = false := by
  refine kept_along (L := fun u => u.output.safeEnable = false) (fun {s t} m off => ?_) h off
  rcases m.shows with ⟨safe, -⟩ | ⟨x, a, k, -, -, -, rfl⟩ | ⟨safe, -⟩
  · exact safe.trans off
  · rw [aspectSet_safe]
    exact off
  · exact safe.trans (allOff_rest s).2.2.2.2.2

/-- A step that switches a green on begins with the green due of its group. -/
theorem switchOn_opens {s t : State} (law : s.OutputInv) {g : GroupIx} {m : GroupConfig}
    (config : (s.group g).config = some m) (off : (s.circuit m.green).drive.on = false)
    (on : (t.circuit m.green).drive.on = true) (h : s.Finishes t) : s.greenDue g = true
      ∧ ((s.setGroup g { s.group g with awaited := none }).setAspect g .green).Moves t := by
  obtain ⟨v, first, along⟩ := finishes_moves h
  have output := opens_outputInv first law
  have safe : v.output.safeEnable = true := by
    by_contra unsafe_
    have dark := (kept_along move_outputInv along output).1.2.2.2 (moves_unsafe along (Bool.eq_false_iff.2 unsafe_)) m.green
    rw [dark] at on
    cases on
  have lit := moves_green along output ((opens_config first safe g).trans config) on
  obtain ⟨due, rfl⟩ := opens_green first law config off lit
  exact ⟨due, along⟩

/-- Settles O56: a green circuit is on only in GREEN, and only a GREEN_START, whose group no longer waits and which no
conflicting AMBER holds back, switches one on. -/
theorem noConflictingGreenOutputs : Obligations.NoConflictingGreenOutputs := by
  constructor
  · rintro s l g k m ⟨-, -, -, clear⟩ output conflict hl hg
    have apart (on : (s.circuit k.green).drive.on = true) (on' : (s.circuit m.green).drive.on = true) : False :=
      apart_of_clear clear conflict (green_of_on output hl on) (green_of_on output hg on')
    refine ⟨fun both => apart both.1 both.2, fun pins => ?_⟩
    unfold State.drivePin at pins
    simp only [Bool.and_eq_true] at pins
    exact apart pins.1.2 pins.2.2
  · intro s t g m conflictInv output waits h config off on l n intergreen
    rcases step_cases h with same | ⟨p, finishes⟩
    · rw [same] at on
      exact absurd on (Bool.eq_false_iff.1 off)
    · obtain ⟨due, along⟩ := switchOn_opens (s := { s with pending := p }) output config off on finishes
      obtain ⟨⟨a, awaited, now⟩, gone⟩ := greenDue_spec due
      obtain ⟨-, -, -, clear⟩ := conflictInv
      have conflict : s.conflicting l g = true := by
        unfold State.intergreen at intergreen
        unfold State.conflicting
        cases pair : s.pairOf l g with
        | none => rw [pair] at intergreen; cases intergreen
        | some x => rfl
      have notAmber : (s.group l).aspect ≠ .amber := gone l conflict
      refine ⟨(waits l g n a intergreen awaited).trans now, notAmber, ?_⟩
      have notGreen : (s.group l).aspect ≠ .green := by
        intro green
        rcases clear l g conflict with h | h <;> unfold Group.clear at h
        · simp [green] at h
        · have held : (s.group g).awaited = some a := awaited
          simp [held] at h
      refine (kept_along (L := fun u => u.Spent l) (fun m => move_spent m) along ?_).2
      have other : l ≠ g := by
        rintro rfl
        unfold State.conflicting State.pairOf at conflict
        simp at conflict
      unfold State.Spent
      rw [aspectSet_aspect, if_neg other, State.setGroup_group, if_neg other]
      exact ⟨notGreen, notAmber⟩

end Sys2Proof.Machine
end


section
/-! The measurement channel's laws, which every step keeps. -/

namespace Sys2Proof.Machine

/-! ## The channel's own law (R122) -/

theorem channelLaw_of_channel {s t : State} (h : t.channel = s.channel) (law : s.ChannelLaw) : t.ChannelLaw := by
  unfold State.ChannelLaw at law ⊢
  rw [h]
  exact law

/-- The measurement in flight ended, or the long calibration it owes begun. -/
theorem channelLaw_of_freed {s t : State} (h : t.channel = s.freedChannel) (flight : s.channel.inFlight ≠ none)
    (law : s.ChannelLaw) : t.ChannelLaw := by
  have calibration : s.channel.calibration = none := by
    by_contra running
    exact flight (inFlight_of_calibration running law)
  rw [channelLaw_iff, h]
  unfold State.freedChannel
  split
  · simp [Channel.beginLong]
  · simp [calibration]

/-- Orders to drives leave the channel as it was, or free it of its measurement. -/
theorem ordered_channel {s u : State} {named : CircuitIx → Prop} {w : CircuitIx → Bool} (h : s.Ordered u named w) :
    u.channel = s.channel ∨ (s.channel.inFlight ≠ none ∧ u.channel = s.freedChannel) := by
  obtain ⟨-, -, freed, kept⟩ := h
  by_cases meets : ∃ x, s.channel.inFlight = some x ∧ s.Switches named w x.circuit
  · obtain ⟨x, flight, switches⟩ := meets
    exact .inr ⟨flight ▸ Option.some_ne_none x, freed x flight switches⟩
  · exact .inl (kept fun x flight switches => meets ⟨x, flight, switches⟩)

theorem channelLaw_of_either {s u : State}
    (h : u.channel = s.channel ∨ (s.channel.inFlight ≠ none ∧ u.channel = s.freedChannel)) (law : s.ChannelLaw) :
    u.ChannelLaw := by
  rcases h with same | ⟨flight, freed⟩
  · exact channelLaw_of_channel same law
  · exact channelLaw_of_freed freed flight law

theorem safeOff_channel (s : State) :
    s.safeOff.channel = s.channel ∨ (s.channel.inFlight ≠ none ∧ s.safeOff.channel = s.freedChannel) := by
  obtain ⟨r, hr⟩ : ∃ r, r = s.setOutput { s.output with safeEnable := false } := ⟨_, rfl⟩
  obtain ⟨l, hl⟩ : ∃ l, l = List.finRange 48 := ⟨_, rfl⟩
  obtain ⟨t, ht⟩ : ∃ t, t = l.foldl (fun t c => t.orderDrive c false) r := ⟨_, rfl⟩
  have channel : s.safeOff.channel = (match t.channel.inFlight with
      | some ⟨_, .dark _ _, _⟩ => t.voidWindow
      | _ => t).channel := by
    unfold State.safeOff
    rw [ht, hr, ← hl]
    rfl
  have orders : t.channel = s.channel ∨ (s.channel.inFlight ≠ none ∧ t.channel = s.freedChannel) := by
    have := ordered_channel (orders_ordered (fun _ => false) l r)
    rw [← ht] at this
    rw [hr] at this
    exact this
  have now : t.now = s.now := by
    rw [ht, orders_spec (fun _ => false), hr]
    rfl
  rw [channel]
  split
  · rename_i flight
    obtain ⟨freed, -⟩ := voidWindow_exact t flight
    rw [freed]
    rcases orders with same | ⟨before, void⟩
    · refine .inr ⟨by rw [← same, flight]; exact Option.some_ne_none _, ?_⟩
      unfold State.freedChannel
      rw [same, now]
    · rw [void, freedChannel_inFlight] at flight
      cases flight
  · exact orders

theorem allOff_channel (s : State) :
    s.allOff.channel = s.channel ∨ (s.channel.inFlight ≠ none ∧ s.allOff.channel = s.freedChannel) := by
  have frame := (allOff_spec s).1
  have same : s.allOff.channel = s.safeOff.channel := by rw [frame]
  rw [same]
  exact safeOff_channel s

theorem arbitrate_channelLaw {s : State} (law : s.ChannelLaw) : s.arbitrate.ChannelLaw := by
  by_cases ready : s.channel.state = .ready
  · cases chosen : s.choice with
    | none =>
      have kept : s.arbitrate = s := by simp [State.arbitrate, chosen]
      rw [kept]
      exact law
    | some x =>
      have idle : s.channel.inFlight = none ∧ s.channel.calibration = none := by
        unfold State.ChannelLaw at law
        rw [ready] at law
        exact law
      rw [arbitrate_of_choice ready chosen]
      cases x with
      | shortCal => exact ⟨idle.1, rfl⟩
      | _ => exact ⟨rfl, idle.2⟩
  · have kept : s.arbitrate = s := by simp [State.arbitrate, ready]
    rw [kept]
    exact law

theorem move_channelLaw {s t : State} (h : s.Move t) (law : s.ChannelLaw) : t.ChannelLaw := by
  cases h with
  | aspect g a k config => exact channelLaw_of_either (ordered_channel (setAspect_ordered config a)) law
  | channel ch kept => exact kept law
  | arbitrate => exact arbitrate_channelLaw (s := s.renewOffer) law
  | leave j =>
    have channel := allOff_channel s
    generalize s.allOff = u at channel ⊢
    exact channelLaw_of_either (u := u.enterState j) channel law
  | _ => exact law

/-- The orders of the flash timebase to a group, as orders to its drives. -/
theorem orderFlash_ordered (s : State) (g : GroupIx) : s.orderFlash g = s
    ∨ ∃ (named : CircuitIx → Prop) (w : CircuitIx → Bool), s.Ordered (s.orderFlash g) named w := by
  unfold State.orderFlash
  split
  · rename_i k _
    split
    · exact .inr ⟨_, _, orderDrives_ordered s k .flashAmber⟩
    · exact .inl rfl
  · exact .inl rfl

/-- A law that the flash timebase and orders to drives keep, with the groups and the output as they were, is kept by a
change of half. -/
theorem changeHalf_keeps {L : State → Prop} {s : State} (start : L s)
    (timebase : ∀ f, L s → L (s.setOutput { s.output with flash := f }))
    (orders : ∀ {t u : State} {named : CircuitIx → Prop} {w : CircuitIx → Bool}, t.Ordered u named w →
      u.groups = t.groups → u.output = t.output → L t → L u) : L s.changeHalf := by
  have along (gs : List GroupIx) (t : State) (ht : L t) : L (t.each State.orderFlash gs) := by
    induction gs generalizing t with
    | nil => exact ht
    | cons g gs ih =>
      refine ih (t.orderFlash g) ?_
      have frame := orderFlash_spec t g
      rcases orderFlash_ordered t g with same | ⟨named, w, ordered⟩
      · rw [same]
        exact ht
      · exact orders ordered (by rw [frame]) (by rw [frame]) ht
  unfold State.changeHalf
  split
  · exact start
  · exact along _ _ (timebase _ start)

theorem opens_channelLaw {s v : State} (h : s.Opens v) (law : s.ChannelLaw) : v.ChannelLaw := by
  cases h with
  | green g due =>
    obtain ⟨k, config⟩ := greenDue_config due
    exact channelLaw_of_either (ordered_channel (setAspect_ordered (gained_config config none) .green)) law
  | half => exact changeHalf_keeps law (fun _ l => l) fun ordered _ _ l => channelLaw_of_either (ordered_channel ordered) l
  | softReset => exact ⟨rfl, rfl⟩
  | reset cause held => exact ⟨rfl, rfl⟩
  | _ => exact law

/-! ## Watched circuits (R153) -/

theorem assignment_of_configs {s t : State} (h : ∀ g : GroupIx, (t.group g).config = (s.group g).config) (c : CircuitIx) :
    t.assignment c = s.assignment c := by
  unfold State.assignment
  simp only [h]

/-- A circuit stays watched while no group becomes GREEN. -/
theorem watched_stays {s t : State} (safe : s.output.safeEnable = true → t.output.safeEnable = true)
    (configs : ∀ g : GroupIx, (t.group g).config = (s.group g).config)
    (aspects : ∀ g : GroupIx, (s.group g).aspect ≠ .green → (t.group g).aspect ≠ .green) {c : CircuitIx}
    (h : s.watched c = true) : t.watched c = true := by
  obtain ⟨on, g, assigned, other⟩ := (watched_iff s c).1 h
  exact (watched_iff t c).2 ⟨safe on, g, by rw [assignment_of_configs configs]; exact assigned, aspects g other⟩

/-- A circuit assigned to GREEN is lit in GREEN alone. -/
theorem lights_of_assigned_green {k : GroupConfig} {c : CircuitIx} (h : k.aspectOf c = some .green) :
    k.green = c ∧ ∀ (a : Aspect) half, a ≠ .green → k.lights a half c = false := by
  unfold GroupConfig.aspectOf at h
  split at h
  · cases h
  · rename_i red
    split at h
    · cases h
    · rename_i amber
      split at h
      · rename_i green
        refine ⟨beq_iff_eq.1 green, fun a half other => ?_⟩
        have red := Bool.eq_false_iff.2 red
        have amber := Bool.eq_false_iff.2 amber
        cases a with
        | green => exact absurd rfl other
        | dark => rfl
        | red => exact red
        | redAmber => exact Bool.or_eq_false_iff.2 ⟨red, amber⟩
        | amber => exact amber
        | flashAmber => rw [lights_flashAmber, amber, Bool.and_false]
      · cases h

/-- What a watched circuit is: the green circuit of a group that is not GREEN, and off. -/
theorem watched_off {s : State} (lit : s.LitLaw) {c : CircuitIx} (h : s.watched c = true) :
    s.output.safeEnable = true ∧ (s.circuit c).drive.on = false ∧ ∃ (g : GroupIx) (k : GroupConfig),
      s.assignment c = some { group := g, aspect := .green } ∧ (s.group g).config = some k ∧ k.green = c := by
  obtain ⟨safe, g, assigned, other⟩ := (watched_iff s c).1 h
  obtain ⟨k, config, own⟩ := assignment_of_eq assigned
  obtain ⟨green, dark⟩ := lights_of_assigned_green own
  refine ⟨safe, Bool.eq_false_iff.2 fun on => ?_, g, k, assigned, config, green⟩
  have mem : c ∈ k.circuits := by rw [← green]; exact green_mem k
  have lights := lit.1 g k config c mem on
  rw [dark _ _ other] at lights
  cases lights

/-! ## Measurements in accord with the drives -/

/-- The law of a circuit's requests: a lit period exactly while it is on, a proving request only then, a watch candidate
only while it is watched. -/
def State.AskLaw (s : State) (c : CircuitIx) (k : Circuit) : Prop :=
  k.schedule.litSince.isSome = k.drive.on ∧ (k.schedule.presented ≠ none → k.drive.on = true)
    ∧ (k.cable.watchPresented = true → s.watched c = true)

/-- The law of the measurement in flight. -/
def State.FlightLaw (s : State) (w : InFlight) : Prop :=
  match w.kind with
  | .lit _ => (s.circuit w.circuit).drive.on = true
  | .dark _ _ => (s.circuit w.circuit).drive.on = false ∧ s.output.safeEnable = true

theorem measureLaw_iff (s : State) : s.MeasureLaw ↔
    (∀ c : CircuitIx, s.AskLaw c (s.circuit c)) ∧ ∀ w, s.channel.inFlight = some w → s.FlightLaw w := Iff.rfl

theorem flightLaw_of_same {s t : State} {w : InFlight} (drive : (t.circuit w.circuit).drive.on = (s.circuit w.circuit).drive.on)
    (safe : s.output.safeEnable = true → t.output.safeEnable = true) (law : s.FlightLaw w) : t.FlightLaw w := by
  unfold State.FlightLaw at law ⊢
  cases kind : w.kind with
  | lit l =>
    rw [kind] at law
    exact drive.trans law
  | dark r d =>
    rw [kind] at law
    exact ⟨drive.trans law.1, safe law.2⟩

/-- Orders to drives keep the measurements in accord, where a watched circuit stays watched or is switched on. -/
theorem ordered_measureLaw {s u : State} {named : CircuitIx → Prop} {w : CircuitIx → Bool} (h : s.Ordered u named w)
    (safe : u.output.safeEnable = s.output.safeEnable)
    (watched : ∀ c, s.watched c = true → u.watched c = true ∨ (s.Switches named w c ∧ w c = true))
    (law : s.MeasureLaw) : u.MeasureLaw := by
  obtain ⟨asks, flights⟩ := (measureLaw_iff s).1 law
  obtain ⟨switched, kept, freed, still⟩ := h
  refine (measureLaw_iff u).2 ⟨fun c => ?_, fun x flight => ?_⟩
  · obtain ⟨lit, request, watch⟩ := asks c
    by_cases switches : s.Switches named w c
    · rw [switched c switches]
      refine ⟨?_, fun h => absurd rfl h, fun candidate => ?_⟩
      · unfold Circuit.switchedAt
        cases w c <;> rfl
      · change ((s.watchInFlight c && u.watched c) || ((s.circuit c).cable.watchPresented && !w c)) = true at candidate
        rw [Bool.or_eq_true, Bool.and_eq_true, Bool.and_eq_true] at candidate
        rcases candidate with ⟨-, yes⟩ | ⟨before, off⟩
        · exact yes
        · rcases watched c (watch before) with yes | ⟨-, on⟩
          · exact yes
          · rw [on] at off
            cases off
    · rw [kept c switches]
      refine ⟨lit, request, fun candidate => ?_⟩
      rcases watched c (watch candidate) with yes | ⟨yes, -⟩
      · exact yes
      · exact absurd yes switches
  · by_cases meets : ∃ y, s.channel.inFlight = some y ∧ s.Switches named w y.circuit
    · obtain ⟨y, before, switches⟩ := meets
      rw [freed y before switches, freedChannel_inFlight] at flight
      cases flight
    · rw [still fun y before switches => meets ⟨y, before, switches⟩] at flight
      refine flightLaw_of_same ?_ (fun on => safe.trans on) (flights x flight)
      rw [kept x.circuit fun switches => meets ⟨x, flight, switches⟩]

theorem aspectSet_measureLaw {s : State} {g : GroupIx} {k : GroupConfig} (config : (s.group g).config = some k) {a : Aspect}
    (other : a ≠ .green) (law : s.MeasureLaw) : (s.setAspect g a).MeasureLaw := by
  refine ordered_measureLaw (setAspect_ordered config a) (aspectSet_safe s g a) (fun c watched => .inl ?_) law
  refine watched_stays (fun on => (aspectSet_safe s g a).trans on) (fun h => aspectSet_config s g h a) (fun h ne => ?_) watched
  rw [aspectSet_aspect]
  split
  · exact other
  · exact ne

/-- A green that begins takes its own circuit out of the watch as it switches it on (R153). -/
theorem greenSet_measureLaw {s : State} {g : GroupIx} {k : GroupConfig} (config : (s.group g).config = some k)
    (lit : s.LitLaw) (law : s.MeasureLaw) : (s.setAspect g .green).MeasureLaw := by
  refine ordered_measureLaw (setAspect_ordered config .green) (aspectSet_safe s g .green) (fun c watched => ?_) law
  obtain ⟨safe, off, h, m, assigned, hm, green⟩ := watched_off lit watched
  obtain ⟨-, x, assigned', other⟩ := (watched_iff s c).1 watched
  cases Option.some.inj (assigned.symm.trans assigned')
  by_cases own : h = g
  · subst own
    obtain rfl := Option.some.inj (config.symm.trans hm)
    have lights : k.lights .green (s.setAspect h .green).flashOn c = true := beq_iff_eq.2 green
    refine .inr ⟨⟨?_, by rw [off, lights]; decide, fun _ => safe⟩, lights⟩
    rw [← green]
    exact green_mem k
  · refine .inl ((watched_iff _ c).2 ⟨(aspectSet_safe s g .green).trans safe, h, ?_, ?_⟩)
    · rw [assignment_of_configs fun i => aspectSet_config s g i .green]
      exact assigned
    · rw [aspectSet_aspect, if_neg own]
      exact other

theorem allOff_measureLaw {s : State} (law : s.MeasureLaw) : s.allOff.MeasureLaw := by
  obtain ⟨asks, flights⟩ := (measureLaw_iff s).1 law
  obtain ⟨-, circuit, void, still⟩ := allOff_poweredOff s
  refine (measureLaw_iff _).2 ⟨fun c => ?_, fun w flight => ?_⟩
  · obtain ⟨lit, request, -⟩ := asks c
    rw [circuit c]
    split
    · exact ⟨rfl, fun h => absurd rfl h, fun h => by cases h⟩
    · exact ⟨lit, request, fun h => by cases h⟩
  · cases before : s.channel.inFlight with
    | none =>
      rw [still before, before] at flight
      cases flight
    | some x =>
      have accord := flights x before
      rw [void x before ?_, freedChannel_inFlight] at flight
      · cases flight
      · unfold State.FlightLaw at accord
        cases kind : x.kind with
        | lit l =>
          rw [kind] at accord
          exact .inr accord
        | dark r d => exact .inl ⟨r, d, rfl⟩

theorem arbitrate_measureLaw {s : State} (lit : s.LitLaw) (law : s.MeasureLaw) : s.renewOffer.arbitrate.MeasureLaw := by
  obtain ⟨asks, flights⟩ := (measureLaw_iff s).1 law
  obtain ⟨safe, -, groups, drives⟩ := arbitrate_shows s
  have watches {c : CircuitIx} (h : s.watched c = true) : s.renewOffer.arbitrate.watched c = true :=
    watched_stays (fun on => safe.trans on) (fun g => (groups g).1) (fun g ne => by rw [(groups g).2]; exact ne) h
  refine (measureLaw_iff _).2 ⟨fun c => ?_, fun w flight => ?_⟩
  · obtain ⟨whole, requests, candidates⟩ := arbitrate_circuit s.renewOffer c
    obtain ⟨litSince, request, watch⟩ := asks c
    generalize s.renewOffer.arbitrate.circuit c = k at whole requests candidates ⊢
    rw [whole]
    refine ⟨litSince, fun ne => request ?_, fun on => watches (watch ?_)⟩
    · rcases requests with none | same
      · exact absurd none ne
      · exact same ▸ ne
    · rcases candidates with off | same
      · exact absurd on (Bool.eq_false_iff.1 off)
      · exact same ▸ on
  · refine flightLaw_of_same (drives _) (fun on => safe.trans on) ?_
    by_cases ready : s.renewOffer.channel.state = .ready
    · cases chosen : s.renewOffer.choice with
      | none =>
        have kept : s.renewOffer.arbitrate = s.renewOffer := by simp [State.arbitrate, chosen]
        rw [kept] at flight
        exact flights w flight
      | some x =>
        obtain ⟨proving, watch, -, round, -⟩ := choice_spec s.renewOffer
        rw [arbitrate_of_choice ready chosen] at flight
        cases x with
        | proving c =>
          cases flight
          obtain ⟨a, presented, -⟩ := provingChoice_some (proving c chosen)
          have held : (s.circuit c).schedule.presented = some a := presented
          exact (asks c).2.1 (by rw [held]; exact fun h => by cases h)
        | watch c =>
          cases flight
          obtain ⟨-, -, first⟩ := watch c chosen
          obtain ⟨safe, off, -⟩ := watched_off lit ((asks c).2.2 (watchChoice_some first).1)
          exact ⟨off, safe⟩
        | shortCal => exact flights w flight
        | round c =>
          cases flight
          obtain ⟨-, -, -, offer⟩ := round c chosen
          obtain ⟨safe, -, off, -⟩ := (inRound_iff s c).1 ((roundNext_iff s c).1 offer).1
          exact ⟨off, safe⟩
    · have kept : s.renewOffer.arbitrate = s.renewOffer := by simp [State.arbitrate, ready]
      rw [kept] at flight
      exact flights w flight

theorem records_measureLaw {s : State} {cs : Table 48 Circuit} (keeps : ∀ c, (s.circuit c).Keeps (s.watched c) (cs.get c))
    (law : s.MeasureLaw) : ({ s with circuits := cs } : State).MeasureLaw := by
  obtain ⟨asks, flights⟩ := (measureLaw_iff s).1 law
  refine (measureLaw_iff _).2 ⟨fun c => ?_, fun w flight => ?_⟩
  · obtain ⟨drive, litSince, requests, candidates, -⟩ := keeps c
    obtain ⟨lit, request, watch⟩ := asks c
    change State.AskLaw _ c (cs.get c)
    unfold State.AskLaw
    rw [drive, litSince]
    refine ⟨lit, fun ne => ?_, fun on => ?_⟩
    · rcases requests ne with before | since
      · exact request before
      · rw [← lit, since]
    · rcases candidates on with before | watched
      · exact watch before
      · exact watched
  · exact flightLaw_of_same (congrArg Drive.on (keeps w.circuit).1) id (flights w flight)

theorem awaited_measureLaw {s : State} (g : GroupIx) (a : Option Instant) (law : s.MeasureLaw) :
    (s.setGroup g { s.group g with awaited := a }).MeasureLaw := by
  obtain ⟨asks, flights⟩ := (measureLaw_iff s).1 law
  have group (h : GroupIx) : ((s.setGroup g { s.group g with awaited := a }).group h).config = (s.group h).config
      ∧ ((s.setGroup g { s.group g with awaited := a }).group h).aspect = (s.group h).aspect := by
    rw [State.setGroup_group]
    split
    · rename_i own
      rw [own]
      exact ⟨rfl, rfl⟩
    · exact ⟨rfl, rfl⟩
  refine (measureLaw_iff _).2 ⟨fun c => ?_, flights⟩
  obtain ⟨lit, request, watch⟩ := asks c
  refine ⟨lit, request, fun on => ?_⟩
  exact watched_stays (s := s) (t := s.setGroup g { s.group g with awaited := a }) id (fun h => (group h).1) (fun h ne => by rw [(group h).2]; exact ne) (watch on)

theorem move_measureLaw {s t : State} (h : s.Move t) (law : s.OutputInv ∧ s.MeasureLaw) : t.OutputInv ∧ t.MeasureLaw := by
  obtain ⟨output, law⟩ := law
  refine ⟨move_outputInv h output, ?_⟩
  cases h with
  | awaited g a => exact awaited_measureLaw g a law
  | aspect g a k config green => exact aspectSet_measureLaw config green law
  | records cs keeps => exact records_measureLaw keeps law
  | channel ch _ flight =>
    obtain ⟨asks, flights⟩ := (measureLaw_iff s).1 law
    refine (measureLaw_iff _).2 ⟨asks, fun w now => ?_⟩
    change ch.inFlight = some w at now
    rcases flight with none | same
    · rw [none] at now
      cases now
    · exact flights w (same ▸ now)
  | arbitrate => exact arbitrate_measureLaw output.2.2 law
  | leave j =>
    have kept := allOff_measureLaw law
    generalize s.allOff = u at kept
    exact kept
  | _ => exact law

/-! ## First changes -/

theorem measureLaw_of_unasked {s : State} (asks : ∀ c : CircuitIx, (s.circuit c).schedule.litSince.isSome = (s.circuit c).drive.on
    ∧ (s.circuit c).schedule.presented = none ∧ (s.circuit c).cable.watchPresented = false)
    (flight : s.channel.inFlight = none) : s.MeasureLaw := by
  refine (measureLaw_iff s).2 ⟨fun c => ?_, fun w now => ?_⟩
  · obtain ⟨lit, request, watch⟩ := asks c
    refine ⟨lit, fun ne => absurd request ne, fun on => ?_⟩
    rw [watch] at on
    cases on
  · rw [flight] at now
    cases now

theorem storeGroup_measureLaw {s : State} (g : GroupIx) (k : Option GroupConfig) (off : s.output.safeEnable = false)
    (law : s.MeasureLaw) : (s.storeGroup g k).MeasureLaw := by
  obtain ⟨asks, flights⟩ := (measureLaw_iff s).1 law
  refine (measureLaw_iff _).2 ⟨fun c => ?_, fun w flight => ?_⟩
  · obtain ⟨lit, request, watch⟩ := asks c
    have unwatched : (s.circuit c).cable.watchPresented ≠ true := by
      intro on
      obtain ⟨safe, -⟩ := (watched_iff s c).1 (watch on)
      rw [off] at safe
      cases safe
    rcases storeGroup_circuit s g k c with same | changed
    · rw [same]
      exact ⟨lit, request, fun on => absurd on unwatched⟩
    · rw [changed]
      exact ⟨lit, request, fun on => absurd on unwatched⟩
  · exact flightLaw_of_same (congrArg Drive.on (storeGroup_drive s g k w.circuit)) id (flights w flight)

theorem opens_measureLaw {s v : State} (h : s.Opens v) (output : s.OutputInv) (law : s.MeasureLaw) : v.MeasureLaw := by
  cases h with
  | supplied dark =>
    obtain ⟨asks, flights⟩ := (measureLaw_iff s).1 law
    refine (measureLaw_iff _).2 ⟨fun c => ?_, fun w flight => flightLaw_of_same (s := s) rfl (fun _ => rfl) (flights w flight)⟩
    obtain ⟨lit, request, watch⟩ := asks c
    exact ⟨lit, request, fun on => watched_stays (s := s) (t := s.safeOn.enterState .startFlash) (fun _ => rfl) (fun _ => rfl) (fun _ ne => ne) (watch on)⟩
  | green g due =>
    obtain ⟨k, config⟩ := greenDue_config due
    obtain ⟨⟨-, -, lit⟩, kept⟩ := move_measureLaw (.awaited g none) ⟨output, law⟩
    exact greenSet_measureLaw (gained_config config none) lit kept
  | half =>
    refine changeHalf_keeps law (fun _ l => l) fun ordered groups output l => ?_
    exact ordered_measureLaw ordered (by rw [output]) (fun c h => .inl (by rw [watched_congr groups output c]; exact h)) l
  | stored g k off => exact storeGroup_measureLaw g k off law
  | softReset =>
    refine measureLaw_of_unasked (fun c => ?_) rfl
    rw [softReset_off output.1.2.2.2 c]
    have circuit : s.softReset.circuit c = (s.darkened.circuit c).atSoftReset := Table.get_map ..
    rw [circuit]
    exact ⟨rfl, rfl, rfl⟩
  | reset cause held =>
    refine measureLaw_of_unasked (fun c => ?_) rfl
    rw [reset_circuits]
    exact ⟨rfl, rfl, rfl⟩
  | _ => exact law


/-- Settles O57. -/
theorem stepsKeepOneMeasurement : Obligations.StepsKeepOneMeasurement := by
  intro s t h
  refine ⟨fun law => ?_, fun law => ?_, fun output law => ?_⟩
  · exact law_kept move_channelLaw (fun _ _ _ _ l => l) law (fun l _ o => opens_channelLaw o l) h
  · rcases step_cases h with same | ⟨p, v, u, -, -, ⟨w, rfl⟩ | ⟨rfl, kept⟩⟩
    · rw [same]
      exact law
    · exact settle_arbitrated w u
    · exact kept law
  · refine (law_kept (L := fun u => u.OutputInv ∧ u.MeasureLaw) move_measureLaw (fun _ _ _ _ l => l) ⟨output, law⟩ ?_ h).2
    rintro r v ⟨output, law⟩ - first
    exact ⟨opens_outputInv first output, opens_measureLaw first output law⟩

end Sys2Proof.Machine
end
